-- ==== Sys2Proof/Word.lean ====
section
/-! DEFINITION. The plain words of the model: bytes, lines, tags, requester attributes (Table 2.8),
status codes (Table 1.11) and the one sparse-table type every table of the block uses. -/

namespace Sys2Proof

/-- One byte. -/
abbrev Byte := BitVec 8
/-- A byte string, byte 0 first. -/
abbrev Bytes := List Byte
/-- A 128 B line; byte 0 in bits [7:0] (R5, Table 2.2). -/
abbrev Line := BitVec 1024
/-- The 16 B sideband of a line (R84). -/
abbrev Sideband := BitVec 128
/-- One 64 B flit (R43). -/
abbrev Flit := BitVec 512
/-- One AES block; byte 0 in bits [7:0] (R80). -/
abbrev Block128 := BitVec 128
/-- 256 bits of key material; byte 0 in bits [7:0]. -/
abbrev Key := BitVec 256
/-- A 48-byte digest (SHA-384), byte 0 in bits [7:0]. -/
abbrev Digest := BitVec 384
/-- Tenant tag of a request (Table 2.2). -/
abbrev Tag := BitVec 6
/-- Context number. -/
abbrev Ctx := BitVec 16
/-- Line address, bits [51:7] of a host physical address. -/
abbrev LineAddr := BitVec 45
/-- Package number. -/
abbrev Pkg := BitVec 14
/-- A 64-bit register word. -/
abbrev Word := BitVec 64

/-- A sparse table: pairs of index and entry, indices strictly rising, no entry equal to the default. -/
abbrev Sparse (α : Type) := List (Nat × α)

/-- Requester attribute of a ZCP access (Table 2.8): host kernel, host tenant, management, debug. -/
inductive Attr where
  | k | t | m | d
  deriving DecidableEq, Repr

/-- Status codes of Table 1.11. -/
inductive Status where
  | ok | tagFail | sorrelFail | keyOrphaned | keyExhausted | poison | timeout | indeterminate
  | notOwner | epochReject | replay | aborted | outOfService | inexact | residueFail | quota
  | badConfig | lifecycle | tamper | debugSubst
  deriving DecidableEq, Repr

end Sys2Proof
end

