-- ==== Sys2Proof/Syntax.lean ====
section
/-! DEFINITION. The commands of the block: one constructor of `Instr` per row of spec/opcode_table.json,
in the table's order. The table prints no operands; each constructor carries what the row's rule says
the event brings with it (log 8). A slice, instance or package is named by its number. -/

namespace Sys2Proof

/-- A ZCP requester: the instance whose window is accessed, the attribute and the tag (Table 2.8). -/
structure ZReq where
  inst : Nat
  attr : Attr
  tag  : Tag
  deriving DecidableEq, Repr

/-- Where a command of an engine comes from: a register write (with the word written), a command
queue whose fetched command is ready (R321), or the kernel command port (R325). -/
inductive Src where
  | reg (z : ZReq) (w : Word)
  | queue (q : Nat)
  | kport
  deriving DecidableEq, Repr

/-- A request accepted on MN_ (Table 2.2). -/
structure MnReq where
  addr  : LineAddr
  tag   : Tag
  ctx   : Ctx
  layer : BitVec 16
  opid  : BitVec 16
  id    : BitVec 10
  deriving DecidableEq, Repr

/-- The write fields of MN_ (Table 2.2). -/
structure MnWr where
  data   : Line
  svalid : Bool
  sorrel : BitVec 32
  poison : Bool
  deriving DecidableEq, Repr

/-- A fault of the hardware that the step meets: none, the two Dual copies disagreeing in the datapath
or in a MAC (R238; of a write-back's tree MAC once, or again when recomputed), or an uncorrectable cache SRAM error on a
clean or a modified item (Table 4.4). -/
inductive HwFault where
  | none | dualData | dualMac | dualTree2 | cacheClean | cacheModified
  deriving DecidableEq, Repr

/-- A metadata item: region, share (package MCS number), level (0 counter block) and index (R93). -/
structure Item where
  region : Nat
  share  : Nat
  level  : Nat
  index  : Nat
  deriving DecidableEq, Repr

/-- Which transfer an MCS issues on MS_: the data of the read with this MN_ identifier, a metadata
item, the write of a hazard entry, the write-back of a metadata item, or a line of a page re-encryption or sweep step. -/
inductive MsWhat where
  | data (id : BitVec 10)
  | item (i : Item)
  | entry (seq : Nat)
  | back (i : Item)
  | line (host : Nat)
  deriving DecidableEq, Repr

/-- Memory's answer for one line read inside a whole step (R102). -/
structure MemAns where
  line   : Nat
  data   : Line
  sb     : Sideband
  poison : Bool
  deriving DecidableEq, Repr

/-- One transfer on LT_OR (Table 2.4). -/
structure LtOr where
  op     : BitVec 5
  addr   : LineAddr
  tag    : Tag
  ctx    : Ctx
  layer  : BitVec 16
  opid   : BitVec 16
  id     : BitVec 12
  attr   : BitVec 16
  data   : Line
  svalid : Bool
  sorrel : BitVec 32
  deriving DecidableEq, Repr

/-- A completion on LT_IC (Table 2.4). -/
structure LtIc where
  id      : BitVec 12
  data    : Line
  poison  : Bool
  status  : Status
  sorrel  : BitVec 32
  sorigin : Bool
  deriving DecidableEq, Repr

/-- One cycle of LL_RX or LL_TX (Table 2.6): V, SOP, EOP and VC of its two slots, and their flits. -/
structure LlBeat where
  v    : BitVec 2
  sop  : BitVec 2
  eop  : BitVec 2
  vc   : BitVec 6
  data : BitVec 1024
  deriving DecidableEq, Repr

/-- A ring message as it reaches an instance on PR_RX: its 64-byte transfers (R54, R255), five for a PUSH. -/
structure RingIn where
  inst : Nat
  data : List (List Byte)
  deriving DecidableEq, Repr

/-- A beat of MG_RX (R57): four bytes, SOM, EOM and the valid bytes of the EOM beat minus 1. -/
structure MgBeat where
  data : BitVec 32
  som  : Bool
  eom  : Bool
  last : BitVec 2
  deriving DecidableEq, Repr

/-- A mailbox requester: attribute of the half (K or M), and for M the secured session it speaks in. -/
structure MbReq where
  attr  : Attr
  sess  : Option Nat
  token : BitVec 32
  deriving DecidableEq, Repr

/-- SPDM transports of Table 10.2. -/
inductive Transport where
  | doe | mctp | relay
  deriving DecidableEq, Repr

/-- An SPDM requester: transport and, inside a secured session, its number. -/
structure SpdmReq where
  tr   : Transport
  sess : Option Nat
  deriving DecidableEq, Repr

/-- Header of a domain message (R283): domain, sender, sender's identity, sequence, whether the
signature verifies, and whether it came over an UP pair (where no signature is carried). -/
structure DomHdr where
  domain : BitVec 64
  sender : Pkg
  ident  : Digest
  seq    : BitVec 64
  sigOk  : Bool
  onPair : Bool
  deriving DecidableEq, Repr

/-- The Ryudor certificate chain as CERT_LOAD brings it (R277): the keys of its two leaves, the root
certificate, and all of the chain's bytes. -/
structure CertChain where
  leafEc  : BitVec 776
  leafDsa : BitVec 20736
  root    : List Byte
  certs   : List Byte
  deriving DecidableEq, Repr

/-- What ADMIT carries (R285): the ML-KEM-1024 ciphertext to the member's index 4, K_DOM wrapped, the
domain's times and grant, the policy hash and SPAN, the DKA's and the standby's identities. -/
structure Admit where
  ct      : BitVec 12544
  wrapped : List Byte
  epochN  : BitVec 5
  t0      : BitVec 64
  grant   : BitVec 24
  polHash : Digest
  span    : Bool
  dka     : Digest
  standby : Option (Pkg × Digest)
  deriving DecidableEq, Repr

/-- What a candidate's EVIDENCE shows (R284): whether both signatures chain to the Device Root over the
nonce, its import key (block 0x09), the blocks the policy judges, and the bytes of its chains and of its
signed response. -/
structure Evidence where
  chainOk    : Bool
  ek         : BitVec 12544
  nonce      : Key
  fwHash     : Digest
  arb        : Nat
  layoutHash : Digest
  lcState    : BitVec 2
  debug      : Bool
  ppPass     : Bool
  storeOpen  : Bool
  storeSeq   : BitVec 64
  importGen  : BitVec 32
  certs      : List Byte
  resp       : List Byte
  deriving DecidableEq, Repr

/-- A fence line (Table 11.5) as it reaches this package from a peer package. -/
structure FenceLine where
  src    : Pkg
  value  : BitVec 64
  handle : BitVec 64
  status : Status
  tag    : Tag
  fails  : BitVec 24
  deriving DecidableEq, Repr

/-- Why an invocation ends at this package without a row of its own (Table 12.6, Table 7.12). -/
inductive InvCause where
  | laneOut | pairDown | rowResidue | sorrel | poison | peer (s : Status)
  deriving DecidableEq, Repr

/-- A Layout Image as its sections say it (Table 13.7), one record per instance. -/
structure LayInst where
  num     : Nat
  role    : Nat
  mcsBase : Nat
  lcsBase : Nat
  nMcs    : Nat
  nLcs    : Nat
  waves   : List Nat
  deriving DecidableEq, Repr

/-- One package map entry (R105). -/
structure MapEntry where
  base  : Nat
  pages : Nat
  w     : Nat
  f     : Nat
  b     : Nat
  deriving DecidableEq, Repr

/-- Channel group of an MCS (R39, R106): channels, sideband storage, metadata carve-out. -/
structure Group where
  mcs      : Nat
  channels : Nat
  sideband : Bool
  carve    : Nat
  carveLen : Nat
  deriving DecidableEq, Repr

/-- A serving range of window address space, in 2 MiB units (R160). -/
structure Serving where
  inst : Nat
  base : Nat
  size : Nat
  deriving DecidableEq, Repr

/-- A Layout Image (R381, Table 13.7): its bytes and what its sections say: instances, MCS pairs, fabric port
per LCS, channel groups, map, salt seed, serving ranges, way and walk-class values per MCS, Store section. -/
structure LayoutImg where
  bytes    : List Byte
  insts    : List LayInst
  pairs    : List (Nat × Nat)
  ports    : List (Nat × Nat)
  groups   : List Group
  map      : List MapEntry
  seed     : BitVec 128
  serving  : List Serving
  ways     : List (Nat × List (Tag × Bool))
  walk     : List (Nat × List (Nat × Nat))
  store    : Nat
  ctxBase  : BitVec 31
  jnlBase  : BitVec 31
  pkg      : Pkg
  deriving DecidableEq, Repr

/-- A Sage firmware image: its bytes, and the release MAJOR and the SVN that its header holds (R382). -/
structure FwImg where
  bytes  : List Byte
  major  : Nat
  svn    : Nat
  deriving DecidableEq, Repr

/-- What a BOOT_END delivers, once the image is whole: the Layout Image, firmware slot A or B, or
nothing usable. -/
inductive BootImg where
  | layout (l : LayoutImg)
  | firmware (slot : Bool) (f : FwImg)
  deriving DecidableEq, Repr

/-- The fields of a domain policy image (Table 10.4a). -/
structure Policy where
  epochN     : Nat
  flags      : BitVec 8
  domainId   : BitVec 64
  dka        : BitVec 16
  standby    : BitVec 16
  maxMembers : Nat
  fw         : List Digest
  layout     : List Digest
  minRoll    : Nat
  deriving DecidableEq, Repr

/-- A context in a migration blob (R307). -/
structure MigCtx where
  index  : Nat
  label  : Word
  deriving DecidableEq, Repr

/-- A queue in a migration blob. -/
structure MigQueue where
  index : Nat
  ctx   : Nat
  isOpen : Bool
  prio  : Nat
  log2  : Nat
  ring  : Nat
  comp  : Nat
  tail  : BitVec 32
  head  : BitVec 32
  cdone : BitVec 32
  deriving DecidableEq, Repr

/-- A fence in a migration blob. -/
structure MigFence where
  index  : Nat
  ctx    : Nat
  value  : Word
  status : Status
  fails  : Nat
  deriving DecidableEq, Repr

/-- A key entry with MIGRATE in a migration blob: metadata, old index and EXPORT blob. -/
structure MigKey where
  index  : Nat
  parent : Nat
  depth  : Nat
  type   : Nat
  usage  : BitVec 8
  persist : Bool
  owner  : Nat
  budget : Nat
  blob   : Bytes
  deriving DecidableEq, Repr

/-- A region in a migration blob: number of its mode (Table 3.1). -/
structure MigRgn where
  index   : Nat
  mode    : Nat
  vbu     : Bool
  spol    : Nat
  wclass  : Nat
  tri     : Nat
  owner   : Nat
  base    : Nat
  size    : Nat
  version : Nat
  key     : Nat
  digest  : Word
  deriving DecidableEq, Repr

/-- What a migration blob holds (R307), before its encryption; `dropped` are the entries without MIGRATE. -/
structure MigBlob where
  tdisp   : Bool
  pasid   : BitVec 20
  stream  : BitVec 8
  ifid    : BitVec 16
  ctxs    : List MigCtx
  queues  : List MigQueue
  fences  : List MigFence
  keys    : List MigKey
  dropped : List Nat
  regions : List MigRgn
  deriving DecidableEq, Repr

/-- State of an identity binding (LCY_BIND_VIEW, R286). -/
inductive BindState where
  | free | admitted | quarantined
  deriving DecidableEq, Repr

/-- An identity binding table entry (R286); at the DKA and its standby with the member's evidence (R292). -/
structure Bind where
  state    : BindState := .free
  pkg      : Pkg := 0
  ident    : Digest := 0
  ek       : Option Digest := none
  used     : Nat := 0
  evid     : Option Evidence := none
  answered : Bool := false
  deriving DecidableEq, Repr

/-- A change of the DKA's domain state, sent to the standby before it takes effect (R293). -/
inductive DomChg where
  | enrol (e : Bind) (ek : BitVec 12544) (rejoin : Bool) | drop (pkg : Pkg) (ident : Digest)
  | clash (a : Bind) | keep (pkg : Pkg) (ident : Digest) | evidence (e : Bind) | grant (max : Nat)
  deriving DecidableEq, Repr

/-- A full copy of the DKA's domain state (R293): the policy, the binding table, the bundle's SEQ and time,
the grant. -/
structure DomCopy where
  policy    : Option Policy
  binds     : List (Nat × Bind)
  bundleSeq : Nat
  bundleAt  : BitVec 64
  grant     : Nat
  deriving DecidableEq, Repr

/-- A domain message as RELAY_IN delivers it (R283): its header and what it carries. -/
inductive DomMsg where
  | join (h : DomHdr) | challenge (h : DomHdr) (nonce : Key) | evidence (h : DomHdr) (e : Evidence)
  | admission (h : DomHdr) (a : Admit) | refuse (h : DomHdr) (st : Status) | quarantine (h : DomHdr) (pkg : Pkg)
  | rebind (h : DomHdr) (pkg : Pkg) (ident : Digest) | release (h : DomHdr) (pkg : Pkg) | leave (h : DomHdr)
  | bindQuery (h : DomHdr) (pkg : Pkg) (claim : Option Digest) (answer : Option (Digest × Digest × Bool))
  | hello (h : DomHdr) (ek : BitVec 12544) (lcs : List Nat)
  | helloAck (h : DomHdr) (ct : BitVec 12544) (pairs : List (Nat × Nat × List Byte)) | helloFin (h : DomHdr) (epoch : BitVec 24)
  | heartbeat (h : DomHdr) | takeover (h : DomHdr) | takeoverAck (h : DomHdr) | oosNotice (h : DomHdr)
  | pkgLost (h : DomHdr) (pkg : Pkg) | epochGrant (h : DomHdr) (max : BitVec 24)
  | restored (h : DomHdr) (tag : Tag) | commit (h : DomHdr) (tag : Tag) (go : Bool)
  | change (h : DomHdr) (c : DomChg) | copy (h : DomHdr) (x : DomCopy)
  deriving DecidableEq, Repr

/-- The commands, one constructor per row of spec/opcode_table.json in its order. -/
inductive Instr where
  -- resets and supplies
  | rstHardNAssert
  | rstHardNRelease
  | rstSoft (inst : Nat)
  | computeRstIndRise (inst : Nat)
  | computeRstIndFall (inst : Nat)
  | aoPowerCycle (inst : Nat)
  | vaoGoodAssert (inst : Nat)
  | vddFailSleep (inst : Nat)
  -- memory path
  | mnReadRequest (n : Nat) (rq : MnReq) (hw : HwFault)
  | mnWriteRequest (n : Nat) (rq : MnReq) (w : MnWr) (hw : HwFault)
  | pageReencryptionEnd (n : Nat)
  | hazardEntryCommit (n : Nat) (seq : Nat)
  | msReadIssue (n : Nat) (what : MsWhat)
  | msWriteIssue (n : Nat) (what : MsWhat)
  | msRdataReturn (n : Nat) (id : BitVec 10) (data : Line) (sb : Sideband) (poison : Bool) (hw : HwFault)
  | msWackReturn (n : Nat) (id : BitVec 10)
  | msCreditReturn (n : Nat) (rd wr : BitVec 4)
  | deferredVerifyEnd (n : Nat) (id : BitVec 10) (hw : HwFault)
  | mnRdataTransfer (n : Nat)
  | mnPntTransfer (n : Nat)
  | walkFetchStart (n : Nat) (cls : Nat)
  | metadataEviction (n : Nat) (i : Item) (hw : HwFault)
  | keyWaitRelease (n : Nat)
  | pairTakeover (z : ZReq) (k : Nat)
  | pairTakeoverDone (k : Nat)
  | pairHandback (z : ZReq) (k : Nat)
  | mcsFaultTakeover (n : Nat) (sramOk : Bool)
  | chiveLaneFailure (isLcs : Bool) (n : Nat) (lane : Nat)
  | mcsDualWrite (z : ZReq) (isLcs : Bool) (n : Nat) (w : Word)
  | mcsWalkWrite (z : ZReq) (n : Nat) (c : Nat) (w : Word)
  -- regions
  | create (src : Src)
  | finishLoad (src : Src)
  | adopt (src : Src)
  | retire (src : Src)
  | retireComplete (index : Nat)
  | rekey (src : Src)
  | update (src : Src)
  | rekeySweepStep (n : Nat)
  | rekeySweepEnd (index : Nat)
  | checkSweepEnd (index : Nat) (ans : List MemAns)
  -- fabric and link
  | ltOrRequest (inst port : Nat) (xfers : List LtOr)
  | tlbMissFill (inst port : Nat)
  | ltIcCompletion (n : Nat) (c : LtIc) (hw : HwFault)
  | ltOcTransfer (inst port : Nat)
  | egressSelect (n : Nat) (hw : HwFault)
  | llTxCreditReturn (n : Nat) (crd : BitVec 16)
  | llRxPacket (n : Nat) (l : List LlBeat) (hw : HwFault)
  | llUpRise (n : Nat)
  | llUpFall (n : Nat) (cut : Bool)
  | llRxModeChange (n : Nat) (mode : Bool)
  | retrainLimitExpiry (n : Nat)
  | resyncReq (n : Nat) (l : List LlBeat)
  | resyncAck (n : Nat) (l : List LlBeat)
  | resyncRetryTimer (n : Nat) (pair : Nat)
  | esbAdmission (inst : Nat) (port : Nat)
  | spillReturn (inst : Nat)
  | esbCtrlWrite (z : ZReq) (w : Word)
  | esbClassWrite (z : ZReq) (c : Nat) (w : Word)
  | esbWredWrite (z : ZReq) (x : Nat) (w : Word)
  | esbMeterWrite (z : ZReq) (t : Nat) (hi : Bool) (w : Word)
  | lcsRxvcWrite (z : ZReq) (n v : Nat) (w : Word)
  | createWindow (src : Src)
  | delete (src : Src)
  | deleteComplete (index : Nat)
  | homeMaskPublish
  | homeMaskReceive (peer : Pkg) (mask : BitVec 64)
  | pathChangeRelease (inst : Nat) (dst : Pkg)
  | readTimeout (inst : Nat) (entry : Nat)
  | writeTimeout (inst : Nat) (entry : Nat)
  | atomicResend (inst : Nat) (entry : Nat)
  | atomicIndeterminate (inst : Nat) (entry : Nat)
  | arcEntryExpiry (n : Nat) (src : Pkg) (iinst : BitVec 7) (reqid : BitVec 32)
  | acquire (inst : Nat) (entry : Nat)
  | peerDead (peer : Pkg)
  -- reduction
  | planInstall (src : Src) (image : Bytes) (rd : Status)
  | planRemove (src : Src)
  | planInvoke (src : Src) (block : BitVec 512) (rd : Status)
  | heldPacketExpiry (n : Nat)
  | stepLineProduce (n : Nat) (hw : HwFault)
  | operandPrefetchReturn (inv step : Nat) (data : Line) (poison : Bool) (status : Status) (sorrel : BitVec 32)
  | stepInputTimeout (inv step : Nat)
  | invocationEnd (inv : Nat) (cause : InvCause)
  | invocationComplete (inv : Nat)
  | abortRecordExpiry (n : Nat) (k : Nat)
  | rlCtrlWrite (z : ZReq) (n : Nat) (w : Word)
  | silentErrorReport (r : RingIn)
  | coverageCounterWrite (z : ZReq) (isLcs : Bool) (n k : Nat) (w : Word)
  -- keys
  | derive (src : Src) (data : Bytes) (rd : Status)
  | generate (src : Src)
  | importKey (src : Src) (data : Bytes) (rd : Status)
  | decaps (src : Src) (data : Bytes) (rd : Status)
  | invalidate (src : Src)
  | exportKey (src : Src)
  | mintComplete
  | rueSweepVisit
  | keyload (inst : Nat) (num : Nat) (role : Nat) (key : Key)
  | layout (r : RingIn)
  | layoutAck (src : Nat) (data : List (List Byte))
  | layoutAckTimeout (inst : Nat)
  | push (r : RingIn)
  | fillReq (r : RingIn)
  | fillNeg (r : RingIn)
  | evict (r : RingIn)
  | inval (r : RingIn)
  | invalAck (r : RingIn)
  | grantReq (r : RingIn)
  | grant (r : RingIn)
  | recall (r : RingIn)
  | recallAck (r : RingIn)
  | zeroize (r : RingIn)
  | roofSlotReadReply (n : Nat) (node : Nat) (sealOk : Bool)
  | ringHopBroken (inst : Nat) (east : Bool)
  | ringHopRestored (inst : Nat) (east : Bool)
  | scuAes256Encrypt (z : ZReq) (w : Word)
  | scuAes256Decrypt (z : ZReq) (w : Word)
  | scuAes128Encrypt (z : ZReq) (w : Word)
  | scuAes128Decrypt (z : ZReq) (w : Word)
  | scuSha384 (z : ZReq) (w : Word)
  | scuKmac256 (z : ZReq) (w : Word)
  | scuMlkemKeygen (z : ZReq) (w : Word)
  | scuMlkemEncaps (z : ZReq) (w : Word)
  | scuMlkemDecaps (z : ZReq) (w : Word)
  | scuMldsaKeygen (z : ZReq) (w : Word)
  | scuMldsaSign (z : ZReq) (w : Word)
  | scuMldsaVerify (z : ZReq) (w : Word)
  | scuEcdsaKeygen (z : ZReq) (w : Word)
  | scuEcdsaSign (z : ZReq) (w : Word)
  | scuEcdsaVerify (z : ZReq) (w : Word)
  | scuAbort (z : ZReq)
  | scuXferIn (z : ZReq) (len : BitVec 12)
  | scuXferOut (z : ZReq)
  | scuOpComplete (page : Nat)
  | serviceRequestDescriptor
  | drbgHealthFailure
  | sealedStoreUpdate
  | flRsp (data : List Byte) (err : BitVec 2)
  | flashTimeout
  -- tamper and test
  | tamperInEvent (inst : Nat) (k : BitVec 2)
  | tamperGlitchEvent (inst : Nat) (k : BitVec 2)
  | meshTamperEvent (inst : Nat) (sns : Bool)
  | voltageTamperEvent (inst : Nat)
  | clockGlitchEvent (inst : Nat)
  | temperatureTamperEvent (inst : Nat)
  | scanRequest (inst : Nat)
  -- time and epochs
  | tmTick (inst : Nat) (time interp : BitVec 64)
  | epochBoundary
  | previousEpochKeyErase
  | epochGrant (h : DomHdr) (max : BitVec 24)
  -- host link keys
  | ideKeyProg (sess : SpdmReq) (stream : BitVec 8) (sub : BitVec 2) (dir kset : Bool) (key : Key) (ifv : BitVec 64)
  | ideKSetGo (sess : SpdmReq) (stream : BitVec 8) (sub : BitVec 2) (dir kset : Bool)
  | ideKSetStop (sess : SpdmReq) (stream : BitVec 8) (sub : BitVec 2) (dir kset : Bool)
  | hkAck (err : Bool)
  | hkAckTimeout
  | mgPacket (type : BitVec 8) (beats : List MgBeat)
  -- attestation
  | getVersion (r : SpdmReq)
  | getCapabilities (r : SpdmReq)
  | negotiateAlgorithms (r : SpdmReq)
  | getDigests (r : SpdmReq)
  | getCertificate (r : SpdmReq) (slot : Nat)
  | challenge (r : SpdmReq) (slot : Nat) (nonce : Key)
  | getMeasurements (r : SpdmReq) (index : Nat) (signed : Bool) (nonce : Key)
  | keyExchange (r : SpdmReq) (mgmt : Bool) (exch : BitVec 768)
  | finish (r : SpdmReq) (chainRoot : Digest) (sigOk : Bool)
  | keyUpdate (r : SpdmReq)
  | heartbeatSpdm (r : SpdmReq)
  | endSession (r : SpdmReq)
  | chunkSend (r : SpdmReq) (seq : Nat) (last : Bool) (data : Bytes)
  | chunkGet (r : SpdmReq) (seq : Nat)
  | domPolicy (r : SpdmReq) (image : List Byte)
  | domResolve (r : SpdmReq) (pkg : Pkg) (keep : Digest)
  | domAbort (r : SpdmReq) (tag : Tag)
  | getBundle (r : SpdmReq) (off len : Nat)
  | getMemberEvidence (r : SpdmReq) (pkg : Pkg)
  | getPqChain (r : SpdmReq)
  | getTdispVersion (r : SpdmReq)
  | getTdispCapabilities (r : SpdmReq)
  | lockInterfaceRequest (r : SpdmReq) (tag : Tag) (stream : BitVec 8)
  | getDeviceInterfaceReport (r : SpdmReq) (tag : Tag)
  | getDeviceInterfaceState (r : SpdmReq) (tag : Tag)
  | startInterfaceRequest (r : SpdmReq) (tag : Tag)
  | stopInterfaceRequest (r : SpdmReq) (tag : Tag)
  -- mailbox commands
  | relayOut (m : MbReq)
  | relayIn (m : MbReq) (x : DomMsg)
  | certLoad (m : MbReq) (c : CertChain)
  | domJoin (m : MbReq) (dka : Pkg) (domain : BitVec 64)
  | domLeave (m : MbReq)
  | pairConnect (m : MbReq) (inst : Nat) (peer : Pkg)
  | pairConnectTimeout (peer : Pkg)
  | tinstCreate (m : MbReq) (tag : Tag) (pasid : BitVec 20) (tdisp : Bool) (ifid : BitVec 16)
  | tinstDestroy (m : MbReq) (tag : Tag)
  | migOpen (m : MbReq) (tag : Tag) (peer : Pkg) (source : Bool) (evidenceOk : Bool) (kem : BitVec 12544) (transcript : List Byte)
  | migFreeze (m : MbReq) (tag : Tag)
  | migExport (m : MbReq) (tag : Tag)
  | migRestore (m : MbReq) (tag : Tag) (blob : MigBlob) (data : List Byte)
  | migAbort (m : MbReq) (tag : Tag)
  | restored (h : DomHdr) (tag : Tag)
  | commit (h : DomHdr) (tag : Tag) (go : Bool)
  | migrationAnswerTimeout (tag : Tag) (released : Bool)
  -- domain messages
  | join (h : DomHdr)
  | challengeDomain (h : DomHdr) (nonce : Key)
  | evidence (h : DomHdr) (e : Evidence)
  | admissionTimeout (ident : Digest)
  | admitMember (h : DomHdr) (a : Admit)
  | refuse (h : DomHdr) (st : Status)
  | quarantine (h : DomHdr) (pkg : Pkg)
  | rebind (h : DomHdr) (pkg : Pkg) (ident : Digest)
  | releasePeer (h : DomHdr) (pkg : Pkg)
  | leave (h : DomHdr)
  | bindQuery (h : DomHdr) (pkg : Pkg) (claim : Option Digest) (answer : Option (Digest × Digest × Bool))
  | hello (h : DomHdr) (ek : BitVec 12544) (lcs : List Nat)
  | helloAck (h : DomHdr) (ct : BitVec 12544) (pairs : List (Nat × Nat × List Byte))
  | helloFin (h : DomHdr) (epoch : BitVec 24)
  | heartbeat (h : DomHdr)
  | dkaHeartbeatTimer
  | standbyHeartbeatLoss
  | takeover (h : DomHdr)
  | takeoverAck (h : DomHdr)
  | domainReplicationAck
  | domainReplicationTimeout
  | oosNotice (h : DomHdr)
  | pkgLost (h : DomHdr) (pkg : Pkg)
  -- contexts, queues and fences
  | ctxQtailWrite (z : ZReq) (q : Nat) (w : Word)
  | queueCommandStart (q : Nat) (slots : Line) (rd : Status)
  | completionRecordWrite (q : Nat) (wr : Status)
  | nop (src : Src)
  | ctxDefine (src : Src)
  | ctxDestroy (src : Src)
  | ctxSeal (src : Src)
  | ctxRestore (src : Src)
  | qCreate (src : Src)
  | qDestroy (src : Src)
  | qRestart (src : Src)
  | fncCreate (src : Src)
  | hold (src : Src)
  | release (src : Src)
  | objectFree (type : BitVec 4) (index : Nat)
  | kernelCommandGo (z : ZReq) (w : Word)
  | ctxStoreLock (z : ZReq) (w : Word)
  | jnlBaseLock (z : ZReq) (w : Word)
  | fenceSignalApply (src : Src)
  | fenceWaitSatisfied (q : Nat)
  | signal (f : FenceLine)
  | signalAck (f : FenceLine)
  | signalResendTimer (src : Src)
  | subscribe (f : FenceLine)
  | unsubscribe (f : FenceLine)
  | updateFence (f : FenceLine)
  | query (f : FenceLine)
  | queryTimer (index : Nat)
  | fenceSlotFree (index : Nat)
  | sealStreamLine (n : Nat) (write : Bool) (rq : MnReq) (data : Line) (sb : Sideband)
  | sealEnd (slot : Nat)
  | restoreEnd (slot : Nat)
  | sealTimeout (slot : Nat) (restore : Bool)
  -- Bay
  | abort (z : ZReq)
  | soft (z : ZReq)
  | hard (z : ZReq)
  | oosClear (z : ZReq) (sess : Option Nat)
  | abortFlitReceive (n : Nat) (f : Flit)
  | bayFreezeRelease
  | bayCtrlWrite (z : ZReq) (w : Word)
  -- PP and SP
  | replicationAck
  | replicationTimeout
  | spFullCopyEnd
  | leaseRenewalTimer (reached : Nat)
  | leaseExpiry
  | ppHeartbeat
  | ppHeartbeatLoss
  | leaseReq (pkg : Pkg) (afterExpiry : Nat)
  | leaseGrant
  | relinquish
  | bayOltTakeOut (z : ZReq) (w : Word)
  | bayOltReturn (z : ZReq) (w : Word)
  | lcsRejoinHoldExpiry (n : Nat)
  | sliceRejoinBist (isLcs : Bool) (n : Nat)
  -- boot and life cycle
  | otGnt (inst : Nat) (level : Bool)
  | otRsp (data : BitVec 32) (err : Bool)
  | bootReq
  | bootData (off : Nat) (data : Bytes)
  | bootEnd (img : BootImg)
  | bistWaveEnd (res : List (Nat × Nat × BitVec 24 × BitVec 64))
  | bootRelease
  | lcyAdvance (m : MbReq) (target : BitVec 2) (serial : BitVec 64)
  | otpFuseHash (m : MbReq) (layoutKey : Bool) (hash : Digest)
  | dbgChallenge (m : MbReq)
  | dbgAuth (m : MbReq) (token : List Byte)
  | fwStage (m : MbReq) (img : FwImg)
  | fwActivate (m : MbReq) (reset : Bool)
  -- telemetry
  | telCfgWrite (z : ZReq) (k : Nat) (w : Word)
  | telCntWrite (z : ZReq) (k : Nat) (w : Word)
  | armSnapshot (z : ZReq) (w : Word)
  | snapshotLatch (inst : Nat)
  | telTrcWrite (z : ZReq) (s : Nat) (w : Word)
  | traceLineFlush (inst : Nat) (s : Nat)
  | armDump (z : ZReq) (d : Nat) (w : Word)
  | cancel (z : ZReq) (d : Nat) (w : Word)
  | dumpStart (d : Nat)
  | dumpEnd (d : Nat) (lines : List (Line × Status))
  | tstForceWrite (z : ZReq) (w : Word)
  | registerWrite (z : ZReq) (wr : Bool) (off : Nat) (w : Word)
  -- completions of the steps above
  | lcyAdvanceReset
  | otRspTimeout
  | basilTestEnd (isLcs : Bool) (n : Nat) (lane : Option Nat) (failLanes : BitVec 24) (misr : BitVec 64)
  | migFreezeTimeout (tag : Tag)
  | quarantineChallengeTimeout (pkg : Pkg)
  | pkgLostWaitExpiry (pkg : Pkg)
  | mnWackTransfer (n : Nat)
  | ltIrTransfer (n : Nat)
  | hkReadyAccept
  | wakeFromSleep (inst : Nat)
  | snapshotArmArrival (r : RingIn)
  | roofSlotWrite (n : Nat) (node slot : Nat)
  | escalationWindowExpiry
  | standbyCatchUp
  deriving DecidableEq, Repr

end Sys2Proof
end

