-- ==== Sys2Proof/Config.lean ====
section
/-! DEFINITION. What an implementation fixes and the spec leaves open: constants without a body, so that no
proof can see their values (log 2, 5, 6, 11). Each is applied to what the open value depends on, or to the
counter of free values. -/

namespace Sys2Proof.Config

/-- 256 bits of the n-th DRBG draw (R269). -/
opaque draw : Nat → Key
/-- The Test Root of boot ROM (R248). -/
opaque testRoot : Key
/-- SHA-384 of the boot ROM (block 0x01, Table 10.3) and of the Ryudor Device Root it holds (R277). -/
opaque romHash : Digest
/-- SHA-384 of the boot ROM's copy of the Device Root (R277). -/
opaque deviceRoot : Digest
/-- Basil's reference signature for a unit kind: 0 base, 1 primary logic, 2 ESB, 4 MCS, 8 LCS (R378). -/
opaque misrRef : Nat → BitVec 64
/-- The Ryudor public keys whose hashes the boot ROM holds, ECDSA P-384 and ML-DSA-87: 0 signs firmware, 1 debug tokens (R372, R382). -/
opaque romKeys : Nat → List Byte × List Byte
/-- Next 8 bits of an ESB's LFSR, by the number of draws before (R150). -/
opaque esbRandom : Nat → BitVec 8
/-- Offset of an event's code inside its group of Table 14.1. -/
opaque eventOffset : Nat → Nat
/-- Cache set a metadata item falls in (Table 4.1): counter cache and tree-node cache. -/
opaque cacheSet : Item → Nat
/-- By how much the lines that an MCS has return space for exceed one (R36). -/
opaque lineExtra : Nat
/-- Lines that an MCS has return space for (R36): at least one (log 11). -/
def lineSpace : Nat := lineExtra + 1
/-- The 40-byte payload of a ring message: by its TYPE, what it says, and the number of the transfer (R255 lays none out). -/
opaque ringPayload : Nat → List Nat → Nat → BitVec 320
/-- TYPE of the ring messages that Table 9.7's list does not number: snapshot arm and silent-error report. -/
opaque ringType : Nat → BitVec 8
/-- By how much the LAYOUT messages of one instance exceed one (R375: Table 13.7 gives no count). -/
opaque layoutExtra : BitVec 11
/-- Offset and bit of the W1C status that clears the cause of an interrupt line, and of its mask (R63 names them, no rule places them). -/
opaque intStatus : Nat → Nat × Nat
/-- Offset and bit of the mask of an interrupt line. -/
opaque intMask : Nat → Nat × Nat
/-- The MESH_DRV pattern of a die, by the number of the sample (R67). -/
opaque meshDrive : Nat → Nat → Bool
/-- The nonce of an ECDSA signature, or the secret of an exchange on secp384r1, 384 bits of the n-th draw, by the attempt (R263, R278). -/
opaque ecNonce : Nat → Nat → BitVec 384
/-- A byte of a state line that the Context Manager writes into a sealed image (R336), and of an SPDM
response body that the spec does not lay out, by the n-th free value and position. -/
opaque freeByte : Nat → Nat → Byte
/-- Memory beyond Sage's share that a state image takes: state lines of an image (B of R336), at most 512. -/
opaque stateLines : Nat → BitVec 10

/-- The bytes of an SPDM message that the spec does not lay out, by what it is and what it says: 1 a measurement response before its
blocks, 2 the transcript of a key exchange, 3 that of a challenge (R278, R279). -/
opaque spdmBytes : Nat → List Nat → List Byte
/-- The contents of a raw measurement block whose layout Table 10.3 leaves open, by its index and what it says. -/
opaque rawBlock : Nat → List Nat → List Byte
/-- The DMTF value type of a measurement block (R279), by its index. -/
opaque measType : Nat → BitVec 7
/-- The to-be-signed part of an X.509 certificate (R277): layer, algorithm, public key, measurement. -/
opaque certBytes : Nat → Nat → List Byte → BitVec 384 → List Byte
/-- The 96-byte header of a domain message (R283 lists its fields and does not place them): the message, and the fields. -/
opaque domHeader : Nat → List Nat → BitVec 768
/-- The bytes of a domain message between header and signature, by the message and what it says. -/
opaque domBytes : Nat → List Nat → List Byte
/-- OP of a data packet that carries a domain message on the CTL class (R283; no table numbers it). -/
opaque domOp : BitVec 5

/-- The bytes of a migration blob before its encryption, as a number, by what it holds (R307 gives the sizes of its parts alone). -/
opaque migText : List Nat → Nat

/-- By how much one CHUNK_GET's part of a large SPDM response is longer than one byte (negotiated, not stated). -/
opaque chunkExtra : Nat
/-- Bytes of a large SPDM response that one CHUNK_GET returns: at least one (log 11). -/
def chunkBytes : Nat := chunkExtra + 1

end Sys2Proof.Config
end

