-- ==== Sys2Proof/Machine/Basic.lean ====
section
/-! DEFINITION. Status codes as numbers and ranks (Table 1.11), and the small bit-field helpers every
register of the block uses. -/

namespace Sys2Proof.Machine

/-- Number of a status (Table 1.11, column Code). -/
def statusCode : Status → Nat
  | .ok => 0x00 | .tagFail => 0x01 | .sorrelFail => 0x02 | .keyOrphaned => 0x03
  | .keyExhausted => 0x04 | .poison => 0x05 | .timeout => 0x06 | .indeterminate => 0x07
  | .notOwner => 0x08 | .epochReject => 0x09 | .replay => 0x0A | .aborted => 0x0B
  | .outOfService => 0x0C | .inexact => 0x0D | .residueFail => 0x0E | .quota => 0x0F
  | .badConfig => 0x10 | .lifecycle => 0x11 | .tamper => 0x12 | .debugSubst => 0x13

/-- Rank of a status (Table 1.11, column Rank; R25 reports the lowest). -/
def statusRank : Status → Nat
  | .ok => 20 | .tagFail => 12 | .sorrelFail => 13 | .keyOrphaned => 8
  | .keyExhausted => 9 | .poison => 15 | .timeout => 16 | .indeterminate => 17
  | .notOwner => 5 | .epochReject => 10 | .replay => 11 | .aborted => 4
  | .outOfService => 3 | .inexact => 18 | .residueFail => 14 | .quota => 7
  | .badConfig => 6 | .lifecycle => 2 | .tamper => 1 | .debugSubst => 19

/-- A received status byte; a reserved code is handled as ABORTED (R24). -/
def statusOf (n : Nat) : Status :=
  match n with
  | 0x00 => .ok | 0x01 => .tagFail | 0x02 => .sorrelFail | 0x03 => .keyOrphaned
  | 0x04 => .keyExhausted | 0x05 => .poison | 0x06 => .timeout | 0x07 => .indeterminate
  | 0x08 => .notOwner | 0x09 => .epochReject | 0x0A => .replay | 0x0B => .aborted
  | 0x0C => .outOfService | 0x0D => .inexact | 0x0E => .residueFail | 0x0F => .quota
  | 0x10 => .badConfig | 0x11 => .lifecycle | 0x12 => .tamper | 0x13 => .debugSubst
  | _ => .aborted

/-- The status of lower rank (R25). -/
def statusMin (a b : Status) : Status := if statusRank b < statusRank a then b else a

/-- R25: the reported status among several; OK where none applies. -/
def statusWorst (l : List Status) : Status := l.foldl statusMin .ok

/-- R26: every code but OK, INEXACT and DEBUG_SUBST says that the operation did not complete. -/
def statusFailing : Status → Bool
  | .ok | .inexact | .debugSubst => false
  | _ => true


/-- Bits [hi:lo] of a word as a number. -/
def fieldNat {w : Nat} (x : BitVec w) (hi lo : Nat) : Nat := (x.toNat >>> lo) % 2 ^ (hi + 1 - lo)

/-- One bit of a word. -/
def fieldBit {w : Nat} (x : BitVec w) (i : Nat) : Bool := x.getLsbD i

/-- A number placed at bit `lo` of a 64-bit word. -/
def putNat (lo v : Nat) : Word := BitVec.ofNat 64 (v <<< lo)

/-- A bit placed at bit `lo` of a 64-bit word. -/
def putBit (lo : Nat) (v : Bool) : Word := if v then putNat lo 1 else 0

/-- The fields of a register word joined. -/
def joinFields (l : List Word) : Word := l.foldl (· ||| ·) 0

/-- Word `w` (64 bits) of a wider value. -/
def wordOf (v w : Nat) : Word := BitVec.ofNat 64 (v >>> (64 * w))

/-- `v` with its 64-bit word `w` replaced. -/
def setWord {n : Nat} (v : BitVec n) (w : Nat) (x : Word) : BitVec n :=
  (v &&& ~~~ (BitVec.ofNat n ((2 ^ 64 - 1) <<< (64 * w)))) ||| BitVec.ofNat n (x.toNat <<< (64 * w))

/-- The first element of a list and the list without it, where a test holds. -/
def takeFirst {α : Type} (p : α → Bool) : List α → Option (α × List α)
  | [] => none
  | a :: t =>
    if p a then some (a, t)
    else match takeFirst p t with
      | none => none
      | some (x, r) => some (x, a :: r)

/-- The list with every element that a test holds of changed. -/
def updateWhere {α : Type} (p : α → Bool) (f : α → α) (l : List α) : List α :=
  l.map (fun a => if p a then f a else a)

/-- The lowest number from `k` on, `fuel` numbers looked at, that a test holds of. -/
def lowestFrom (p : Nat → Bool) : Nat → Nat → Option Nat
  | 0, _ => none
  | fuel + 1, k => if p k then some k else lowestFrom p fuel (k + 1)

/-- A list with element `i` changed. -/
def listMod {α : Type} (l : List α) (i : Nat) (f : α → α) : List α := l.modify i f

end Sys2Proof.Machine
end

