-- ==== Sys2Proof/Machine/Crypto.lean ====
section
/-! DEFINITION. The standard algorithms the spec names: AES (FIPS 197), GHASH, GCM and key wrap with
padding (NIST SP 800-38D, 38F), XTS (IEEE 1619), SHA-384, KMAC256 (NIST SP 800-185), CRC-32C (R81) and
the derivation KDF (R246). Everything is over byte strings, byte 0 first. -/

namespace Sys2Proof.Machine

/-- `n` bytes of a number, least significant first (R5). -/
def leBytes : Nat → Nat → Bytes
  | 0, _ => []
  | n + 1, v => BitVec.ofNat 8 v :: leBytes n (v / 256)

/-- The number a byte string spells, least significant byte first (R5). -/
def leNat : Bytes → Nat
  | [] => 0
  | b :: t => b.toNat + 256 * leNat t

/-- `n` bytes of a number, most significant first. -/
def beBytes (n v : Nat) : Bytes := (leBytes n v).reverse

/-- The number a byte string spells, most significant byte first. -/
def beNat (l : Bytes) : Nat := leNat l.reverse

/-- Bytewise exclusive or, as long as the shorter of the two. -/
def xorBytes (a b : Bytes) : Bytes := List.zipWith (· ^^^ ·) a b

/-- A list cut into pieces of `n`, `fuel` pieces at most. -/
def chunksOf {α : Type} (n : Nat) : Nat → List α → List (List α)
  | 0, _ => []
  | fuel + 1, l => if l.isEmpty then [] else l.take n :: chunksOf n fuel (l.drop n)

/-- A byte string in 16-byte blocks, the last one possibly short. -/
def blocks16 (l : Bytes) : List Bytes := chunksOf 16 (l.length / 16 + 1) l

/-- A byte string filled with zeros to a multiple of 16 bytes. -/
def pad16 (l : Bytes) : Bytes := l ++ List.replicate ((16 - l.length % 16) % 16) 0

/-- Bytes of a line, byte 0 in bits [7:0] (Table 2.2). -/
def lineBytes (l : Line) : Bytes := leBytes 128 l.toNat

/-- A line of its bytes. -/
def lineOf (b : Bytes) : Line := BitVec.ofNat 1024 (leNat b)

/-! ### AES -/

/-- S-box of FIPS 197, row r of the table packed with column 0 in the low byte. -/
def aesSbox : List Nat :=
  [0x76abd7fe2b670130c56f6bf27b777c63, 0xc072a49cafa2d4adf04759fa7dc982ca, 0x1531d871f1e5a534ccf73f362693fdb7, 0x75b227ebe28012079a059618c323c704,
   0x842fe329b3d63b52a05a6e1b1a2c8309, 0xcf584c4a39becb6a5bb1fc20ed00d153, 0xa89f3c507f02f94585334d43fbaaefd0, 0xd2f3ff1021dab6bcf5389d928f40a351,
   0x73195d643d7ea7c41744975fec130ccd, 0xdb0b5ede14b8ee4688902a22dc4f8160, 0x79e4959162acd3c25c2406490a3a32e0, 0x08ae7a65eaf4566ca94ed58d6d37c8e7,
   0x8a8bbd4b1f74dde8c6b4a61c2e2578ba, 0x9e1dc186b95735610ef6034866b53e70, 0xdf2855cee9871e9b948ed9691198f8e1, 0x16bb54b00f2d99416842e6bf0d89a18c]

/-- Inverse S-box of FIPS 197, row r of the table packed with column 0 in the low byte. -/
def aesInvSbox : List Nat :=
  [0xfbd7f3819ea340bf38a53630d56a0952, 0xcbe9dec444438e3487ff2f9b8239e37c, 0x4ec3fa420b954cee3d23c2a632947b54, 0x25d18b6d49a25b76b224d92866a12e08,
   0x92b6655dcc5ca4d41698688664f6f872, 0x849d8da75746155edab9edfd5048706c, 0x0645b3b80558e4f70ad3bc8c00abd890, 0x6b8a130103bdafc1020f3fca8f1e2cd0,
   0x73e6b4f0cecff297eadc674f4111913a, 0x6edf751ce837f9e28535ade72274ac96, 0x1bbe18aa0e62b76f89c5291d711af147, 0xf45acd78fec0db9a2079d2c64b3e56fc,
   0x5fec8027591012b131c7078833a8dd1f, 0xef9cc9939f7ae52d0d4ab519a97f5160, 0x619953833cbbebc8b0f52aae4d3be0a0, 0x7d0c2155631469e126d677ba7e042b17]

/-- One entry of a packed 256-entry table. -/
def tableAt (t : List Nat) (x : Byte) : Byte :=
  BitVec.ofNat 8 (t.getD (x.toNat / 16) 0 >>> (8 * (x.toNat % 16)))

/-- SubBytes on one byte. -/
def subByte (x : Byte) : Byte := tableAt aesSbox x

/-- InvSubBytes on one byte. -/
def invSubByte (x : Byte) : Byte := tableAt aesInvSbox x

/-- Multiplication by x in GF(2^8) with the polynomial of FIPS 197. -/
def xtimeByte (x : Byte) : Byte := if x.msb then (x <<< 1) ^^^ 0x1B#8 else x <<< 1

/-- Multiplication in GF(2^8) by a small constant (bits of `c` up to 8). -/
def gmulByte (c : Nat) (x : Byte) : Byte :=
  let x2 := xtimeByte x
  let x4 := xtimeByte x2
  let x8 := xtimeByte x4
  (if c.testBit 0 then x else 0) ^^^ (if c.testBit 1 then x2 else 0) ^^^
    (if c.testBit 2 then x4 else 0) ^^^ (if c.testBit 3 then x8 else 0)

/-- ShiftRows as a permutation of the 16 state bytes (column-major). -/
def shiftRows (s : Bytes) : Bytes :=
  [0, 5, 10, 15, 4, 9, 14, 3, 8, 13, 2, 7, 12, 1, 6, 11].map (fun i => s.getD i 0)

/-- InvShiftRows. -/
def invShiftRows (s : Bytes) : Bytes :=
  [0, 13, 10, 7, 4, 1, 14, 11, 8, 5, 2, 15, 12, 9, 6, 3].map (fun i => s.getD i 0)

/-- One column of MixColumns with row coefficients `c0 c1 c2 c3`. -/
def mixColumn (c0 c1 c2 c3 : Nat) : Bytes → Bytes
  | [a, b, c, d] =>
    [gmulByte c0 a ^^^ gmulByte c1 b ^^^ gmulByte c2 c ^^^ gmulByte c3 d,
     gmulByte c3 a ^^^ gmulByte c0 b ^^^ gmulByte c1 c ^^^ gmulByte c2 d,
     gmulByte c2 a ^^^ gmulByte c3 b ^^^ gmulByte c0 c ^^^ gmulByte c1 d,
     gmulByte c1 a ^^^ gmulByte c2 b ^^^ gmulByte c3 c ^^^ gmulByte c0 d]
  | s => s

/-- MixColumns. -/
def mixColumns (s : Bytes) : Bytes := (chunksOf 4 4 s).flatMap (mixColumn 2 3 1 1)

/-- InvMixColumns. -/
def invMixColumns (s : Bytes) : Bytes := (chunksOf 4 4 s).flatMap (mixColumn 14 11 13 9)

/-- Key expansion of FIPS 197 continued: `ws` holds the words made so far, newest first. -/
def aesExpand (nk : Nat) : Nat → Nat → Byte → List Bytes → List Bytes
  | 0, _, _, ws => ws
  | fuel + 1, i, rcon, ws =>
    let prev := ws.getD 0 []
    let far := ws.getD (nk - 1) []
    let t :=
      if i % nk = 0 then
        xorBytes ((prev.drop 1 ++ prev.take 1).map subByte) [rcon, 0, 0, 0]
      else if nk > 6 ∧ i % nk = 4 then prev.map subByte
      else prev
    aesExpand nk fuel (i + 1) (if i % nk = 0 then xtimeByte rcon else rcon) (xorBytes far t :: ws)

/-- Round keys of a 16-byte or 32-byte key, one per round. -/
def aesRoundKeys (key : Bytes) : List Bytes :=
  let nk := key.length / 4
  let rounds := nk + 7
  let ws := aesExpand nk (4 * rounds - nk) nk 1 (chunksOf 4 nk key).reverse
  chunksOf 16 rounds ws.reverse.flatten

/-- The rounds of the cipher after the initial key addition. -/
def aesRounds : List Bytes → Bytes → Bytes
  | [], s => s
  | [k], s => xorBytes (shiftRows (s.map subByte)) k
  | k :: ks, s => aesRounds ks (xorBytes (mixColumns (shiftRows (s.map subByte))) k)

/-- The rounds of the inverse cipher, round keys last first. -/
def aesInvRounds : List Bytes → Bytes → Bytes
  | [], s => s
  | [k], s => xorBytes ((invShiftRows s).map invSubByte) k
  | k :: ks, s => aesInvRounds ks (invMixColumns (xorBytes ((invShiftRows s).map invSubByte) k))

/-- Encryption of one block under expanded round keys. -/
def aesEncWith (rks : List Bytes) (b : Bytes) : Bytes :=
  match rks with
  | [] => b
  | k :: ks => aesRounds ks (xorBytes b k)

/-- AES encryption of one block (FIPS 197); the key's length picks AES-128 or AES-256. -/
def aesEnc (key b : Bytes) : Bytes := aesEncWith (aesRoundKeys key) b

/-- AES decryption of one block (FIPS 197). -/
def aesDec (key b : Bytes) : Bytes :=
  match (aesRoundKeys key).reverse with
  | [] => b
  | k :: ks => aesInvRounds ks (xorBytes b k)

/-! ### GHASH and GCM (NIST SP 800-38D) -/

/-- The product of two blocks in the GCM field, `fuel` bits of `x` from the top. -/
def gfMul : Nat → Nat → Nat → Nat → Nat
  | 0, _, _, z => z
  | fuel + 1, x, v, z =>
    gfMul fuel x (if v % 2 = 1 then (v / 2) ^^^ (0xE1 <<< 120) else v / 2)
      (if x.testBit fuel then z ^^^ v else z)

/-- GHASH over whole blocks. -/
def ghash (h : Bytes) (data : Bytes) : Bytes :=
  beBytes 16 ((blocks16 data).foldl (fun y b => gfMul 128 (y ^^^ beNat (pad16 b)) (beNat h) 0) 0)

/-- Counter mode keystream of `n` blocks from block counter `c` (the low 32 bits count). -/
def gctr (rks : List Bytes) (hi : Nat) : Nat → Nat → Bytes
  | 0, _ => []
  | n + 1, c => aesEncWith rks (beBytes 12 hi ++ beBytes 4 (c % 2 ^ 32)) ++ gctr rks hi n (c + 1)

/-- The block J0 of an initialisation vector. -/
def gcmJ0 (h iv : Bytes) : Bytes :=
  if iv.length = 12 then iv ++ [0, 0, 0, 1]
  else ghash h (pad16 iv ++ beBytes 16 (8 * iv.length))

/-- GCM encryption or decryption of the text (the same keystream). -/
def gcmCrypt (key iv text : Bytes) : Bytes :=
  let rks := aesRoundKeys key
  let j0 := gcmJ0 (aesEncWith rks (List.replicate 16 0)) iv
  xorBytes text (gctr rks (beNat (j0.take 12)) (text.length / 16 + 1) (beNat (j0.drop 12) + 1))

/-- The 16-byte GCM tag of a ciphertext and its additional data. -/
def gcmTag (key iv aad ct : Bytes) : Bytes :=
  let rks := aesRoundKeys key
  let h := aesEncWith rks (List.replicate 16 0)
  let s := ghash h (pad16 aad ++ pad16 ct ++ beBytes 8 (8 * aad.length) ++ beBytes 8 (8 * ct.length))
  xorBytes s (aesEncWith rks (gcmJ0 h iv))

/-! ### XTS (IEEE 1619) -/

/-- Multiplication of a tweak by the primitive element, little-endian. -/
def xtsDouble (t : Bytes) : Bytes :=
  let v := leNat t * 2
  leBytes 16 (if v ≥ 2 ^ 128 then (v - 2 ^ 128) ^^^ 0x87 else v)

/-- The blocks of a data unit under their tweaks. -/
def xtsBlocks (f : Bytes → Bytes) : Bytes → List Bytes → Bytes
  | _, [] => []
  | t, b :: bs => xorBytes (f (xorBytes b t)) t ++ xtsBlocks f (xtsDouble t) bs

/-- XTS encryption of a data unit of whole blocks (R83). -/
def xtsEnc (key1 key2 : Bytes) (unit : Nat) (data : Bytes) : Bytes :=
  xtsBlocks (aesEncWith (aesRoundKeys key1)) (aesEnc key2 (leBytes 16 unit)) (blocks16 data)

/-- XTS decryption of a data unit of whole blocks (R83). -/
def xtsDec (key1 key2 : Bytes) (unit : Nat) (data : Bytes) : Bytes :=
  xtsBlocks (aesDec key1) (aesEnc key2 (leBytes 16 unit)) (blocks16 data)

/-! ### CRC-32C (R81) -/

/-- Eight steps of the reflected Castagnoli CRC. -/
def crcBits : Nat → Nat → Nat
  | 0, c => c
  | n + 1, c => crcBits n (if c % 2 = 1 then (c / 2) ^^^ 0x82F63B78 else c / 2)

/-- CRC-32C of a byte string (R81): initial value and final exclusive or of all ones. -/
def crc32c (l : Bytes) : BitVec 32 :=
  BitVec.ofNat 32 (l.foldl (fun c b => crcBits 8 (c ^^^ b.toNat)) 0xFFFFFFFF ^^^ 0xFFFFFFFF)

/-- The check value of a line (R81). -/
def sorrelOf (l : Line) : BitVec 32 := crc32c (lineBytes l)

/-! ### SHA-384 (FIPS 180-4)

The working variables are two queues: `a b c d` are the last four values of `a`, `e f g h` the last four of `e`, newest first; the
message schedule is a window of sixteen words that moves one word a round. -/

/-- A 64-bit word of SHA-384. -/
abbrev ShaWord := BitVec 64

/-- Eight 64-bit words written one after the other in a number, the first on top. -/
def shaWords (v : Nat) : List ShaWord := (List.range 8).map (fun i => BitVec.ofNat 64 (v >>> (64 * (7 - i))))

/-- The round constants, eight to a row: the fractions of the cube roots of the first 80 primes. -/
def shaRows : List Nat :=
  [0x428a2f98d728ae227137449123ef65cdb5c0fbcfec4d3b2fe9b5dba58189dbbc3956c25bf348b53859f111f1b605d019923f82a4af194f9bab1c5ed5da6d8118,
   0xd807aa98a303024212835b0145706fbe243185be4ee4b28c550c7dc3d5ffb4e272be5d74f27b896f80deb1fe3b1696b19bdc06a725c71235c19bf174cf692694,
   0xe49b69c19ef14ad2efbe4786384f25e30fc19dc68b8cd5b5240ca1cc77ac9c652de92c6f592b02754a7484aa6ea6e4835cb0a9dcbd41fbd476f988da831153b5,
   0x983e5152ee66dfaba831c66d2db43210b00327c898fb213fbf597fc7beef0ee4c6e00bf33da88fc2d5a79147930aa72506ca6351e003826f142929670a0e6e70,
   0x27b70a8546d22ffc2e1b21385c26c9264d2c6dfc5ac42aed53380d139d95b3df650a73548baf63de766a0abb3c77b2a881c2c92e47edaee692722c851482353b,
   0xa2bfe8a14cf10364a81a664bbc423001c24b8b70d0f89791c76c51a30654be30d192e819d6ef5218d69906245565a910f40e35855771202a106aa07032bbd1b8,
   0x19a4c116b8d2d0c81e376c085141ab532748774cdf8eeb9934b0bcb5e19b48a8391c0cb3c5c95a634ed8aa4ae3418acb5b9cca4f7763e373682e6ff3d6b2b8a3,
   0x748f82ee5defb2fc78a5636f43172f6084c87814a1f0ab728cc702081a6439ec90befffa23631e28a4506cebde82bde9bef9a3f7b2c67915c67178f2e372532b,
   0xca273eceea26619cd186b8c721c0c207eada7dd6cde0eb1ef57d4f7fee6ed17806f067aa72176fba0a637dc5a2c898a6113f9804bef90dae1b710b35131c471b,
   0x28db77f523047d8432caab7b40c724933c9ebe0a15c9bebc431d67c49c100d4c4cc5d4becb3e42b6597f299cfc657e2a5fcb6fab3ad6faec6c44198c4a475817]

/-- The words that hashing starts from: the fractions of the square roots of the ninth to sixteenth primes. -/
def shaStart : Nat := 0xcbbb9d5dc1059ed8629a292a367cd5079159015a3070dd17152fecd8f70e593967332667ffc00b318eb44a8768581511db0c2e0d64f98fa747b5481dbefa4fa4

/-- Three rotations of a word, exclusive-ored. -/
def shaMix (i j k : Nat) (x : ShaWord) : ShaWord := x.rotateRight i ^^^ x.rotateRight j ^^^ x.rotateRight k

/-- Two rotations and a shift of a word, exclusive-ored. -/
def shaBlend (i j k : Nat) (x : ShaWord) : ShaWord := x.rotateRight i ^^^ x.rotateRight j ^^^ x >>> k

/-- The window's next word. -/
def shaNext (w : List ShaWord) : ShaWord :=
  w.getD 0 0 + shaBlend 1 8 7 (w.getD 1 0) + w.getD 9 0 + shaBlend 19 61 6 (w.getD 14 0)

/-- What a hash is in the middle of a block: window and working queues. -/
structure ShaRun where
  win : List ShaWord
  as  : List ShaWord
  es  : List ShaWord

/-- One round, with its constant. -/
def shaTurn (r : ShaRun) (k : ShaWord) : ShaRun :=
  let a := fun i => r.as.getD i 0
  let e := fun i => r.es.getD i 0
  let choose := e 2 ^^^ (e 0 &&& (e 1 ^^^ e 2))
  let most := (a 0 &&& (a 1 ||| a 2)) ||| (a 1 &&& a 2)
  let add := e 3 + shaMix 14 18 41 (e 0) + choose + k + r.win.getD 0 0
  { win := r.win.drop 1 ++ [shaNext r.win], as := (add + shaMix 28 34 39 (a 0) + most) :: r.as.take 3, es := (a 3 + add) :: r.es.take 3 }

/-- A 128-byte block taken into the eight words. -/
def shaTake (h : List ShaWord) (blk : Bytes) : List ShaWord :=
  let r := (shaRows.flatMap shaWords).foldl shaTurn
    { win := (chunksOf 8 16 blk).map (fun x => BitVec.ofNat 64 (beNat x)), as := h.take 4, es := h.drop 4 }
  List.zipWith (· + ·) h (r.as ++ r.es)

/-- SHA-384 of a byte string: a bit 1, zeros and the length in bits fill the last block; the first 48 bytes are the digest. -/
def sha384 (m : Bytes) : Bytes :=
  let room := 128 - (m.length + 17) % 128
  let full := m ++ 0x80 :: List.replicate (room % 128) 0 ++ beBytes 16 (8 * m.length)
  let last := (chunksOf 128 (full.length / 128) full).foldl shaTake (shaWords shaStart)
  (last.take 6).flatMap (fun w => beBytes 8 w.toNat)

/-- A digest as the model's 384-bit word, byte 0 in bits [7:0]. -/
def digestOf (m : Bytes) : Digest := BitVec.ofNat 384 (leNat (sha384 m))

/-! ### Keccak and KMAC256 (FIPS 202, NIST SP 800-185) -/

/-- Round constants of Keccak-f[1600], eight to a number, the first on top. -/
def keccakRc : List Nat :=
  ([0x00000000000000010000000000008082800000000000808a8000000080008000000000000000808b000000008000000180000000800080818000000000008009,
    0x000000000000008a00000000000000880000000080008009000000008000000a000000008000808b800000000000008b80000000000080898000000000008003,
    0x80000000000080028000000000000080000000000000800a800000008000000a8000000080008081800000000000808000000000800000018000000080008008].flatMap shaWords).map (·.toNat)

/-- Rotation offset of lane x + 5 y, six bits each. -/
def keccakRot (lane : Nat) : Nat := (0xee3d0922153eda6766b2835371ac91b73e040 >>> (6 * lane)) % 64

/-- Left rotation of a 64-bit word. -/
def rol64 (n x : Nat) : Nat := ((x <<< n) % 2 ^ 64) ||| (x >>> (64 - n))

/-- One round of Keccak-f[1600] on 25 lanes. -/
def keccakRound (a : List Nat) (rc : Nat) : List Nat :=
  let c := (List.range 5).map (fun x => a.getD x 0 ^^^ a.getD (x + 5) 0 ^^^ a.getD (x + 10) 0 ^^^
    a.getD (x + 15) 0 ^^^ a.getD (x + 20) 0)
  let d := (List.range 5).map (fun x => c.getD ((x + 4) % 5) 0 ^^^ rol64 1 (c.getD ((x + 1) % 5) 0))
  let t := (List.range 25).map (fun i => a.getD i 0 ^^^ d.getD (i % 5) 0)
  -- pi: lane (x, y) takes lane ((x + 3 y) mod 5, x)
  let b := (List.range 25).map (fun i =>
    let s := (i % 5 + 3 * (i / 5)) % 5 + 5 * (i % 5)
    rol64 (keccakRot s) (t.getD s 0))
  (List.range 25).map (fun i =>
    let y := 5 * (i / 5)
    let v := b.getD i 0 ^^^ ((2 ^ 64 - 1 - b.getD (y + (i + 1) % 5) 0) &&& b.getD (y + (i + 2) % 5) 0)
    if i = 0 then v ^^^ rc else v)

/-- Keccak-f[1600]. -/
def keccakF (a : List Nat) : List Nat := keccakRc.foldl keccakRound a

/-- Absorb one block. -/
def keccakAbsorb (a : List Nat) (blk : Bytes) : List Nat :=
  let l := (chunksOf 8 25 blk).map leNat
  keccakF ((List.range 25).map (fun i => a.getD i 0 ^^^ l.getD i 0))

/-- Blocks of output, one permutation between two. -/
def keccakSqueeze (rate : Nat) : Nat → List Nat → Bytes
  | 0, _ => []
  | n + 1, a => (a.flatMap (leBytes 8)).take rate ++ keccakSqueeze rate n (keccakF a)

/-- The sponge of FIPS 202: `out` bytes from a message, with the rate in bytes and the byte that carries the suffix bits. -/
def keccakSponge (rate : Nat) (suffix : Byte) (m : Bytes) (out : Nat) : Bytes :=
  let p := m ++ [suffix] ++ List.replicate (rate - 1 - m.length % rate) 0
  let p := p.take (p.length - 1) ++ [(p.getD (p.length - 1) 0) ||| 0x80]
  let a := (chunksOf rate (p.length / rate) p).foldl keccakAbsorb (List.replicate 25 0)
  (keccakSqueeze rate ((out + rate - 1) / rate) a).take out

/-- SHA3-256 and SHA3-512 of FIPS 202. -/
def sha3 (bytes : Nat) (m : Bytes) : Bytes := keccakSponge (200 - 2 * bytes) 0x06 m bytes

/-- SHAKE128 and SHAKE256 of FIPS 202. -/
def shake128 (m : Bytes) (out : Nat) : Bytes := keccakSponge 168 0x1F m out
def shake256 (m : Bytes) (out : Nat) : Bytes := keccakSponge 136 0x1F m out

/-- Bytes a number needs, at least one. -/
def byteLen (v : Nat) : Nat := if v < 256 then 1 else if v < 65536 then 2 else if v < 2 ^ 24 then 3 else 4

/-- left_encode of NIST SP 800-185. -/
def leftEncode (v : Nat) : Bytes := BitVec.ofNat 8 (byteLen v) :: beBytes (byteLen v) v

/-- right_encode of NIST SP 800-185. -/
def rightEncode (v : Nat) : Bytes := beBytes (byteLen v) v ++ [BitVec.ofNat 8 (byteLen v)]

/-- encode_string of NIST SP 800-185. -/
def encodeString (s : Bytes) : Bytes := leftEncode (8 * s.length) ++ s

/-- bytepad of NIST SP 800-185 with the rate of cSHAKE256. -/
def bytePad136 (s : Bytes) : Bytes :=
  let p := leftEncode 136 ++ s
  p ++ List.replicate ((136 - p.length % 136) % 136) 0

/-- KMAC256(K, X, 8 `n`, S). -/
def kmac256 (key x : Bytes) (n : Nat) (s : Bytes) : Bytes :=
  keccakSponge 136 0x04 (bytePad136 (encodeString [0x4B, 0x4D, 0x41, 0x43] ++ encodeString s) ++
    bytePad136 (encodeString key) ++ x ++ rightEncode (8 * n)) n

/-- ASCII bytes of a label. -/
def ascii (s : String) : Bytes := s.toList.map (fun c => BitVec.ofNat 8 c.toNat)

/-- KDF(K, label, ctx) of R246 with an output of `n` bytes. -/
def kdfN (n : Nat) (key : Bytes) (label : String) (ctx : Bytes) : Bytes :=
  kmac256 key (ascii label ++ [0] ++ ctx) n (ascii "ZZ3")

/-- KDF(K, label, ctx) of R246, 256 bits. -/
def kdf (key : Bytes) (label : String) (ctx : Bytes) : Bytes := kdfN 32 key label ctx

/-- The bytes of 256-bit material in stored order. -/
def keyBytes (k : Key) : Bytes := leBytes 32 k.toNat

/-- Material of 32 bytes. -/
def keyOf (b : Bytes) : Key := BitVec.ofNat 256 (leNat (b.take 32))

/-- KDF from material to material. -/
def kdfKey (k : Key) (label : String) (ctx : Bytes) : Key := keyOf (kdf (keyBytes k) label ctx)

/-- What a key-pair seed expands to for an algorithm (label "expand" of Table 9.3), `n` bytes. -/
def expandSeed (n : Nat) (alg : Byte) (seed : Key) : Bytes := kdfN n (keyBytes seed) "expand" [alg]

/-! ### AES key wrap with padding (NIST SP 800-38F) -/

/-- One wrapping step on (A, registers). -/
def kwStep (rks : List Bytes) (n : Nat) (s : Bytes × List Bytes) (t : Nat) : Bytes × List Bytes :=
  let i := t % n
  let b := aesEncWith rks (s.1 ++ s.2.getD i [])
  (xorBytes (b.take 8) (beBytes 8 (t + 1)), s.2.set i (b.drop 8))

/-- One unwrapping step on (A, registers). -/
def kwInvStep (key : Bytes) (n : Nat) (s : Bytes × List Bytes) (t : Nat) : Bytes × List Bytes :=
  let i := t % n
  let b := aesDec key (xorBytes s.1 (beBytes 8 (t + 1)) ++ s.2.getD i [])
  (b.take 8, s.2.set i (b.drop 8))

/-- KWP-AE of 32-byte material: 40 bytes (R261). -/
def kwpWrap (key mat : Bytes) : Bytes :=
  let r := (List.range 24).foldl (kwStep (aesRoundKeys key) 4)
    ([0xA6, 0x59, 0x59, 0xA6] ++ beBytes 4 32, chunksOf 8 4 mat)
  r.1 ++ r.2.flatten

/-- KWP-AD of a 40-byte blob whose material has 32 bytes (R261); nothing where the check fails. -/
def kwpUnwrap (key blob : Bytes) : Option Bytes :=
  if blob.length = 40 then
    let r := (List.range 24).reverse.foldl (kwInvStep key 4) (blob.take 8, chunksOf 8 4 (blob.drop 8))
    if r.1 = [0xA6, 0x59, 0x59, 0xA6] ++ beBytes 4 32 then some r.2.flatten else none
  else none

end Sys2Proof.Machine
end

