-- ==== Sys2Proof/Machine/Sparse.lean ====
section
/-! DEFINITION. The one canonical form of every table and addressed RAM of the block: pairs of index and
entry, indices strictly rising, no entry equal to what an unlisted index reads as. -/

namespace Sys2Proof.Machine

variable {α : Type}

/-- The entry at an index; `d` where none is listed. -/
def Sparse.get (d : α) (t : Sparse α) (k : Nat) : α :=
  match t with
  | [] => d
  | (k', v) :: r => if k = k' then v else if k < k' then d else Sparse.get d r k

/-- Write an entry, keeping the indices rising; an entry equal to the default is taken out. -/
def Sparse.set [DecidableEq α] (d : α) (t : Sparse α) (k : Nat) (v : α) : Sparse α :=
  match t with
  | [] => if v = d then [] else [(k, v)]
  | (k', v') :: r =>
    if k < k' then (if v = d then (k', v') :: r else (k, v) :: (k', v') :: r)
    else if k = k' then (if v = d then r else (k, v) :: r)
    else (k', v') :: Sparse.set d r k v

/-- Change the entry at an index. -/
def Sparse.upd [DecidableEq α] (d : α) (t : Sparse α) (k : Nat) (f : α → α) : Sparse α :=
  Sparse.set d t k (f (Sparse.get d t k))

/-- Change every listed entry; entries that become the default are taken out. -/
def Sparse.mapAll [DecidableEq α] (d : α) (t : Sparse α) (f : Nat → α → α) : Sparse α :=
  match t with
  | [] => []
  | (k, v) :: r =>
    if f k v = d then Sparse.mapAll d r f else (k, f k v) :: Sparse.mapAll d r f

/-- Take out every listed entry that a test does not hold of. -/
def Sparse.keep (t : Sparse α) (p : Nat → α → Bool) : Sparse α := t.filter (fun e => p e.1 e.2)

/-- Indices above a bound, strictly rising, no default entry. -/
def Sparse.wfFrom [DecidableEq α] (d : α) : Nat → Sparse α → Bool
  | _, [] => true
  | lo, (k, v) :: r => decide (lo ≤ k) && decide (v ≠ d) && Sparse.wfFrom d (k + 1) r

/-- The canonical form. -/
def Sparse.wf [DecidableEq α] (d : α) (t : Sparse α) : Bool := Sparse.wfFrom d 0 t

end Sys2Proof.Machine
end

