-- ==== Sys2Proof/Machine/StateMem.lean ====
section
/-! DEFINITION. State of the memory path: region table (R73, R74), Tree Roof (R97), and per M-port its
credits, outstanding reads, hazard table, metadata caches, walk slots and registers (02, 03, 04). -/

namespace Sys2Proof.Machine

/-- The four working keys of a key entry (R78, Table 3.3). -/
structure WorkKeys where
  enc  : List Byte := []
  mac  : List Byte := []
  twk  : List Byte := []
  tree : List Byte := []
  deriving DecidableEq, Repr

/-- STATE of a region entry (R73). -/
inductive RgnState where
  | free | loading | checking | active | rekey | failed | retiring
  deriving DecidableEq, Repr

/-- Protection mode of a region (Table 3.1). -/
inductive Mode where
  | plain | xts | ro | rw
  deriving DecidableEq, Repr

/-- A region table entry (RGN_ENTRY, R73). Bases and sizes count 2 MiB units. -/
structure Rgn where
  state     : RgnState := .free
  mode      : Mode := .plain
  vbu       : Bool := false
  spol      : Nat := 0
  wclass    : Nat := 0
  tri       : Nat := 0
  owner     : Ctx := 0
  tag       : Tag := 0
  fail      : Nat := 0
  base      : Nat := 0
  size      : Nat := 0
  version   : Nat := 0
  key       : Nat := 0
  prevKey   : Nat := 0
  keyGen    : Nat := 0
  prevGen   : Nat := 0
  roofBase  : Nat := 0
  roofLevel : Nat := 0
  roofNodes : Nat := 0
  metaOff   : Nat := 0
  digest    : Word := 0
  deriving DecidableEq, Repr

/-- Status register of a command unit (RGN_STS, WTU_STS, MINT_STS, CTX_KSTS). -/
structure CmdSts where
  busy   : Bool := false
  status : Status := .ok
  index  : Nat := 0
  lastOp : Nat := 0
  jseq   : Nat := 0
  deriving DecidableEq, Repr

/-- A sweep a region's REKEY has queued on one MCS (R124), in acceptance order. -/
structure Sweep where
  region : Nat
  ptr    : Nat
  done   : Bool
  stopped : Bool
  deriving DecidableEq, Repr

/-- A cached metadata item (R111). `used` orders the items by last use. -/
structure CacheItem where
  item  : Item
  tag   : Tag
  way   : Nat
  data  : Line
  dirty : Bool
  used  : Nat
  deriving DecidableEq, Repr

/-- Where a metadata fetch stands: in its class's wait queue, holding a slot, on MS_, arrived and
waiting for its parent (R113, R116). -/
inductive FetchPhase where
  | waiting | slot | onMs | arrived (data : Line)
  deriving DecidableEq, Repr

/-- For whom a metadata fetch is made: a read or a write by its sequence number, a write-back, a sweep step (R113, R115,
R116). -/
inductive FetchBy where
  | read (seq : Nat) | write (seq : Nat) | back (i : Item) | sweep (region : Nat)
  deriving DecidableEq, Repr

/-- A metadata fetch (R116), with who asked for it first and whether it runs in Dual mode (R236). -/
structure Fetch where
  item  : Item
  cls   : Nat
  tag   : Tag
  phase : FetchPhase
  asker   : FetchBy
  dual  : Bool
  deriving DecidableEq, Repr

/-- An evicted modified item, readable until its MS_WACK arrives (R115): waiting for its parent slot, its tree MAC sent to
the PP for the Tree Roof, waiting for MS_, on MS_. -/
inductive BackPhase where
  | parent | roofAsked (mac : Word) | ready | onMs
  deriving DecidableEq, Repr

/-- An item being written back; with `slotOnly` only its parent slot is written (R126 step 6). -/
structure BackItem where
  item  : Item
  tag   : Tag
  data  : Line
  phase : BackPhase
  slotOnly : Bool := false
  deriving DecidableEq, Repr

/-- What a request on MN_ waits for: nothing, a held page (R91), an uncommitted hazard entry (R119), a
key entry or grant (R257, R258), its line's counters (R113, R114). -/
inductive Hold where
  | none | page | hazard (seq : Nat) | key | counters
  deriving DecidableEq, Repr

/-- A read's own data transfer: none needed, to be issued, on MS_, returned. -/
inductive RdMem where
  | none | toIssue | onMs | here (data : Line) (sb : Sideband) (poison : Bool)
  deriving DecidableEq, Repr

/-- An item on MN_RDATA (Table 2.2). -/
structure RdOut where
  id      : BitVec 10
  data    : Line
  poison  : Bool
  status  : Status
  sorrel  : BitVec 32
  sorigin : Bool
  deriving DecidableEq, Repr

/-- An item on MN_PNT (Table 2.2). -/
structure PntOut where
  id     : BitVec 10
  addr   : LineAddr
  tag    : Tag
  status : Status
  deriving DecidableEq, Repr

/-- An item on MN_WACK (Table 2.2). -/
structure WackOut where
  id     : BitVec 10
  status : Status
  deriving DecidableEq, Repr

/-- Major and minor counter of a line (R88). -/
structure Counters where
  major : Nat
  minor : Nat
  deriving DecidableEq, Repr

/-- A read outstanding on MN_ (R32 to R34). `rgn` is the region copy it was accepted under (R107), `keys` the
region key and the previous one it was accepted with (R253); `useNew` picks the new key while the region is
re-keyed; `needs` are the metadata items fetched for it whose checks are open; `late` is what its deferred checks found, `lateDual` that two Dual copies of one disagreed;
`ready` is the answer once it waits on MN_RDATA; `notice` is a notice owed on MN_PNT (R34); `dual` says that it runs in
Dual mode (R236); `own` that an engine of the block reads, with no answer on MN_RDATA (R156). -/
structure Rd where
  seq       : Nat
  rq        : MnReq
  ridx      : Nat
  rgn       : Rgn
  gline     : Nat
  vbu       : Bool
  hold      : Hold := .none
  keys      : Option (WorkKeys × WorkKeys) := none
  useNew    : Bool := true
  ctr       : Option Counters := none
  mem       : RdMem := .none
  needs     : List Item := []
  late      : List Status := []
  lateDual  : Bool := false
  ready     : Option RdOut := none
  delivered : Bool := false
  verify    : Bool := false
  notice    : Option Status := none
  dual      : Bool := false
  own       : Bool := false
  deriving DecidableEq, Repr

/-- Where a write stands in the hazard table: waiting, every check passed, committed, issued. -/
inductive HazPhase where
  | waiting | checked | committed | issued
  deriving DecidableEq, Repr

/-- A hazard-table entry (R118): the write as accepted, and the line and sideband made from it. `acked` says that
its MN_WACK has gone. -/
structure Haz where
  seq    : Nat
  rq     : MnReq
  wr     : MnWr
  ridx   : Nat
  rgn    : Rgn
  gline  : Nat
  hold   : Hold := .none
  keys   : Option (WorkKeys × WorkKeys) := none
  useNew : Bool := true
  phase  : HazPhase := .waiting
  sorrel : BitVec 32 := 0
  origin : Bool := false
  poison : Bool := false
  inexact : Bool := false
  data   : Line := 0
  sb     : Sideband := 0
  ack    : Status := .ok
  acked  : Bool := false
  deriving DecidableEq, Repr

/-- A transfer outstanding on MS_ (R35): its group line `g`, and the sequence number of the read or step that it serves.
`drop` marks one issued before a soft reset (R29). -/
structure MsOut where
  id    : BitVec 10
  wr    : Bool
  ch    : Nat
  g     : Nat
  what  : MsWhat
  seq   : Nat
  drop  : Bool
  deriving DecidableEq, Repr

/-- The last transfer driven on MS_ (Table 2.3). -/
structure MsItem where
  wr   : Bool
  ch   : Nat
  addr : BitVec 40
  id   : BitVec 10
  data : Line
  sb   : Sideband
  deriving DecidableEq, Repr

/-- Where a line of a page re-encryption or of a sweep step stands: to be read, on MS_, read and checked, to be written, on
MS_, written. -/
inductive LinePhase where
  | toRead | onRd | got | toWrite | onWr | done
  deriving DecidableEq, Repr

/-- A line of a page re-encryption (R91) or of a sweep step (R126): host and group line, its counters before and after, and
what its read gave; `data` and `sb` are the plaintext, then the line and sideband to write. -/
structure LineJob where
  line    : Nat
  g       : Nat
  old     : Counters
  new     : Counters
  phase   : LinePhase := .toRead
  data    : Line := 0
  sb      : Sideband := 0
  sorrel  : BitVec 32 := 0
  origin  : Bool := false
  inexact : Bool := false
  bad     : Bool := false
  deriving DecidableEq, Repr

/-- Where a page job stands: waiting for the accesses before it and for its counter block, its lines read, its lines
written, its counter block written, the tree's items that a sweep crosses read, their slots written, all done. -/
inductive PageStage where
  | begin | reading | writing | block | path | tree | done
  deriving DecidableEq, Repr

/-- A page held for re-encryption by a write (R91), or a step of a re-key sweep (R126): the region entry it works under,
the host page, for XTS the one line, the position in acceptance order, the counter block with its value before, whether a
tree check of the step failed (`lost`), the keys and generations before and after, whether it runs in Dual mode. -/
structure PageWork where
  region : Nat
  rgn    : Rgn
  page   : Nat
  one    : Option Nat := none
  seq    : Nat
  sweep  : Bool
  item   : Item
  stage  : PageStage := .begin
  cb     : Line := 0
  lost   : Bool := false
  lines  : List LineJob := []
  keyOld : WorkKeys := {}
  keyNew : WorkKeys := {}
  genOld : Nat := 0
  genNew : Nat := 0
  dual   : Bool := false
  deriving DecidableEq, Repr

/-- MCS_STS.STATE (R116). -/
inductive McsState where
  | inService | carrying | carried | down
  deriving DecidableEq, Repr

/-- One M-port with its slice (package MCS number): registers, port state and engines. -/
structure Mcs where
  present  : Bool := false
  inst     : Nat := 0
  dual     : Bool := false
  vbuAll   : Bool := false
  lock     : Bool := false
  state    : McsState := .inService
  busy     : Bool := false
  spares   : Nat := 2
  lastSts  : Status := .ok
  ways     : List (Tag × Bool) := List.replicate 16 (0, false)
  walk     : List (Nat × Nat) := List.replicate 8 (4, 64)
  rate     : Nat := 10
  sweeps   : List Sweep := []
  cov      : List Nat := [0, 0, 0, 0, 0, 0]
  deriving DecidableEq, Repr

/-- A line that an engine of the block writes through the slice (R156, R337): host and group line, what is written, and
whether it is on MS_; `ack` is the identifier whose MN_WACK follows its issue (R32, R337). -/
structure Posted where
  line : Nat
  g    : Nat
  data : Line
  sb   : Sideband
  ack  : Option (BitVec 10) := none
  onMs : Bool := false
  deriving DecidableEq, Repr

/-- The traffic of one M-port. The two caches serve every port that the slice serves (R121). `soft` holds the port for a
soft reset that is under way (R343). -/
structure MPort where
  seq      : Nat := 0
  stamp    : Nat := 0
  rdCrd    : List Nat := [0, 0, 0, 0]
  wrCrd    : List Nat := [0, 0, 0, 0]
  out      : List MsOut := []
  reads    : List Rd := []
  haz      : List Haz := []
  rdata    : List (Nat × RdOut) := []
  wack     : List WackOut := []
  pnt      : List PntOut := []
  cache    : List CacheItem := []
  nodes    : List CacheItem := []
  fetch    : List Fetch := []
  roofAsk  : List Nat := []
  roofHere : List (Nat × Line) := []
  back     : List BackItem := []
  pages    : List PageWork := []
  posted   : List Posted := []
  drain    : Bool := false
  soft     : Bool := false
  lastMs   : Option MsItem := none
  lastRd   : Option RdOut := none
  lastWk   : Option WackOut := none
  lastPnt  : Option PntOut := none
  deriving DecidableEq, Repr

/-- The region unit of the PP (R74): table, staging, status, sweeps of the whole package, map and
carve-outs from the Layout Image (R105, R106), salts (R250). -/
structure RgnUnit where
  table   : Sparse Rgn := []
  stage   : BitVec 512 := 0
  sts     : CmdSts := {}
  retireSrc : List (Nat × Option Src) := []
  roof    : Sparse Line := []
  map     : List MapEntry := []
  groups  : List Group := []
  saltX   : Word := 0
  saltM   : Word := 0
  saltP   : Word := 0
  deriving DecidableEq, Repr

end Sys2Proof.Machine
end

