-- ==== Sys2Proof/Machine/StateKeys.lean ====
section
/-! DEFINITION. State of the key machinery (09): Key Register, Mint, key caches, ring messages, Service
Cipher Unit, Sealed Store, DRBG. -/

namespace Sys2Proof.Machine

/-- STATE of a KREG entry (R242). -/
inductive KState where
  | free | active | invalid
  deriving DecidableEq, Repr

/-- A Key Register entry (R242). GEN outlives the entry (R254). `rwUsed` says that a successful CREATE or
REKEY has named it for RW-AUTH (R74, R75). -/
structure KEntry where
  state    : KState := .free
  cv       : Bool := false
  type     : Nat := 0
  depth    : Nat := 0
  sys      : Bool := false
  persist  : Bool := false
  usage    : BitVec 8 := 0
  owner    : Ctx := 0
  gen      : BitVec 16 := 0
  parent   : Nat := 0
  pgen     : BitVec 16 := 0
  children : Nat := 0
  pins     : Nat := 0
  budget   : Nat := 0
  rwUsed   : Bool := false
  key      : Key := 0
  deriving DecidableEq, Repr

/-- Where the Sealed Store update that a command needs stands: none needed, the next one, the one under way (R272). -/
inductive StoreWait where
  | none | next | now
  deriving DecidableEq, Repr

/-- A Mint command that has acted and is not yet completed (R251, R252, R272): its outcome, the blob of an EXPORT,
the instances whose INVAL_ACK for `target` it awaits, and the Sealed Store update it awaits. -/
structure MintJob where
  src    : Src
  op     : Nat
  status : Status
  result : Word
  index  : Nat
  blob   : Bytes
  target : Nat
  waits  : List Nat
  store  : StoreWait
  deriving DecidableEq, Repr

/-- The Mint's registers and private store (R242, R248 to R251, R269, R271). `exported` are the words of MINT_DATA that
still hold an EXPORT result, `expOut` the last blob written to memory for a command with a data address, `layers` the key-pair seeds of
the DICE layers by layer and algorithm (R276). -/
structure Mint where
  arg     : Word := 0
  budget  : Word := 0x0000FFFFFFFFFFFF
  sts     : CmdSts := {}
  data    : Sparse Word := []
  exported : List Nat := []
  expOut  : Option (Word × Bytes) := none
  jobs    : List MintJob := []
  sel     : Nat := 0
  rue     : Nat := 0
  cdi     : Sparse Key := []
  layers  : List (Nat × Nat × Key) := []
  bootNonce : Key := 0
  importGen : BitVec 32 := 0
  drbgOk  : Bool := true
  zeroed  : Bool := false
  eolSeen : Bool := false
  deriving DecidableEq, Repr

/-- A key-cache entry (R256). `used` orders the entries by last use; `asked` says that a GRANT_REQ is out, `dry`
that the last GRANT gave nothing (R258); `work` are the four working keys of R78. -/
structure KcEntry where
  index  : Nat
  gen    : BitVec 16
  type   : Nat
  usage  : BitVec 8
  owner  : Ctx
  ancestors : List Nat
  grant  : Nat
  work   : WorkKeys
  used   : Nat
  asked  : Bool := false
  dry    : Bool := false
  deriving DecidableEq, Repr

/-- A message of the package ring under way (R54, R255), by what it says. -/
inductive RingMsg where
  | layout
  | push (e : KcEntry)
  | fillReq (src index : Nat)
  | fillNeg (index : Nat)
  | evict (src index : Nat) (gen : BitVec 16) (grant : Nat)
  | inval (index : Nat) (gen : BitVec 16)
  | invalAck (src index : Nat)
  | grantReq (src index : Nat)
  | grant (index amount : Nat)
  | recall (index : Nat)
  | recallAck (src index : Nat) (gen : BitVec 16) (grant : Nat)
  | zeroize
  | snapArm (t : BitVec 64)
  | silentError (tag : Tag) (st : Status)
  | layoutAck (src : Nat)
  deriving DecidableEq, Repr

/-- A message on its way round the ring (R54, R255): source and destination, whether it is the source's broadcast, the SEQ
of its first transfer, what it says, and the sealed transfers that its source drives on PR_TX. -/
structure RingPkt where
  src   : Nat
  dst   : Nat
  bcast : Bool
  seq   : Nat
  msg   : RingMsg
  data  : List Bytes
  deriving DecidableEq, Repr

/-- An SCU operation in progress on a page (R265): its key entry with the material it was accepted with, the lengths
of SCU_ARG at its start, input bytes needed and gathered, output not yet released, whether it has computed, and whether
it waits for a replicated entry. -/
structure ScuJob where
  op    : Nat
  prio  : Nat
  key   : Option Nat
  mat   : Key
  ctx   : Ctx
  arg   : Word
  need  : Nat
  got   : Bytes
  out   : Bytes
  fin   : Bool
  sent  : Bool
  deriving DecidableEq, Repr

/-- A tenant page of the SCU (R264). -/
structure ScuPage where
  arg     : Word := 0
  busy    : Bool := false
  wantIn  : Bool := false
  outAvail : Bool := false
  status  : Status := .ok
  outLen  : Nat := 0
  newIdx  : Nat := 0
  win     : Sparse Word := []
  job     : Option ScuJob := none
  deriving DecidableEq, Repr

/-- The engine that a descriptor serves (R266). -/
inductive SrqUser where
  | store
  deriving DecidableEq, Repr

/-- OP of a descriptor (R266): AES-256-GCM over the whole buffer, or an operation of Table 9.9. -/
inductive SrqOp where
  | gcm (iv aad : Bytes)
  | cipher (op : Nat)
  deriving DecidableEq, Repr

/-- A descriptor of the Service Request Queue (R266): OP, PRIO, an entry with the GEN expected of it, the source buffer and the
length of the destination buffer. -/
structure SrqDesc where
  user  : SrqUser
  op    : SrqOp
  prio  : Nat
  key   : Nat
  gen   : BitVec 16
  src   : Bytes
  dst   : Nat
  deriving DecidableEq, Repr

/-- A served descriptor: ciphertext and tag, and the status written back. -/
structure SrqDone where
  user   : SrqUser
  out    : Bytes
  status : Status
  deriving DecidableEq, Repr

/-- Where the Sealed Store stands (R272, R273, R369): idle, its commit sectors read at boot, the image of a record read, the
sectors of a slot being erased, its image awaited from the SCU, chunks programmed and read back, the other commit sector erased,
the record programmed and read back, or the whole layout being erased. -/
inductive StorePhase where
  | idle | search (at' : Nat) | fetch (at' : Nat) | erasing (left : Nat) | encrypt | programming (at' : Nat) | readback (at' : Nat)
  | recordErase | record | recordRead | wipe (left : Nat)
  deriving DecidableEq, Repr

/-- A command driven on FL_ (R58): operation, byte offset, length and the bytes to program. -/
structure FlCmd where
  op   : Nat
  addr : Nat
  len  : Nat
  data : Bytes
  deriving DecidableEq, Repr

/-- The Sealed Store as Sage keeps it (R270 to R273): the SEQ, slot and commit position in force, the update under way
with its set and encrypted image, whether another is owed, and the command on FL_. `got` are the bytes read so far, `cands` the
records that verify, by position, highest SEQ first. -/
structure Store where
  isOpen  : Bool := false
  failed  : Bool := false
  seq     : BitVec 64 := 0
  slot    : Bool := false
  pos     : Nat := 0
  sector  : Bool := false
  phase   : StorePhase := .idle
  dirty   : Bool := false
  fresh   : List (Nat × KEntry) := []
  image   : Bytes := []
  recs    : Bytes := []
  got     : Bytes := []
  cands   : List (Nat × Bytes) := []
  flReq   : Option FlCmd := none
  deriving DecidableEq, Repr

/-- A GRANT_REQ that waits for the grants of the other holders (R258). -/
structure Recall where
  index : Nat
  dst   : Nat
  waits : List Nat
  deriving DecidableEq, Repr

/-- Keys of the package. -/
structure Keys where
  recalls : List Recall := []
  kreg  : Sparse KEntry := []
  mint  : Mint := {}
  scu   : Sparse ScuPage := []
  srq   : List SrqDesc := []
  srqDone : List SrqDone := []
  store : Store := {}
  deriving DecidableEq, Repr

end Sys2Proof.Machine
end

