-- ==== Sys2Proof/Machine/StateLink.lean ====
section
/-! DEFINITION. State of the link and fabric path: LCS with its pair table and port (05), Egress Staging
Buffer (05), windows, TLBs, outstanding requests, home masks and Atomic Response Caches (06), Reduction
Lanes, plans and invocations (07). -/

namespace Sys2Proof.Machine

/-- Receive state of a VC of a pair (R130). -/
inductive VcRx where
  | normal | broken | skip
  deriving DecidableEq, Repr

/-- Sequence state of one VC of a pair (R130). -/
structure VcState where
  txEpoch : Nat := 0
  txNext  : Nat := 0
  rxEpoch : Nat := 0
  rxNext  : Nat := 0
  rx      : VcRx := .normal
  deriving DecidableEq, Repr

/-- A pair-table entry (R130). `keys` lists (epoch, key), at most three; `sends` counts the REQ sends so far
(R143). -/
structure Pair where
  valid  : Bool := false
  peer   : Pkg := 0
  lcs    : Nat := 0
  keys   : List (Nat × Key) := []
  vcs    : List VcState := List.replicate 8 {}
  rseqTx : Nat := 2 ^ 63
  rseqRx : Nat := 2 ^ 63
  up     : Bool := true
  sends  : Nat := 0
  deriving DecidableEq, Repr

/-- A fabric packet (R131, R132) before its EPOCH and SEQ are assigned (R135). `origin` and `poison` are
the header's bit fields, `lines` each line with its carried check value, `bad` the lines that failed check 8. -/
structure Pkt where
  vc     : Nat
  ce     : Bool
  op     : Nat
  cls    : Nat
  dst    : Pkg
  dstLcs : Nat
  src    : Pkg
  srcLcs : Nat
  origin : BitVec 4
  poison : BitVec 4
  txn    : BitVec 96
  lines  : List (Line × BitVec 32)
  bad    : BitVec 4 := 0
  deriving DecidableEq, Repr

/-- A packet staged in the ESB (R148): its VOQ (class of the packet, LCS), whether its cells come from the
shared pool, the outstanding entry and tag it serves, and whether a path change holds it (R174). -/
structure Staged where
  lcs    : Nat
  pkt    : Pkt
  shared : Bool
  entry  : Option Nat
  tag    : Tag
  held   : Bool
  deriving DecidableEq, Repr

/-- The state of a rate meter (RFC 2698): thousandths of a byte in the committed and the peak bucket, and the time
of the last update. -/
structure Meter where
  cir : Nat := 200000
  pir : Nat := 200000
  cbs : Nat := 0x100000
  pbs : Nat := 0x100000
  tc  : Nat := 0x100000 * 1000
  tp  : Nat := 0x100000 * 1000
  at' : BitVec 64 := 0
  deriving DecidableEq, Repr

/-- A class queue's register (ESB_CLASS, R156). -/
structure EsbClass where
  vc     : Nat
  en     : Bool := true
  min    : Nat := 64
  max    : Nat := 4096
  mark   : Nat := 2048
  weight : Nat := 4
  deriving DecidableEq, Repr

/-- A drop profile (ESB_WRED, R150). -/
structure Wred where
  minTh : Nat
  maxTh : Nat
  maxP  : Nat
  w     : Nat := 4
  deriving DecidableEq, Repr

/-- A packet in the spill ring (R156): the first host line of its slot, its VOQ's LCS, its tag and lines, and the slot's lines being
read back: line of the slot, M-port, sequence number of the read (a line that none answers is lost). -/
structure Spilled where
  slot  : Nat
  lcs   : Nat
  tag   : Tag
  nl    : Nat
  asked : Option (List (Nat × Nat × Nat)) := none
  deriving DecidableEq, Repr

/-- The Egress Staging Buffer of an instance. `wait` are lossless packets held at a source inside the block, oldest
first (R148). `spillW` are the spill ring's lines that the MCSs have still to accept (R156). `short` is, per VOQ (LCS × 8 + class),
how many cells of its guarantee are not yet in force (R149). `avg` is kept per message VOQ, `drr` per (LCS, class), `turn` per LCS:
the place in the round and whether its quantum is still to be added. -/
structure Esb where
  ctEn    : Bool := true
  spillEn : Bool := false
  cls     : List EsbClass := [{ vc := 0 }, { vc := 1 }, { vc := 2 }, { vc := 3 }, { vc := 4, weight := 1 }]
  msgMax  : Nat := 4096
  spillRegion : Nat := 0
  wred    : List Wred := [{ minTh := 1024, maxTh := 3072, maxP := 26 }, { minTh := 512, maxTh := 2048, maxP := 64 },
                          { minTh := 128, maxTh := 1024, maxP := 128 }]
  meters  : Sparse Meter := []
  staged  : List Staged := []
  wait    : List Staged := []
  spill   : List Spilled := []
  spillAt : Nat := 0
  spillW  : List (Nat × MnWr) := []
  short   : Sparse Nat := []
  avg     : Sparse Nat := []
  drr     : Sparse Nat := []
  turn    : Sparse (Nat × Bool) := []
  lfsr    : Nat := 0
  deriving DecidableEq, Repr

/-- A packet given to LL_TX (R136): its flits, its pair, and the class and pool of its cells (none for a resync packet or an abort
flit). -/
structure Sent where
  vc     : Nat
  flits  : List Flit
  pair   : Option Nat
  cls    : Option Nat
  shared : Bool
  deriving DecidableEq, Repr

/-- A 32-byte half of a flit of an unframed stream (R146), with the flit's VC and whether it is the flit's second half. -/
structure RxHalf where
  vc   : Nat
  last : Bool
  data : BitVec 256
  deriving DecidableEq, Repr

/-- What a delivery on LT_IR serves (R165, R182, R187, R219). -/
inductive InbUse where
  | read (pair : Nat) (pkt : Pkt)
  | write (pair : Nat) (pkt : Pkt) (line : Nat) (sorrelBad : Bool)
  | message (exp : Nat) (line : Nat) (slot : Nat) (desc : Line)
  | descriptor (exp : Nat)
  | atomRead (src : Pkg) (iinst : Nat) (reqid : Nat)
  | atomWrite (src : Pkg) (iinst : Nat) (reqid : Nat)
  | stepWrite (inv step line : Nat) (inex : Bool)
  | stepRead (inv step line : Nat)
  deriving DecidableEq, Repr

/-- A delivery made on LT_IR and not yet completed on LT_IC (R40), with the MN_WR_ fields of Table 2.2. `sent` says that it has transferred; `done` holds
the status of a line whose packet still waits for its other lines; deliveries of one packet share `order`. -/
structure Inb where
  id     : BitVec 12
  use    : InbUse
  rd     : Bool
  addr   : LineAddr
  tag    : Tag
  ctx    : Ctx
  layer  : BitVec 16
  opid   : BitVec 16
  data   : Line
  svalid : Bool
  sorrel : BitVec 32
  poison : Bool
  order  : Nat
  flits  : Nat
  vc     : Nat
  sent   : Bool
  done   : Option Status := none
  deriving DecidableEq, Repr

/-- An Atomic Response Cache entry (R183). `started` says that its line has been asked for. -/
structure Arc where
  src     : Pkg
  iinst   : Nat
  reqid   : Nat
  pending : Bool
  pair    : Nat
  pkt     : Pkt
  line    : LineAddr
  tag     : Tag
  ctx     : Ctx
  status  : Status
  result  : Line
  waiters : List (Nat × Pkt)
  started : Bool
  order   : Nat
  deriving DecidableEq, Repr

/-- LCS_STS.STATE (R157). -/
inductive LcsState where
  | inService | retraining | outOfService
  deriving DecidableEq, Repr

/-- A plan packet kept at the head of the RDX VC (R221). -/
structure HeldPkt where
  pair : Nat
  pkt  : Pkt
  deriving DecidableEq, Repr

/-- An abort record of a lane (R398). -/
structure AbortRec where
  pair   : Nat
  plan   : Nat
  coll   : Nat
  status : Status
  deriving DecidableEq, Repr

/-- The registers and lanes of an LCS (package LCS number). -/
structure Lcs where
  present  : Bool := false
  inst     : Nat := 0
  dual     : Bool := false
  z2       : Bool := false
  retrainMs : Nat := 10
  holdoff  : Nat := 1
  state    : LcsState := .inService
  spares   : Nat := 2
  lastFault : Status := .ok
  lastPair : Nat := 0
  lastVc   : Nat := 0
  retryUs  : Nat := 20
  attempts : Nat := 8
  thresh   : Nat := 16
  rxvc     : List Nat := [128, 384, 256, 32, 197, 9, 9, 9]
  cov      : List Nat := [0, 0, 0, 0, 0, 0]
  rlEn     : Bool := true
  pfLines  : Nat := 64
  holdUs   : Nat := 1000
  rlSts    : Nat × Nat × Status × Word := (0, 0, .ok, 0)
  deriving DecidableEq, Repr

/-- The port and engines of an LCS. `crdHold` holds the credits at zero after a soft reset until LL_UP rises (R29). `sending` is the
packet whose last flit may not have left, `resend` one that LL_UP cut off, `lastTx` the cycles that the last packet took on LL_TX.
`rxOpen` is the packet whose flits are arriving, with its VC, `rxStray` the VCs of a stray packet still open (R69), `rxBuf` the
unframed stream not yet taken (R146). `ce` counts CE packets by pair × 8 + class (R151). `resync` are the resync packets owed, oldest first (an ACK with the mask of its
REQ), `acq` the Acquires to be answered (pair, packet, order), `reqWait` the requests and messages that wait for
their export's TLB entry (R164) or for room in the Atomic Response Cache (R183), `expGot` an export that the PP has just read. `laneSeq` counts the remote lines
that came to the lane, `laneTurn` is the step (invocation, index) that its round robin served last (R219). -/
structure LPort where
  pairs    : Sparse Pair := []
  kBay     : Option Key := none
  up       : Bool := false
  retrain  : Bool := false
  retrainAt : Option (BitVec 64) := none
  modeBad  : Bool := false
  mode     : Bool := false
  modeNext : Bool := false
  search   : Bool := false
  txCrd    : List Nat := [0, 0, 0, 0, 0, 0, 0, 0]
  rxHeld   : List Nat := [0, 0, 0, 0, 0, 0, 0, 0]
  rxGrant  : List Nat := [0, 0, 0, 0, 0, 0, 0, 0]
  rxDiv    : List Nat := [0, 0, 0, 0, 0, 0, 0, 0]
  crdHold  : Bool := false
  rxOpen   : Option (Nat × List Flit) := none
  rxStray  : List Nat := []
  rxBuf    : List RxHalf := []
  ce       : Sparse Nat := []
  noise    : List (BitVec 64) := []
  bayFlit  : Option Flit := none
  resync   : List (Nat × Option Nat) := []
  sending  : Option Sent := none
  resend   : Option Sent := none
  lastTx   : List LlBeat := []
  lastIr   : Option Inb := none
  inb      : List Inb := []
  seq      : Nat := 0
  arc      : List Arc := []
  acq      : List (Nat × Pkt × Nat) := []
  reqWait  : List HeldPkt := []
  expGot   : Option Nat := none
  held     : List HeldPkt := []
  aborts   : List AbortRec := []
  laneSeq  : Nat := 0
  laneTurn : Nat × Nat := (0, 0)
  leftMask : Option (BitVec 64) := none
  deriving DecidableEq, Repr

/-- A window table entry (WTU_WIN, R159). -/
structure Win where
  valid   : Bool := false
  exp     : Bool := false
  msg     : Bool := false
  perm    : BitVec 4 := 0
  tag     : Tag := 0
  ctx     : Ctx := 0
  base    : Nat := 0
  size    : Nat := 0
  peer    : Pkg := 0
  peerTag : Tag := 0
  peerExp : Nat := 0
  deleting : Bool := false
  deriving DecidableEq, Repr

/-- What a request completes with on LT_OC (Table 2.4). -/
structure LtOc where
  id      : BitVec 12
  data    : Line
  poison  : Bool
  status  : Status
  sorrel  : BitVec 32
  sorigin : Bool
  deriving DecidableEq, Repr

/-- An outstanding fabric request (R176): its window entry, what its completion carries at least (`st`), the path in
force when it was staged (mask, LCSs with UP pairs; R174) and the packet for a resend. -/
structure Outst where
  live    : Bool := false
  uses    : Nat := 0
  port    : Nat := 0
  id      : BitVec 12 := 0
  op      : Nat := 0
  win     : Nat := 0
  dst     : Pkg := 0
  tag     : Tag := 0
  ctx     : Ctx := 0
  layer   : BitVec 16 := 0
  opid    : BitVec 16 := 0
  lcs     : Nat := 0
  home    : Nat := 0
  group   : Nat := 0
  sends   : Nat := 0
  waiting : Bool := false
  order   : Nat := 0
  st      : Status := .ok
  path    : BitVec 64 × List (Nat × Nat) := (0, [])
  pkt     : Option Pkt := none
  deriving DecidableEq, Repr

/-- Why a request waits on an LT_ port: its TLB entry, an outstanding entry, cells, or an earlier request to its line that waits on
another port (R148, R164, R176, R189). -/
inductive LtWait where
  | tlb | table | cells | order
  deriving DecidableEq, Repr

/-- A request held on an LT_ port (its transfers in order), with its place in the order of acceptance (R189). -/
structure LtHeld where
  port  : Nat
  seq   : Nat
  xfers : List LtOr
  why   : LtWait
  win   : Option Nat
  deriving DecidableEq, Repr

/-- The fabric state of one instance: TLB (window indices, most recent first), outstanding table, the count of requests accepted, held
requests, completions waiting on LT_OC by port. -/
structure FabInst where
  tlb    : List Nat := []
  outst  : Sparse Outst := []
  order  : Nat := 0
  held   : List LtHeld := []
  oc     : List (Nat × LtOc) := []
  lastOc : Option LtOc := none
  deriving DecidableEq, Repr

/-- The window unit of the PP and the package's fabric state (R159 to R178): table, staging, status, own
home masks with their publication times, peers' masks, dead peers, pairs that an LCS has reported DOWN (R143), per-context write tallies (R190). -/
structure Fab where
  table  : Sparse Win := []
  stage  : BitVec 256 := 0
  sts    : CmdSts := {}
  delSrc : List (Nat × Src) := []
  tbound : Nat := 16
  retain : Nat := 32
  span   : Bool := false
  serving : List Serving := []
  mask   : BitVec 64 := 0
  masks  : List (BitVec 64 × BitVec 64) := []
  peerMask : Sparse (Option (BitVec 64)) := []
  dead   : List Pkg := []
  downs  : List (Nat × Pkg × Nat) := []
  tally  : Sparse (List Status) := []
  inst   : Sparse FabInst := []
  deriving DecidableEq, Repr

/-- A plan step (Table 7.9). -/
structure Step where
  exec    : Nat
  flags   : BitVec 8
  flags2  : BitVec 8
  chunk   : Nat
  dep     : Nat
  outStep : Nat
  inPkg   : Pkg
  inLcs   : Nat
  outLcs  : Nat
  outPkg  : Pkg
  outPeer : Nat
  deriving DecidableEq, Repr

/-- An installed plan (Table 7.8) with the context that installed it; `dying` waits for its invocations (Table 11.2). -/
structure Plan where
  id      : Nat
  ctx     : Ctx
  dying   : Bool := false
  op      : Nat
  ifmt    : BitVec 8
  ofmt    : BitVec 8
  stoch   : Bool
  timeout : Nat
  steps   : List Step
  deriving DecidableEq, Repr

/-- A line that a step works with: bytes, whether it is a result marked INEXACT, the ingress flits of a packet
that its last line still holds (R223), and a remote line's place in the lane's order of arrival (R219). -/
structure StepLine where
  data  : Line
  inex  : Bool
  flits : Nat := 0
  vc    : Nat := 0
  at'   : Nat := 0
  deriving DecidableEq, Repr

/-- The progress of one step of an invocation (R219): remote lines received, local lines asked for, lines forwarded and
written, remote lines held (the last of them is line `inLine` − 1), local lines by index, lines gathered for the next
packet, writes open. -/
structure StepRun where
  active  : Bool := false
  done    : Bool := false
  inLine  : Nat := 0
  locAsk  : Nat := 0
  outLine : Nat := 0
  wrLine  : Nat := 0
  remote  : List StepLine := []
  loc     : List (Nat × StepLine) := []
  packet  : List StepLine := []
  writes  : Nat := 0
  deriving DecidableEq, Repr

/-- An active invocation (R218). -/
structure Inv where
  id     : Nat
  plan   : Nat
  ce     : Nat
  coll   : Word
  inB    : Nat
  outB   : Nat
  scrB   : Nat
  ctx    : Ctx
  tag    : Tag
  src    : Src
  steps  : List StepRun
  inexact : Bool
  deriving DecidableEq, Repr

/-- Plans and invocations of the package; `ended` are the collectives (PLAN, COLL[15:0]) that ended failing and have
not been invoked again (R225). -/
structure Red where
  plans : List Plan := []
  invs  : List Inv := []
  ended : List (Nat × Nat) := []
  next  : Nat := 0
  deriving DecidableEq, Repr

end Sys2Proof.Machine
end

