-- ==== Sys2Proof/Machine/StateSys.lean ====
section
/-! DEFINITION. State that belongs to an instance or to the package as a whole: build and role (01), pins
(02), key cache (09), always-on island, Bay, failover, journal, online test (12), telemetry and
perturbation (14). -/

namespace Sys2Proof.Machine

/-- The always-on island of a die (AO_STS, R346, R363, R400). -/
structure Ao where
  latch  : BitVec 9 := 0
  sleep  : Bool := false
  cold   : Bool := false
  armed  : Bool := false
  oos    : Bool := false
  count  : Nat := 0
  escN   : Nat := 3
  escWin : Nat := 600
  crst   : Nat := 0
  good   : Bool := false
  asleep : Bool := false
  meshN    : Nat := 0
  meshMiss : Nat := 0
  deriving DecidableEq, Repr

/-- A trace stream (TEL_TRC, R388 to R390): registers, records of the line being filled, lines buffered
for writing, records dropped since the last one written. -/
structure Trc where
  en      : Bool := false
  wrap    : Bool := false
  mask    : BitVec 8 := 0
  region  : Nat := 0
  written : Nat := 0
  line    : List (BitVec 256) := []
  buf     : List (Nat × Line) := []
  next    : Nat := 0
  lost    : Nat := 0
  lastLine : Option (LineAddr × Line) := none
  deriving DecidableEq, Repr

/-- Telemetry of an instance (R384 to R390). -/
structure Tel where
  cfg     : Sparse Word := []
  cnt     : Sparse Nat := []
  shd     : Sparse Nat := []
  snapT   : BitVec 64 := 0
  pending : Bool := false
  late    : Bool := false
  seq     : Nat := 0
  armT    : BitVec 64 := 0
  trc     : List Trc := [{}, {}, {}, {}]
  deriving DecidableEq, Repr

/-- Perturbation registers of an instance (R394, R395). `ftN` is the free value that the fine-trace buffer and its PTR read
from, once fine trace has been on. -/
structure Tst where
  mdelay : Sparse Word := []
  lbp    : Sparse Word := []
  kind   : Nat := 0
  unit   : Nat := 0
  lcs    : Bool := false
  count  : Nat := 0
  skew   : BitVec 32 := 0
  mint   : BitVec 16 := 0
  ftEn   : Bool := false
  ftN    : Option Nat := none
  deriving DecidableEq, Repr

/-- An online test in progress in an instance (R364): the unit and, for a lane, its number. -/
structure Olt where
  busy   : Bool := false
  status : Status := .ok
  kind   : Nat := 0
  unit   : Nat := 0
  lane   : Nat := 0
  isLcs  : Bool := false
  testing : Bool := false
  deriving DecidableEq, Repr

/-- Role of an instance (LCY_ROLE.ROLE). -/
inductive Role where
  | none | pp | sp | di
  deriving DecidableEq, Repr

/-- A block instance on a die. `ringKey` is the ring key that its KEYLOAD delivered, `ringTx` the SEQ of the last transfer it sent,
`ringRx` the last SEQ accepted from each source (R255, R375), `prRx` the transfers of the last message that reached it (R54); `int` are
the causes that are pending and `intMask` those masked (R63), `rsp` and `rspData` the last ZCP response (R51). -/
structure Inst where
  built   : Bool := false
  nMcs    : Nat := 0
  nLcs    : Nat := 0
  primary : Bool := false
  role    : Role := .none
  num     : Nat := 0
  mcsBase : Nat := 0
  lcsBase : Nat := 0
  loaded  : Bool := false
  ringKey : Option Key := none
  ringTx  : Nat := 0
  ringRx  : Sparse Nat := []
  prRx    : List Bytes := []
  released : Bool := false
  int     : BitVec 16 := 0
  intMask : BitVec 16 := 0
  freeze  : Bool := false
  zeroOut : Bool := false
  crst    : Bool := false
  eastBroken : Bool := false
  westBroken : Bool := false
  rsp     : Status := .ok
  rspData : Word := 0
  kc      : List KcEntry := []
  kcStamp : Nat := 0
  ao      : Ao := {}
  deriving DecidableEq, Repr

/-- The unit state of an instance beside its pins; `scan` is the answer to the last scan request (R68), `rejoin` are slices
under test before they rejoin (R16). -/
structure InstUnits where
  tel : Tel := {}
  tst : Tst := {}
  olt : Olt := {}
  scan : Option Status := none
  rejoin : List (Bool × Nat) := []
  outLanes : List (Bool × Nat × Nat) := []
  retired  : List (Bool × Nat × Nat) := []
  deriving DecidableEq, Repr

/-- Bay (R343 to R354). Alarm and compute-reset times are Thyme times. `due` is a Bay abort that the
step in progress has to start (cause, origin), `softDue` the soft resets under way (instance, whether
it was ordered through BAY_CMD and waits for the Sealed Store), `hardDue` that a hard reset waits (R343, R345). -/
structure Bay where
  tagTh   : Nat := 1
  sorTh   : Nat := 0
  resTh   : Nat := 0
  winMs   : Nat := 10
  escN    : Nat := 3
  escWin  : Nat := 600
  state   : Nat := 0
  cause   : Status := .ok
  origin  : Pkg := 0
  crst    : Nat := 0
  quiesce : List Ctx := []
  tagAl   : List (BitVec 64) := []
  sorAl   : List (BitVec 64) := []
  resAl   : List (BitVec 64) := []
  serr    : Sparse (Nat × Status) := []
  due     : Option (Status × Pkg) := none
  lastRel : BitVec 64 := 0
  softDue : List (Nat × Bool) := []
  hardDue : Bool := false
  deriving DecidableEq, Repr

/-- SP_STATE (R355, R357): no SP, standby replicating, fenced, acting as primary. -/
inductive SpState where
  | none | standby | fenced | acting
  deriving DecidableEq, Repr

/-- A journal entry (Table 12.8). -/
structure Jent where
  seq    : Nat
  src    : Nat
  done   : Bool
  status : Status
  tag    : Tag
  num    : Nat
  op     : Nat
  ctx    : Ctx
  token  : BitVec 32
  head   : Nat
  result : Word
  start  : BitVec 64
  fin    : BitVec 64
  deriving DecidableEq, Repr

/-- The Command Journal (R360). Entries newest first. -/
structure Jnl where
  lock   : Bool := false
  base   : Nat := 0
  rgn    : Rgn := {}
  seq    : Nat := 0
  sel    : Nat := 0
  ents   : List Jent := []
  deriving DecidableEq, Repr

/-- A tensor dump (TEL_DUMP, R391 to R393); `out` are the lines written at DST, `mat` its key; `sub` says that it waits on a
mirror of another package's fence. -/
structure Dump where
  hold   : Bool := true
  state  : Nat := 0
  status : Status := .ok
  tag    : Tag := 0
  ctx    : Ctx := 0
  src    : Word := 0
  len    : Nat := 0
  dst    : Word := 0
  fence  : Word := 0
  value  : Word := 0
  key    : Nat := 0
  id     : Word := 0
  seen   : Word := 0
  start  : BitVec 64 := 0
  out    : List Line := []
  mat    : Key := 0
  sub    : Bool := false
  deriving DecidableEq, Repr

end Sys2Proof.Machine
end

