-- ==== Sys2Proof/Machine/StateCtx.lean ====
section
/-! DEFINITION. State of the Context Manager (11): object store records, contexts and slots, command
queues, the kernel command port, fences with mirrors and remote signals, seals and restores. -/

namespace Sys2Proof.Machine

/-- The reference record of an object (R314, R315). `takers` lists the contexts that took references by
HOLD, one occurrence per reference, none standing for kernel rights; `dying` says that REF has reached 0. -/
structure RefRec where
  ref     : Nat := 0
  creator : Bool := false
  dying   : Bool := false
  gen     : BitVec 16 := 0
  takers  : List (Option Ctx) := []
  deriving DecidableEq, Repr

/-- State of a context (R312, R335 to R338). -/
inductive CtxState where
  | free | defined | resident | sealed
  deriving DecidableEq, Repr

/-- A context record: state, tag, the context that defined it, whether it is a driver context (R323), label, slot and partition mask, and the record of its
image: seal count, base, lines, state lines among them, digest (R336). -/
structure CtxRec where
  state   : CtxState := .free
  tag     : Tag := 0
  by'     : Option Ctx := none
  driver  : Bool := false
  label   : Word := 0
  slot    : Nat := 0
  mask    : BitVec 128 := 0
  count   : Nat := 0
  base    : Nat := 0
  lines   : Nat := 0
  states  : Nat := 0
  digest  : Word := 0
  deriving DecidableEq, Repr

/-- CTX_QCFG.STATE (R318); WAITING is an OPEN queue whose context does not run (R335). -/
inductive QState where
  | free | open | stopped | dying
  deriving DecidableEq, Repr

/-- Where a queue's command stands (R321): waiting on its fence, for a fence slot, ready to run at its
engine, running there, ended and its signal still to leave, signalled and waiting for a remote
acknowledgement, its completion record to be written. -/
inductive CmdPhase where
  | wait | slot | ready | running | signal | remote | record
  deriving DecidableEq, Repr

/-- The command in progress on a queue or on the kernel command port (Table 11.4, Table 11.8). `first` is the HEAD value of
its first slot; `kill` is the status it will end with whatever its engine finds; `before` lists the fabric writes of its
context that its signal awaits (instance, entry, order; R190); `sends` counts SIGNALs sent. -/
structure Cmd where
  op      : Nat
  flags   : BitVec 8
  token   : BitVec 32
  bytes   : Bytes
  long    : Bool
  first   : BitVec 32
  phase   : CmdPhase
  status  : Status
  result  : Word
  jseq    : Nat
  sends   : Nat
  kill    : Option Status := none
  before  : List (Nat × Nat) := []
  deriving DecidableEq, Repr

/-- A command queue (R318). `part` is a command whose second slot TAIL does not yet cover; `drain` is the status that its unstarted commands complete with (R338); `lastRec` is the last
completion record written. -/
structure Queue where
  state : QState := .free
  prio  : Nat := 0
  log2  : Nat := 0
  tag   : Tag := 0
  ctx   : Ctx := 0
  ring  : Nat := 0
  comp  : Nat := 0
  tail  : BitVec 32 := 0
  head  : BitVec 32 := 0
  cdone : BitVec 32 := 0
  cmd   : Option Cmd := none
  part  : Option Cmd := none
  drain : Option Status := none
  lastRec : Option (Nat × Word × Word) := none
  deriving DecidableEq, Repr

/-- A sharer entry of a fence (R326). -/
structure Sharer where
  pkg    : Pkg
  tag    : Tag
  wait   : Bool
  signal : Bool
  deriving DecidableEq, Repr

/-- A fence at its home (R326); `subs` are its subscribers (R329). -/
structure Fence where
  live    : Bool := false
  dying   : Bool := false
  value   : Word := 0
  status  : Status := .ok
  fails   : Nat := 0
  ctx     : Ctx := 0
  tag     : Tag := 0
  notify  : Bool := false
  sharers : List Sharer := []
  subs    : List (Pkg × Tag) := []
  deriving DecidableEq, Repr

/-- A mirror of another package's fence (R329). -/
structure Mirror where
  handle : Word
  tag    : Tag
  value  : Word
  status : Status
  fails  : BitVec 24
  heard  : Bool
  deriving DecidableEq, Repr

/-- Arbitration at an engine (R333): the priority whose turn it is, what P1 to P3 may still spend in ns, and the head
served last at each priority. -/
structure Arb where
  turn : Nat := 1
  left : List Nat := [0, 80000, 0, 0]
  last : List Nat := [0, 0, 0, 0]
  deriving DecidableEq, Repr

/-- A seal or restore in progress in a slot (R337, R338): the image, whether its streams are open, the next line of the
image expected at each MCS, lines arrived, the digest folded so far and the first failure. -/
structure SealJob where
  restore : Bool
  ctx     : Ctx
  src     : Src
  base    : Nat
  states  : Nat
  lines   : Nat
  started : Bool
  count   : Nat
  next    : List (Nat × Nat)
  got     : Nat
  digest  : Word
  bad     : Option Status
  key     : Key
  deriving DecidableEq, Repr

/-- A resident slot (R335). A seal and a restore may share it (R338). -/
structure Slot where
  ctx   : Option Ctx := none
  wr    : Option SealJob := none
  rd    : Option SealJob := none
  deriving DecidableEq, Repr

/-- The kernel command port (R325). -/
structure KPort where
  slot   : BitVec 1024 := 0
  busy   : Bool := false
  status : Status := .ok
  token  : BitVec 32 := 0
  result : Word := 0
  ctx    : Option Ctx := none
  cmd    : Option Cmd := none
  deriving DecidableEq, Repr

/-- The Context Manager. `drr` are the weights of P1 to P3, `ended` the contexts being torn down (R317). -/
structure Cm where
  storeLock : Bool := false
  storeBase : Nat := 0
  storeKey  : Nat := 0
  storeRgn : Rgn := {}
  refs    : Sparse RefRec := []
  ctxs    : Sparse CtxRec := []
  slots   : Sparse Slot := []
  queues  : Sparse Queue := []
  kport   : KPort := {}
  fences  : Sparse Fence := []
  mirrors : List Mirror := []
  fsel    : Nat := 0
  drr     : List Nat := [8, 4, 1]
  arb     : Sparse Arb := []
  ended   : List Ctx := []
  dumps   : Sparse Dump := []
  deriving DecidableEq, Repr

end Sys2Proof.Machine
end

