-- ==== Sys2Proof/Machine/StateTrust.lean ====
section
/-! DEFINITION. State of trust (10) and boot (13): domain membership, bindings, authority and standby,
epochs, tenant instances, SPDM sessions, host link keys, migrations, mailbox, fuses, boot and firmware. -/

namespace Sys2Proof.Machine

/-- A candidate the DKA is admitting, or a claimant it challenges again (R284, R287). -/
structure Cand where
  ident : Digest
  pkg   : Pkg
  nonce : Key
  again : Bool
  deriving DecidableEq, Repr

/-- LCY_DOM.ROLE. -/
inductive DomRole where
  | member | dka | standby | fenced
  deriving DecidableEq, Repr

/-- CTX_TINST.STATE (R301). -/
inductive TState where
  | free | config | locked | run | error | frozen
  deriving DecidableEq, Repr

/-- Life-cycle states (Table 13.2). -/
inductive Lc where
  | blank | test | prod | eol
  deriving DecidableEq, Repr

/-- Why an SPDM request is answered with ERROR (R278, R310). -/
inductive SpdmErr where
  | sessionLimitExceeded | sessionRequired | invalidRequest
  deriving DecidableEq, Repr

/-- An instance as block 0x05 lists it (Table 10.3): number, role, slices, in-service masks. -/
structure MeasInst where
  num  : Nat
  role : Role
  nMcs : Nat
  nLcs : Nat
  mcs  : BitVec 32
  lcs  : BitVec 64
  deriving DecidableEq, Repr

/-- The measurement blocks 0x01 to 0x0A (Table 10.3), by what they contain. `basil` is per instance: number, pass, slices
held in reset. -/
structure Meas where
  rom      : Digest
  fwSvn    : Nat
  fwSlot   : Bool
  fwHash   : Digest
  arb      : Nat
  layout   : Digest
  lc       : Lc
  debug    : Bool
  subst    : Bool
  latches  : BitVec 9
  insts    : List MeasInst
  standbyLost : Bool
  basil    : List (Nat × Bool × Nat)
  scan     : Nat
  storeSeq : BitVec 64
  storeOpen : Bool
  importGen : BitVec 32
  importKey : BitVec 12544
  domain   : BitVec 64
  policy   : Digest
  role     : DomRole
  pkg      : Pkg
  t0       : BitVec 64
  epoch    : Nat
  domStandbyLost : Bool
  deriving DecidableEq, Repr

/-- A device interface report (R302). -/
structure Report where
  tag     : Tag
  tdisp   : Bool
  pasid   : BitVec 20
  queues  : List Nat
  regions : List (Nat × Rgn)
  windows : List (Nat × Win)
  deriving DecidableEq, Repr

/-- A certificate that the boot ROM or Sage issues for a DICE layer, one an algorithm (R276, R277; layer 0 stands for the DeviceID
certificate, issued by Ryudor): the public key, the layer's SHA-384 measurement in the TcbInfo extension, the issuer's signature. The
management certificate (R310) is layer 3. -/
structure AliasCert where
  layer : Nat
  alg   : Nat
  pub   : Bytes
  tcb   : Digest
  sig   : Bytes
  deriving DecidableEq, Repr

/-- A measurement block (Table 10.3): index, whether raw, contents. -/
structure MeasBlock where
  index : Nat
  raw   : Bool
  value : Bytes
  deriving DecidableEq, Repr

/-- The algorithms of Table 10.2. -/
inductive SpdmAlg where
  | ecdsaP384 | sha384 | secp384r1 | aes256Gcm
  deriving DecidableEq, Repr

/-- What NEGOTIATE_ALGORITHMS selects: base asymmetric algorithm, hash, measurement hash, DHE group, AEAD. -/
structure SpdmAlgs where
  asym : SpdmAlg := .ecdsaP384
  hash : SpdmAlg := .sha384
  meas : SpdmAlg := .sha384
  dhe  : SpdmAlg := .secp384r1
  aead : SpdmAlg := .aes256Gcm
  deriving DecidableEq, Repr

/-- What a response of the responder says (R277 to R279, R292, R300). -/
inductive SpdmRsp where
  | version (minor : List Nat) | capabilities | algorithms (a : SpdmAlgs)
  | digests (l : List (Nat × Digest))
  | certificate (slot : Nat) (chain : Option CertChain) (own : List AliasCert)
  | challengeAuth (slot : Nat) (nonce : Key) (sig : BitVec 768)
  | measurements (index : Nat) (m : Meas) (blocks : List MeasBlock) (sig : Option (Key × BitVec 768))
  | session (num : Nat) (exch sig : BitVec 768)
  | finished (num : Nat)
  | ended (num : Nat)
  | ack
  | chunk (seq : Nat) (last : Bool) (data : Bytes)
  | error (e : SpdmErr)
  | vendor (st : Status)
  | bundle (seq : Nat) (data : Bytes)
  | memberEvidence (b : Option Bind)
  | pqChain (chain : Option CertChain) (own : List AliasCert)
  | tdispVersion | tdispCapabilities
  | report (r : Report)
  | tdispState (s : TState)
  | tdispOk | tdispError
  deriving DecidableEq, Repr

/-- What a domain message says (R283 to R294, R305, R309, R346, R354). -/
inductive DomBody where
  | join | challenge (nonce : Key) | evidence (chain : Option CertChain) (own : List AliasCert) (resp : SpdmRsp) | admitMsg (a : Admit) | refuse (st : Status)
  | quarantine (pkg : Pkg) | rebind (pkg : Pkg) (ident : Digest) | release (pkg : Pkg) | leave
  | bindQuery (pkg : Pkg) (claim : Option Digest) | bindAnswer (pkg : Pkg) (b : Bind)
  | hello (ek : BitVec 12544) (lcs : List Nat) | helloAck (ct : BitVec 12544) (pairs : List (Nat × Nat × Bytes)) | helloFin (epoch : Nat)
  | change (c : DomChg) | changeAck | copy (x : DomCopy)
  | heartbeat | heartbeatAck | takeover | takeoverAck | epochGrant (max : Nat)
  | oosNotice | pkgLost (pkg : Pkg) | homeMask (mask : BitVec 64)
  | restored (tag : Tag) | commit (tag : Tag) | migAborted (tag : Tag)
  | migKey (tag : Tag) (ct : BitVec 12544) | leaseRenew | leaseReq | leaseAnswer (ok : Bool) | relinquish | migAsk (tag : Tag)
  deriving DecidableEq, Repr

/-- An outbound domain message (R283): destination package, sequence number, signature of the layout alias; over an UP pair none. -/
structure DomOut where
  dst  : Pkg
  body : DomBody
  seq  : Nat
  sig  : Option (BitVec 768) := none
  deriving DecidableEq, Repr

/-- A pair handshake with a peer (R289): the own instance that PAIR_CONNECT named, or the pairs (own LCS, peer's LCS) that a
plan names; when it started or ended; own LCS, peer's LCS and LINK entry of each pair agreed on; the HELLO_ACK that was sent. -/
structure Hand where
  peer    : Pkg
  inst    : Option Nat
  want    : List (Nat × Nat)
  started : BitVec 64
  pairs   : List (Nat × Nat × Nat)
  done    : Bool
  ack     : Option (BitVec 12544 × List (Nat × Nat × Bytes)) := none
  deriving DecidableEq, Repr

/-- LCY_DOM.STATE. -/
inductive DomState where
  | none | joining | admitted | leaving
  deriving DecidableEq, Repr

/-- Domain membership and authority (R280 to R299). `out` are the messages that wait for the relay, `lastOut` the last message
that left for each package over an UP pair; `chg` are changes that wait for the
standby; `bundleN` is the draw of the bundle's signatures. -/
structure Dom where
  state   : DomState := .none
  role    : DomRole := .member
  id      : BitVec 64 := 0
  pkg     : Pkg := 0
  ident   : Digest := 0
  policy  : Option Policy := none
  polHash : Digest := 0
  span    : Bool := false
  epochN  : Nat := 16
  t0      : BitVec 64 := 0
  epoch   : Nat := 0
  grant   : Nat := 0
  auth    : Option (Pkg × Digest) := none
  standby : Option (Pkg × Digest) := none
  beatAt  : BitVec 64 := 0
  beatMiss : Nat := 0
  beatAcks : List Pkg := []
  seq     : Nat := 0
  seen    : List (Digest × Nat) := []
  binds   : Sparse Bind := []
  bindSel : Nat := 0
  cands   : List Cand := []
  hands   : List Hand := []
  out     : List DomOut := []
  lastOut : List DomOut := []
  bundleSeq : Nat := 0
  bundleAt : BitVec 64 := 0
  bundleN : Nat := 0
  stdLost : Bool := false
  chg     : List DomChg := []
  takeAcks : List Pkg := []
  joinTo  : Option (Pkg × BitVec 64) := none
  deriving DecidableEq, Repr

/-- A tenant instance. `was` is the state a freeze left; `dying` marks a TINST_DESTROY whose objects are
still being torn down; `sess` is the session that governs it. -/
structure TInst where
  state  : TState := .free
  tdisp  : Bool := false
  pasid  : BitVec 20 := 0
  stream : BitVec 8 := 0
  ifid   : BitVec 16 := 0
  was    : TState := .run
  dying  : Bool := false
  sess   : Option Nat := none
  deriving DecidableEq, Repr

/-- A secured SPDM session (R278). `tr` is its transport; `mgmt` says mutual authentication was asked; `secret` is the secret of its
secp384r1 exchange, from which SPDM derives the session's AES-256-GCM keys. -/
structure Sess where
  num  : Nat
  tr   : Transport
  mgmt : Bool
  done : Bool
  keys : Nat
  secret : Bytes := []
  deriving DecidableEq, Repr

/-- A command driven on HK_ (Table 2.7). -/
structure HkCmd where
  op     : Nat
  stream : BitVec 8
  sub    : BitVec 2
  dir    : Bool
  kset   : Bool
  key    : Key
  ifv    : BitVec 64
  deriving DecidableEq, Repr

/-- An IDE stream: its number, programmed keys (sub-stream, direction, key set) and active ones. -/
structure Stream where
  num    : BitVec 8
  prog   : List (BitVec 2 × Bool × Bool)
  active : List (BitVec 2 × Bool × Bool)
  deriving DecidableEq, Repr

/-- Host link keys (R47 to R50): commands waiting for HK_, the one driven, the one accepted and awaiting
its acknowledgement, streams, the last answer to the TSM. -/
structure Ide where
  wait    : List HkCmd := []
  drive   : Option HkCmd := none
  ack     : Option HkCmd := none
  streams : List Stream := []
  answer  : Option (HkCmd × Bool) := none
  deriving DecidableEq, Repr

/-- SPDM and certificates (R276 to R279, R310). `chain` is the Ryudor chain once one was accepted, `own` the certificates issued at boot. `chunk` gathers a large request, `big` is the last large request or
response, `last` the last response given. -/
structure Att where
  chain    : Option CertChain := none
  own      : List AliasCert := []
  version  : Bool := false
  caps     : Bool := false
  algs     : Bool := false
  sess     : List Sess := []
  chunk    : Option (Nat × Bytes) := none
  big      : Bytes := []
  last     : Option (Transport × SpdmRsp) := none
  deriving DecidableEq, Repr

/-- A mailbox command accepted and not yet answered: its code, who sent it, its journal entry, what it is about. -/
structure MbJob where
  code : Nat
  req  : MbReq
  jseq : Nat
  arg  : Nat
  deriving DecidableEq, Repr

/-- A migration (R305 to R309) of one tenant instance: its KEK entry and the blob last exported, as it leaves. -/
structure Mig where
  tag       : Tag
  peer      : Pkg
  source    : Bool
  kek       : Nat
  blob      : Option Bytes := none
  frozen    : Bool
  restored  : Bool
  committed : Bool
  aborted   : Bool
  deriving DecidableEq, Repr

/-- The last mailbox answer of a half (R52): code, token, status, data. -/
structure MbAns where
  code   : Nat
  token  : BitVec 32
  status : Status
  data   : Bytes
  deriving DecidableEq, Repr

/-- An OTP operation under way (R61, R366 to R371): reads of the boot sense, and programs in order. -/
inductive OtpJob where
  | sense (next : Nat)
  | prog (word value : Nat) (again : Bool) (readback : Bool)
  deriving DecidableEq, Repr

/-- Why fuses are being programmed: clean-up of the banks at boot, a bank made VOID, a transition (resumed at boot or not,
its target, the serial), a hash (which one, its value), the anti-rollback count, the scan log for an instance. -/
inductive OtpWhy where
  | clean | void (word : Nat)
  | advance (resumed : Bool) (target : Lc) (serial : Word)
  | hash (layoutKey : Bool) (value : Digest)
  | arb
  | scan (inst : Nat)
  deriving DecidableEq, Repr

/-- Fuses as the block knows them (R365 to R371). `words` is what was sensed or last programmed, `todo` the words still to
program for `why`, oldest first, `stage` the step of a transition (R368), `later` what waits for the fuses. `own` is OT_OWN,
`gnt` the instance whose OT_GNT is high; `second` says that the other primary-capable instance has sensed the array, `sense2` is the next word it senses. -/
structure Otp where
  words : Sparse (BitVec 32) := []
  own   : Bool := false
  gnt   : Option Nat := none
  second : Bool := false
  sense2 : Option Nat := none
  job   : Option OtpJob := none
  why   : Option OtpWhy := none
  todo  : List (Nat × Nat) := []
  stage : Nat := 0
  later : List OtpWhy := []
  sel   : Nat := 0
  lc    : Lc := .blank
  intent : Lc := .blank
  deriving DecidableEq, Repr

/-- Firmware slot state in the AO island (AO_FW, R382). -/
structure AoFw where
  valid      : Bool := false
  slot       : Bool := false
  staged     : Bool := false
  pending    : Bool := false
  tried      : Bool := false
  confirming : Bool := false
  dbgPend    : Bool := false
  svn        : Nat := 0
  hash       : Digest := 0
  deriving DecidableEq, Repr

/-- Result of a unit's self-test (BST_UNIT, BST_MISR). -/
structure Bst where
  result : Nat := 0
  used   : Nat := 0
  wave   : Nat := 0
  lanes  : BitVec 24 := 0
  misr   : BitVec 64 := 0
  deriving DecidableEq, Repr

/-- Boot (R373 to R383). `asked` is the image wanted (0 Layout Image, 1 and 2 firmware slots A and B), `sent` that BOOT_REQ
has named it, `buf` the bytes delivered, `acks` and `absent` the instances heard of (R375), `west` that KEYLOADs go westward,
`waves` the waves still to run, `preWave` that the pre-wave runs, `fwTry` the firmware images tried, `fw` the firmware that
runs and its slot, `other` slot A's image while slot B's is awaited, `nonce` the debug nonce in force (R372). -/
structure Boot where
  hard    : Bool := true
  step    : Nat := 0
  halted  : Bool := false
  status  : Status := .ok
  master  : Option Nat := none
  asked   : Option Nat := none
  sent    : Bool := false
  buf     : Bytes := []
  layout  : Option LayoutImg := none
  acks    : List Nat := []
  absent  : List Nat := []
  west    : Bool := false
  waves   : List Nat := []
  preWave : Bool := false
  fwTry   : Nat := 0
  fw      : Option (Bool × FwImg) := none
  other   : Option FwImg := none
  debug   : Bool := false
  nonce   : Option Key := none
  bst     : Sparse Bst := []
  aoFw    : AoFw := {}
  deriving DecidableEq, Repr

/-- A mutation sent to the SP (R355): the command whose effect on the replicated state waits. -/
inductive Mut where
  | create (src : Src) | finishLoad (src : Src) | adopt (src : Src) | retire (src : Src) | rekey (src : Src)
  | update (src : Src) | retireComplete (index : Nat) | rekeySweepEnd (index : Nat)
  | checkSweepEnd (index : Nat) (ans : List MemAns)
  | roofSlotWrite (n node slot : Nat)
  | createWindow (src : Src) | delete (src : Src) | deleteComplete (index : Nat)
  | mint (src : Src) (w arg budget : Word) (data : Bytes) (rd : Status) | rueSweepVisit (index : Nat)
  | scuOp (page : Nat)
  | ctxDefine (src : Src) | ctxDestroy (src : Src) | qCreate (src : Src) | qDestroy (src : Src)
  | qRestart (src : Src) | fncCreate (src : Src) | hold (src : Src) | release (src : Src)
  | objectFree (type : BitVec 4) (index : Nat) | ctxSeal (src : Src) | ctxRestore (src : Src)
  | sealEnd (slot : Nat) | restoreEnd (slot : Nat) | sealTimeout (slot : Nat) (restore : Bool)
  | qtail (q : Nat) (tail : BitVec 32) | qstart (q : Nat) (slots : Line) (rd : Status) | qrecord (q : Nat) (wr : Status)
  | qwait (q : Nat)
  | fenceSignalApply (src : Src) (st : Status) | signal (f : FenceLine)
  | bind (e : Bind) | domChg (c : DomChg) | domPolicy (r : SpdmReq) (image : Bytes) | admission (p : Pkg) (a : Admit) (kdom : Key)
  | quarantine (p : Pkg) | rebind (p : Pkg) (ident : Digest) | releasePeer (p : Pkg) | leave
  | hello (p : Pkg) (ek : BitVec 12544) (lcs : List Nat) | helloAck (p : Pkg) (seeds : List (Nat × Nat × Key)) | helloFin (p : Pkg) (epoch : BitVec 24)
  | handTimeout (p : Pkg)
  | migOpen (j : MbJob) (tag : Tag) (peer : Pkg) (source evidenceOk : Bool) (kem : BitVec 12544) (transcript : Bytes)
  | migRestore (j : MbJob) (tag : Tag) (blob : MigBlob) (data : Bytes)
  deriving DecidableEq, Repr

/-- Replication, lease and takeover (R355 to R357). `repl` holds the mutations sent to the SP and not yet
acknowledged, oldest first. -/
structure Fo where
  sp       : SpState := .none
  copying  : Bool := false
  lost     : Bool := false
  repl     : List Mut := []
  ppFenced : Bool := false
  ppGone   : Bool := false
  leaseEnd : Option (BitVec 64) := none
  asking   : Bool := false
  ppAlive  : Bool := true
  witness  : Sparse (BitVec 64) := []
  deriving DecidableEq, Repr

/-- Trust and boot together. -/
structure Trust where
  dom    : Dom := {}
  tinst  : Sparse TInst := []
  att    : Att := {}
  ide    : Ide := {}
  migs   : List Mig := []
  mbK    : Option MbAns := none
  mbM    : Option MbAns := none
  jobs   : List MbJob := []
  mgLast : Option (Nat × List Byte) := none
  lcyReset : Bool := false
  deriving DecidableEq, Repr

end Sys2Proof.Machine
end

