-- ==== Sys2Proof/Machine/State.lean ====
section
/-! DEFINITION. The machine: one package of the block as plain data, its queue of waiting commands, its
reasons to stop, and the state after reset. -/

namespace Sys2Proof.Machine

/-- Reasons a command stops the machine. -/
inductive Fault where
  /-- Raised by a meaning whose command carries more or less than its carrier can: BOOT_DATA over 4 KiB (13, Boot), a request
  on LT_OR with no transfer or more than four (R167). Safe: no sender can send such a command (log 57). -/
  | illFormed
  deriving DecidableEq, Repr

/-- Reasons a command has no meaning. -/
inductive Refusal where
  /-- Raised by an arm of `exec` whose command has no meaning yet. Safe: the machine stops. -/
  | notModelled (mnemonic : String)
  deriving DecidableEq, Repr

/-- The block of one package (01 R3): instances by number, slices by package slice number. `time` is the
Thyme time of the package, `ring` the messages under way on the package ring (destination, message),
oldest first, `tally` the events counted, `freeCtr` the index of the next free value (log 2). -/
structure Block where
  time    : BitVec 64 := 0
  freeCtr : Nat := 0
  tally   : Sparse Nat := []
  ring    : List RingPkt := []
  inst    : Sparse Inst := []
  units   : Sparse InstUnits := []
  mcs     : Sparse Mcs := []
  mport   : Sparse MPort := []
  rgn     : RgnUnit := {}
  keys    : Keys := {}
  lcs     : Sparse Lcs := []
  lport   : Sparse LPort := []
  esb     : Sparse Esb := []
  fab     : Fab := {}
  red     : Red := {}
  bay     : Bay := {}
  fo      : Fo := {}
  jnl     : Jnl := {}
  cm      : Cm := {}
  trust   : Trust := {}
  otp     : Otp := {}
  boot    : Boot := {}
  deriving DecidableEq, Repr

/-- The state: the block, and the commands that wait, first in, first out. -/
structure State where
  b       : Block
  pending : List Instr
  deriving DecidableEq, Repr

/-- The package after reset, held in hard reset and not booted: the smallest configuration (00, after R3),
one primary-capable instance with one MCS pair and one LCS. DESIGN CHOICE (log 3): the build. -/
def Block.reset : Block :=
  { inst := [(0, { built := true, nMcs := 2, nLcs := 1, primary := true, ao := { good := true } })] }

/-- The machine right after reset: no command waits. -/
def State.reset : State := { b := Block.reset, pending := [] }

end Sys2Proof.Machine
end

