-- ==== Sys2Proof/Machine/Ops.lean ====
section
/-! DEFINITION. Operations every family of commands uses: entries of the tables, events and interrupts
(R63, R69, R384), alarms (R348), trace records (R388 to R390), access to ZCP windows (R20 to R22), the
Command Journal (R360). -/

namespace Sys2Proof.Machine

/-! Entries of the tables. -/

def getInst (b : Block) (i : Nat) : Inst := Sparse.get {} b.inst i
def updInst (i : Nat) (f : Inst → Inst) (b : Block) : Block := { b with inst := Sparse.upd {} b.inst i f }
def getUnits (b : Block) (i : Nat) : InstUnits := Sparse.get {} b.units i
def updUnits (i : Nat) (f : InstUnits → InstUnits) (b : Block) : Block :=
  { b with units := Sparse.upd {} b.units i f }
def getMcs (b : Block) (n : Nat) : Mcs := Sparse.get {} b.mcs n
def updMcs (n : Nat) (f : Mcs → Mcs) (b : Block) : Block := { b with mcs := Sparse.upd {} b.mcs n f }
def getPort (b : Block) (n : Nat) : MPort := Sparse.get {} b.mport n
def updPort (n : Nat) (f : MPort → MPort) (b : Block) : Block := { b with mport := Sparse.upd {} b.mport n f }
def getLcs (b : Block) (n : Nat) : Lcs := Sparse.get {} b.lcs n
def updLcs (n : Nat) (f : Lcs → Lcs) (b : Block) : Block := { b with lcs := Sparse.upd {} b.lcs n f }
def getLport (b : Block) (n : Nat) : LPort := Sparse.get {} b.lport n
def updLport (n : Nat) (f : LPort → LPort) (b : Block) : Block :=
  { b with lport := Sparse.upd {} b.lport n f }
def getEsb (b : Block) (i : Nat) : Esb := Sparse.get {} b.esb i
def updEsb (i : Nat) (f : Esb → Esb) (b : Block) : Block := { b with esb := Sparse.upd {} b.esb i f }
def getFab (b : Block) (i : Nat) : FabInst := Sparse.get {} b.fab.inst i
def updFab (i : Nat) (f : FabInst → FabInst) (b : Block) : Block :=
  { b with fab := { b.fab with inst := Sparse.upd {} b.fab.inst i f } }
def getRgn (b : Block) (k : Nat) : Rgn := Sparse.get {} b.rgn.table k
def setRgn (k : Nat) (r : Rgn) (b : Block) : Block :=
  { b with rgn := { b.rgn with table := Sparse.set {} b.rgn.table k r } }
def getKey (b : Block) (k : Nat) : KEntry := Sparse.get {} b.keys.kreg k
def updKey (k : Nat) (f : KEntry → KEntry) (b : Block) : Block :=
  { b with keys := { b.keys with kreg := Sparse.upd {} b.keys.kreg k f } }
def getWin (b : Block) (k : Nat) : Win := Sparse.get {} b.fab.table k
def setWin (k : Nat) (w : Win) (b : Block) : Block :=
  { b with fab := { b.fab with table := Sparse.set {} b.fab.table k w } }
def getCtx (b : Block) (c : Nat) : CtxRec := Sparse.get {} b.cm.ctxs c
def updCtx (c : Nat) (f : CtxRec → CtxRec) (b : Block) : Block :=
  { b with cm := { b.cm with ctxs := Sparse.upd {} b.cm.ctxs c f } }
def getQueue (b : Block) (q : Nat) : Queue := Sparse.get {} b.cm.queues q
def updQueue (q : Nat) (f : Queue → Queue) (b : Block) : Block :=
  { b with cm := { b.cm with queues := Sparse.upd {} b.cm.queues q f } }
def getFence (b : Block) (k : Nat) : Fence := Sparse.get {} b.cm.fences k
def updFence (k : Nat) (f : Fence → Fence) (b : Block) : Block :=
  { b with cm := { b.cm with fences := Sparse.upd {} b.cm.fences k f } }
def getSlot (b : Block) (k : Nat) : Slot := Sparse.get {} b.cm.slots k
def updSlot (k : Nat) (f : Slot → Slot) (b : Block) : Block :=
  { b with cm := { b.cm with slots := Sparse.upd {} b.cm.slots k f } }
def getTInst (b : Block) (t : Nat) : TInst := Sparse.get {} b.trust.tinst t
def updTInst (t : Nat) (f : TInst → TInst) (b : Block) : Block :=
  { b with trust := { b.trust with tinst := Sparse.upd {} b.trust.tinst t f } }
def getScu (b : Block) (p : Nat) : ScuPage := Sparse.get {} b.keys.scu p
def updScu (p : Nat) (f : ScuPage → ScuPage) (b : Block) : Block :=
  { b with keys := { b.keys with scu := Sparse.upd {} b.keys.scu p f } }
def updMint (f : Mint → Mint) (b : Block) : Block := { b with keys := { b.keys with mint := f b.keys.mint } }
def updStore (f : Store → Store) (b : Block) : Block := { b with keys := { b.keys with store := f b.keys.store } }
def updDom (f : Dom → Dom) (b : Block) : Block := { b with trust := { b.trust with dom := f b.trust.dom } }
def updIde (f : Ide → Ide) (b : Block) : Block := { b with trust := { b.trust with ide := f b.trust.ide } }

/-- The index of the next free value, and the block with the counter advanced (log 2). -/
def fresh (b : Block) : Nat × Block := (b.freeCtr, { b with freeCtr := b.freeCtr + 1 })

/-! Roles. -/

/-- A test of an instance, by number, that one listed instance passes. -/
def findInst (p : Inst → Bool) (b : Block) : Option Nat := (b.inst.find? (fun e => p e.2)).map (·.1)

/-- The instance in the PP role. -/
def ppInst (b : Block) : Option Nat := findInst (fun i => i.role == .pp) b

/-- The instance in the SP role. -/
def spInst (b : Block) : Option Nat := findInst (fun i => i.role == .sp) b

/-- The acting primary (R22, R356, R357): the SP that has taken over, else the PP that has not fenced itself. -/
def primaryInst (b : Block) : Option Nat :=
  if b.fo.sp = .acting then spInst b else if b.fo.ppFenced || b.fo.ppGone then none else ppInst b

/-- Whether an instance is the acting primary. -/
def isPrimary (b : Block) (i : Nat) : Bool := primaryInst b == some i

/-- Thyme time of an instance: the package's time with its test skew (TST_TSKEW, R395). -/
def thyme (b : Block) (i : Nat) : BitVec 64 := b.time + (getUnits b i).tst.skew.signExtend 64

/-! Events (R384). Keys of `tally` are the model's own numbers inside the groups of Table 14.1. -/

def evMcs (k : Nat) : Nat := k
def evLink (k : Nat) : Nat := 0x40 + k
def evEsb (k : Nat) : Nat := 0x80 + k
def evRed (k : Nat) : Nat := 0xA0 + k
def evFab (k : Nat) : Nat := 0xC0 + k
def evKey (k : Nat) : Nat := 0xE0 + k
def evCtx (k : Nat) : Nat := 0x100 + k
def evBay (k : Nat) : Nat := 0x120 + k
/-- The event every forced failure counts in (R395). -/
def evForced : Nat := 0x12F
def evPort (k : Nat) : Nat := 0x130 + k

/-- First code and number of codes of the group an event belongs to (Table 14.1). -/
def evGroup (ev : Nat) : Nat × Nat :=
  if ev < 0x40 then (0x00, 64) else if ev < 0x80 then (0x40, 64) else if ev < 0xA0 then (0x80, 32)
  else if ev < 0xC0 then (0xA0, 32) else if ev < 0xE0 then (0xC0, 32) else if ev < 0x100 then (0xE0, 32)
  else if ev < 0x120 then (0x100, 32) else if ev < 0x12F then (0x120, 15) else if ev = 0x12F then (0x12F, 1)
  else (0x130, 16)

/-- The catalogue code of an event: its group is the spec's, its place in the group is open (log 14). -/
def evCode (ev : Nat) : Nat := (evGroup ev).1 + Config.eventOffset ev % (evGroup ev).2

/-- Whom an event is attributed to (R386): instance, slice in slice order (15: none), tag, layer, operator. -/
structure Who where
  inst  : Nat := 0
  unit  : Nat := 15
  tag   : Option Tag := none
  layer : BitVec 16 := 0
  opid  : BitVec 16 := 0
  deriving DecidableEq, Repr

/-- Whether a counter's configuration word selects an event (TEL_CFG, R384). -/
def telSelects (cfg : Word) (code : Nat) (w : Who) : Bool :=
  fieldBit cfg 9 && fieldNat cfg 8 0 == code
    && (fieldNat cfg 13 10 == 15 || fieldNat cfg 13 10 == w.unit)
    && (!fieldBit cfg 14 || w.tag == some (BitVec.ofNat 6 (fieldNat cfg 21 16)))
    && (!fieldBit cfg 22 || fieldNat cfg 39 24 == w.layer.toNat)
    && (!fieldBit cfg 23 || fieldNat cfg 55 40 == w.opid.toNat)

/-- One more in every enabled counter that selects the event; counts saturate (R384). -/
def telCount (w : Who) (ev : Nat) (t : Tel) : Tel :=
  t.cfg.foldl (fun t e =>
    if fieldBit e.2 9 then
      if telSelects e.2 (evCode ev) w then
        { t with cnt := Sparse.upd 0 t.cnt e.1 (fun c => if c < 2 ^ 48 - 1 then c + 1 else c) }
      else t
    else t) t

/-- Count an event. -/
def count (w : Who) (ev : Nat) (b : Block) : Block :=
  let b := { b with tally := Sparse.upd 0 b.tally ev (· + 1) }
  if (getUnits b w.inst).tel.cfg.isEmpty then b
  else updUnits w.inst (fun u => { u with tel := telCount w ev u.tel }) b

/-- The interrupt lines of an instance (R63): high while an unmasked cause is pending. Before release the outputs hold their reset
value (R29), but for INT[0], on which the boot asks for its images (R374). -/
def intLines (s : Inst) : BitVec 16 := if s.released then s.int &&& ~~~s.intMask else s.int &&& 1

/-- Raise an interrupt line of an instance (R63): its cause is pending. -/
def raise (i line : Nat) (b : Block) : Block :=
  updInst i (fun s => { s with int := s.int ||| BitVec.ofNat 16 (2 ^ line) }) b

/-- Raise an interrupt line at the acting primary. -/
def raisePrimary (line : Nat) (b : Block) : Block :=
  match primaryInst b with
  | some i => raise i line b
  | none => b

/-- R69: an illegal input is counted as a port error and raises INT[14]. -/
def portError (w : Who) (k : Nat) (b : Block) : Block := raise w.inst 14 (count w (evPort k) b)

/-! Trace (R388 to R390). -/

/-- A trace record before its stream's SEQ is put in (Table 14.3). -/
structure TraceRec where
  kind   : Nat
  status : Status := .ok
  tag    : Tag := 0
  layer  : BitVec 16 := 0
  opid   : BitVec 16 := 0
  ctx    : Ctx := 0
  unit   : Nat := 0
  arg    : Nat := 0
  deriving DecidableEq, Repr

/-- The 32 bytes of a record. -/
def traceBits (time : BitVec 64) (inst seq : Nat) (r : TraceRec) : BitVec 256 :=
  BitVec.ofNat 256 (time.toNat + (r.kind <<< 64) + (statusCode r.status <<< 72) + ((inst % 256) <<< 80)
    + (r.tag.toNat <<< 88) + (r.layer.toNat <<< 96) + (r.opid.toNat <<< 112) + (r.ctx.toNat <<< 128)
    + ((r.unit % 65536) <<< 144) + ((seq % 2 ^ 32) <<< 160) + ((r.arg % 2 ^ 64) <<< 192))

/-- Four records as a line, record 0 in byte 0; unused records zero. -/
def traceLine (l : List (BitVec 256)) : Line :=
  BitVec.ofNat 1024 ((l.foldr (fun r a => r.toNat + (a <<< 256)) 0) % 2 ^ 1024)

/-- Line `k` of a region, as a line address. -/
def rgnLine (r : Rgn) (k : Nat) : LineAddr := BitVec.ofNat 45 (r.base * 16384 + k)

/-- The line a stream is filling goes to the instance's buffer (R390: 16 lines in all its streams), from which it is written. -/
def traceFlush (r : Rgn) (s : Trc) : Trc :=
  if s.line.isEmpty then s
  else
    let at' := ((s.next - s.line.length) / 4) % (r.size * 16384)
    { s with line := [], next := (s.next + 3) / 4 * 4, buf := s.buf ++ [((rgnLine r at').toNat, traceLine s.line)] }

/-- Put one record into a stream (R389): dropped and counted where WRAP = 0 and every line of the region has
been written, or where the line buffer is full; a drop is told by a LOST record before the next. -/
def tracePut (time : BitVec 64) (inst : Nat) (r : Rgn) (full : Bool) (rec : TraceRec) (s : Trc) : Trc :=
  if s.wrap = false ∧ s.next / 4 ≥ r.size * 16384 then { s with written := s.written + 1 }
  else if full && s.line.length == 3 then { s with written := s.written + 1, lost := s.lost + 1 }
  else
    let s' :=
      if s.lost = 0 then s
      else
        let l := { s with line := s.line ++ [traceBits time inst s.written { kind := 15, tag := rec.tag, arg := s.lost }],
                          next := s.next + 1, lost := 0 }
        if l.line.length = 4 then traceFlush r l else l
    let s'' := { s' with line := s'.line ++ [traceBits time inst s'.written rec], next := s'.next + 1,
                         written := s'.written + 1 }
    if s''.line.length = 4 then traceFlush r s'' else s''

/-- A record offered to every stream of an instance that takes its kind and tag (R388). -/
def trace (i : Nat) (rec : TraceRec) (b : Block) : Block :=
  let u := getUnits b i
  if u.tel.trc.any (fun s => s.en) then
    let full := decide (16 ≤ (u.tel.trc.map (fun s => s.buf.length)).foldl (· + ·) 0)
    let put := fun (s : Trc) =>
      let r := getRgn b s.region
      if s.en && (rec.kind == 15 || s.mask.getLsbD (rec.kind - 1)) && r.tag == rec.tag
      then tracePut (thyme b i) i r full rec s else s
    updUnits i (fun u => { u with tel := { u.tel with trc := u.tel.trc.map put } }) b
  else b

/-- A record at the acting primary. -/
def tracePrimary (rec : TraceRec) (b : Block) : Block :=
  match primaryInst b with
  | some i => trace i rec b
  | none => b

/-- A new region state: the record of kind 7 (Table 14.3), and streams of a region that is no longer ACTIVE
clear EN (R390). -/
def stateNum : RgnState → Nat
  | .free => 0 | .loading => 1 | .checking => 2 | .active => 3 | .rekey => 4 | .failed => 5 | .retiring => 6

def regionState (k : Nat) (st : RgnState) (b : Block) : Block :=
  let r := getRgn b k
  let b := setRgn k { r with state := st } b
  let b := tracePrimary { kind := 7, tag := r.tag, ctx := r.owner, unit := k, arg := stateNum st } b
  if st = .active then b
  else { b with units := Sparse.mapAll {} b.units (fun _ u =>
    { u with tel := { u.tel with trc := u.tel.trc.map (fun s => if s.region = k then { s with en := false } else s) } }) }

/-! Alarms (R348). -/

/-- Alarm classes of R348. -/
inductive Alarm where
  | tag | sorrel | residue
  deriving DecidableEq, Repr

/-- The status an alarm class carries into a Bay abort. -/
def alarmStatus : Alarm → Status
  | .tag => .tagFail | .sorrel => .sorrelFail | .residue => .residueFail

/-- Count an alarm over the last WIN_MS ms; at a nonzero threshold the package owes a Bay abort. -/
def alarm (a : Alarm) (b : Block) : Block :=
  let win := b.bay.winMs * 1000000
  let keep := fun (l : List (BitVec 64)) => b.time :: l.filter (fun t => b.time.toNat < t.toNat + win)
  let due := fun (th n : Nat) => if 0 < th ∧ th ≤ n ∧ b.bay.due = none then some (alarmStatus a, b.trust.dom.pkg) else b.bay.due
  match a with
  | .tag => { b with bay := { b.bay with tagAl := keep b.bay.tagAl, due := due b.bay.tagTh (keep b.bay.tagAl).length } }
  | .sorrel => { b with bay := { b.bay with sorAl := keep b.bay.sorAl, due := due b.bay.sorTh (keep b.bay.sorAl).length } }
  | .residue => { b with bay := { b.bay with resAl := keep b.bay.resAl, due := due b.bay.resTh (keep b.bay.resAl).length } }

/-! The package ring (R54 to R56, R255). -/

/-- TYPE of a ring message (R255). -/
def ringType : RingMsg → Nat
  | .layout => 0x02 | .layoutAck _ => 0x03 | .push _ => 0x10 | .fillReq _ _ => 0x11 | .fillNeg _ => 0x12 | .evict _ _ _ _ => 0x13
  | .inval _ _ => 0x14 | .invalAck _ _ => 0x15 | .grantReq _ _ => 0x16 | .grant _ _ => 0x17 | .recall _ => 0x18
  | .recallAck _ _ _ _ => 0x19 | .zeroize => 0x1F | .snapArm _ => (Config.ringType 0).toNat | .silentError _ _ => (Config.ringType 1).toNat

/-- What a ring message says, as numbers. -/
def ringFields : RingMsg → List Nat
  | .layout | .zeroize => []
  | .push e => [e.index, e.gen.toNat, e.type, e.usage.toNat, e.owner.toNat, e.grant, leNat e.work.enc, leNat e.work.mac, leNat e.work.twk, leNat e.work.tree] ++ e.ancestors
  | .fillReq s k | .invalAck s k | .grantReq s k => [s, k]
  | .fillNeg k | .recall k => [k]
  | .evict s k g n | .recallAck s k g n => [s, k, g.toNat, n]
  | .inval k g => [k, g.toNat]
  | .grant k n => [k, n]
  | .snapArm t => [t.toNat]
  | .silentError t st => [t.toNat, statusCode st]
  | .layoutAck s => [s]

/-- Transfers of a message (R255): five for a PUSH; those of an instance's LAYOUT are as many as its sections need. -/
def ringParts : RingMsg → Nat
  | .push _ => 5
  | .layout => Config.layoutExtra.toNat + 1
  | _ => 1

/-- IV of a transfer (R255). -/
def ringIv (hdr : Bytes) : Bytes := hdr.take 1 ++ [0, 0, 0] ++ (hdr.drop 4).take 8

/-- A transfer of Table 9.7: header, encrypted payload, 96-bit tag. -/
def ringSeal (key : Key) (src dst seq type : Nat) (payload : Bytes) : Bytes :=
  let hdr := [BitVec.ofNat 8 src, BitVec.ofNat 8 dst, BitVec.ofNat 8 type, 0] ++ leBytes 8 seq
  let ct := gcmCrypt (keyBytes key) (ringIv hdr) payload
  hdr ++ ct ++ (gcmTag (keyBytes key) (ringIv hdr) hdr ct).take 12

/-- The transfers of a message whose first has the SEQ `seq`. -/
def ringSealed (key : Key) (src dst seq : Nat) (m : RingMsg) : List Bytes :=
  (List.range (ringParts m)).map (fun k =>
    ringSeal key src dst (seq + k) (ringType m) (leBytes 40 (Config.ringPayload (ringType m) (ringFields m) k).toNat))

/-- Transfers that pass the seal check (R255): 64 bytes with a good tag, and SEQ above the last accepted from their source. -/
def ringOpens (key : Key) (rx : Sparse Nat) : List Bytes → Bool
  | [] => true
  | d :: t =>
    let src := (d.headD 0).toNat
    let seq := leNat ((d.drop 4).take 8)
    d.length == 64 && decide (Sparse.get 0 rx src < seq)
      && (gcmTag (keyBytes key) (ringIv (d.take 12)) (d.take 12) ((d.drop 12).take 40)).take 12 == d.drop 52
      && ringOpens key (Sparse.set 0 rx src seq) t

/-- The last SEQ accepted from each source, after transfers that pass. -/
def ringSeen (rx : Sparse Nat) (l : List Bytes) : Sparse Nat :=
  l.foldl (fun rx d => Sparse.set 0 rx (d.headD 0).toNat (leNat ((d.drop 4).take 8))) rx

/-- The instances in ring order: the order of the Layout Image (R54). -/
def ringOrder (b : Block) : List Nat :=
  match b.boot.layout with
  | some l => l.insts.map (·.num)
  | none => b.inst.map (·.1)

/-- The hops from one instance to another in a ring order. -/
def ringHops (o : List Nat) (src dst : Nat) : List (Nat × Nat) :=
  let way := (o.dropWhile (· != src) ++ o.takeWhile (· != src)).takeWhile (· != dst) ++ [dst]
  way.zip (way.drop 1)

/-- The way that a message takes (R54, R56): the shorter of the ways that no broken hop cuts (true: west), the eastward one of two
alike (log 109, DESIGN CHOICE); none where both are cut. -/
def ringWay (b : Block) (src dst : Nat) : Option Bool :=
  let east := ringHops (ringOrder b) src dst
  let west := ringHops (ringOrder b).reverse src dst
  let openE := east.all (fun h => !(getInst b h.1).eastBroken && !(getInst b h.2).westBroken)
  let openW := west.all (fun h => !(getInst b h.1).westBroken && !(getInst b h.2).eastBroken)
  if openE && (!openW || decide (east.length ≤ west.length)) then some false else if openW then some true else none

/-- What an instance drives on PR_E_TX or PR_W_TX (R54): the first transfer of the oldest message of its own that goes that way. -/
def ringTxData (b : Block) (i : Nat) (west : Bool) : Option Bytes :=
  (b.ring.find? (fun p => p.src == i && ringWay b p.src p.dst == some west)).bind (fun p => p.data.head?)

/-- The packet of a message under the source's SEQ and key. -/
def ringPkt (b : Block) (src dst : Nat) (bcast : Bool) (m : RingMsg) : RingPkt :=
  let s := getInst b src
  { src := src, dst := dst, bcast := bcast, seq := s.ringTx + 1, msg := m,
    data := ringSealed (s.ringKey.getD 0) src (if bcast then 0xFF else dst) (s.ringTx + 1) m }

/-- The source's SEQ after a message. -/
def ringCount (src : Nat) (m : RingMsg) (b : Block) : Block :=
  updInst src (fun s => { s with ringTx := s.ringTx + ringParts m }) b

/-- Send a message on the package ring (R54) from an instance to another. -/
def ringSend (src dst : Nat) (m : RingMsg) (b : Block) : Block :=
  ringCount src m { b with ring := b.ring ++ [ringPkt b src dst false m] }

/-- Broadcast a message (R255) to every listed instance that a test holds of. -/
def ringSendAll (src : Nat) (p : Nat → Inst → Bool) (m : RingMsg) (b : Block) : Block :=
  ringCount src m { b with ring := b.ring ++ (b.inst.filter (fun e => p e.1 e.2)).map (fun e => ringPkt b src e.1 true m) }

/-- Send a message from the acting primary. -/
def fromPrimary (dst : Nat) (m : RingMsg) (b : Block) : Block :=
  match primaryInst b with
  | some p => ringSend p dst m b
  | none => b

/-- Send a message to the acting primary. -/
def toPrimary (src : Nat) (m : RingMsg) (b : Block) : Block :=
  match primaryInst b with
  | some p => ringSend src p m b
  | none => b

/-- The first message for an instance that a test holds of, none of its source's to that instance being before it (R259: one route,
in order). -/
def ringFirst (i : Nat) (p : RingPkt → Bool) : List Nat → List RingPkt → Option (RingPkt × List RingPkt)
  | _, [] => none
  | seen, e :: t =>
    if e.dst == i && !seen.contains e.src && p e then some (e, t)
    else (ringFirst i p (if e.dst == i then e.src :: seen else seen) t).map (fun r => (r.1, e :: r.2))

/-- The next message of a kind for an instance, taken off the ring: one that a way is open for. -/
def ringTake (i : Nat) (p : RingMsg → Bool) (b : Block) : Option (RingPkt × Block) :=
  (ringFirst i (fun e => p e.msg && (ringWay b e.src i).isSome) [] b.ring).map (fun r => (r.1, { b with ring := r.2 }))

/-- Whether transfers pass an instance's seal check. -/
def ringGood (b : Block) (i : Nat) (data : List Bytes) : Bool :=
  match (getInst b i).ringKey with
  | some k => !data.isEmpty && ringOpens k (getInst b i).ringRx data
  | none => false

/-- BAY_SERR (R235): one more for a tag, with its status; a count saturates at 48 bits. -/
def addSerr (tag : Tag) (st : Status) (b : Block) : Block :=
  let more := fun (e : Nat × Status) => (if e.1 < 2 ^ 48 - 1 then e.1 + 1 else e.1, st)
  { b with bay := { b.bay with serr := Sparse.upd (0, .ok) b.bay.serr tag.toNat more } }

/-- A silent error at an instance (R235): told to the PP over the ring; at the acting primary itself it adds
to BAY_SERR at once. -/
def silentError (i : Nat) (tag : Tag) (st : Status) (b : Block) : Block :=
  match primaryInst b with
  | some p => if p = i then addSerr tag st b else ringSend i p (.silentError tag st) b
  | none => b

/-- An integrity failure seen in the datapath at an instance: INT[4], its alarm class, and for a failing
check value or residue the silent-error count. -/
def integrity (i : Nat) (tag : Tag) (a : Alarm) (b : Block) : Block :=
  let b := alarm a (raise i 4 b)
  match a with
  | .tag => b
  | _ => silentError i tag (alarmStatus a) b

/-- A ring message that fails its seal check: discarded, counted, an integrity alarm on INT[4] (R56, R69). -/
def sealFail (i : Nat) (b : Block) : Block := alarm .tag (raise i 4 (portError { inst := i } 16 b))

/-- A sealed message of a kind reaches an instance: it is discarded where its seal or SEQ check fails (R56), else the message that its
source sent is taken (R55: a hop alters none; log 109). A message whose transfers are not all there is not acted on. -/
def ringArrive (r : RingIn) (p : RingMsg → Bool) (f : RingMsg → Block → Block) (b : Block) : Block :=
  match ringTake r.inst p b with
  | none => b
  | some (e, b) =>
    let good := ringGood b r.inst r.data
    let b := updInst r.inst (fun s => { s with prRx := r.data, ringRx := if good then ringSeen s.ringRx r.data else s.ringRx }) b
    if good then (if r.data.length = ringParts e.msg then f e.msg b else b) else sealFail r.inst b

/-! Refusals on ZCP (R20 to R22). -/

/-- A window of Table 1.10. -/
inductive Window where
  | ident | mbox | mint | scu (p : Nat) | rgn | mcs (n : Nat) | lcs (n : Nat) | esb | ctx | wtu | bay | jnl
  | lcy | ao | thy | tel | tst | bst | hole
  deriving DecidableEq, Repr

/-- The window an offset falls in. -/
def windowOf (off : Nat) : Window :=
  if off < 0x10000 then .ident else if off < 0x20000 then .mbox else if off < 0x40000 then .mint
  else if off < 0x80000 then .scu ((off - 0x40000) / 0x1000) else if off < 0x100000 then .rgn
  else if off < 0x300000 then .mcs ((off - 0x100000) / 0x10000)
  else if off < 0x700000 then .lcs ((off - 0x300000) / 0x10000)
  else if off < 0x800000 then .esb else if off < 0x900000 then .ctx else if off < 0xA00000 then .wtu
  else if off < 0xA80000 then .bay else if off < 0xB00000 then .jnl
  else if off < 0xBC0000 then .lcy else if off < 0xC00000 then .ao
  else if off < 0xD00000 then .thy else if off < 0xE00000 then .tel else if off < 0xF00000 then .tst else .bst

/-- The primary-only windows of R22. -/
def windowPrimary : Window → Bool
  | .mbox | .mint | .scu _ | .rgn | .ctx | .wtu | .jnl | .lcy => true
  | _ => false

/-- Whether a window is present in an instance (Table 1.10): the window table in PP and SP, TLB control
elsewhere. -/
def windowPresent (b : Block) (i : Nat) : Window → Bool
  | .mcs n => (getMcs b n).present && (getMcs b n).inst == i
  | .lcs n => (getLcs b n).present && (getLcs b n).inst == i
  | .esb => 0 < (getInst b i).nLcs
  | .wtu => (getInst b i).role == .pp || (getInst b i).role == .sp || 0 < (getInst b i).nLcs
  | .hole => false
  | w => if windowPrimary w then (getInst b i).role == .pp || (getInst b i).role == .sp else true

/-- Whether a requester attribute may use a window (Table 1.10). OTP_SEL and BIND_SEL are written with D only, K and M reading the
window (log 113, DESIGN CHOICE: the table's "changes only through Sage commands" names no exception for the selectors). -/
def windowRight (w : Window) (wr : Bool) (a : Attr) (tag : Tag) : Bool :=
  match w, a with
  | .ident, _ => !wr
  | .mbox, .t => false | .mbox, _ => true
  | .mint, .k => true | .mint, .d => true | .mint, _ => false
  | .scu p, .t => tag.toNat == p | .scu _, .d => true | .scu _, _ => false
  | .rgn, .k => true | .rgn, _ => false
  | .mcs _, .k => true | .mcs _, .d => true | .mcs _, _ => false
  | .lcs _, .k => true | .lcs _, .d => true | .lcs _, _ => false
  | .esb, .k => true | .esb, _ => false
  | .ctx, .k => true | .ctx, .t => true | .ctx, _ => false
  | .wtu, .k => true | .wtu, _ => false
  | .bay, .k => true | .bay, .m => true | .bay, _ => false
  | .jnl, .k => true | .jnl, .t => !wr | .jnl, _ => false
  | .lcy, .k => !wr | .lcy, .m => !wr | .lcy, .d => true | .lcy, .t => false
  | .ao, .k => !wr | .ao, .m => !wr | .ao, .d => !wr | .ao, .t => false
  | .thy, .k => true | .thy, .m => !wr | .thy, _ => false
  | .tel, .d => false | .tel, _ => true
  | .tst, .d => true | .tst, _ => false
  | .bst, .t => false | .bst, _ => true
  | .hole, _ => false

/-- The life-cycle state closes the perturbation window outside TEST and debug authorisation (R395). -/
def windowClosed (b : Block) (w : Window) : Bool :=
  match w with
  | .tst => !(b.otp.lc == .test || b.boot.debug)
  | _ => false

/-- MN_, LT_ and ZCP T accesses of a tag whose tenant instance is not in RUN: NOT_OWNER (R302), OUT_OF_SERVICE while frozen
(R306). A tag for which no instance is allocated has none to be judged by (log 18). -/
def tagGate (b : Block) (tag : Tag) : Option Status :=
  match (getTInst b tag.toNat).state with
  | .run | .free => none
  | .frozen => some .outOfService
  | _ => some .notOwner

/-- The refusal of a ZCP access (R21, R22, R25), none where it is served. -/
def zcpRefusal (b : Block) (z : ZReq) (wr : Bool) (w : Window) : Option Status :=
  let i := getInst b z.inst
  let l := (if windowPresent b z.inst w then [] else [Status.badConfig])
    ++ (if windowRight w wr z.attr z.tag then [] else [Status.notOwner])
    ++ (if windowClosed b w then [Status.lifecycle] else [])
    ++ (if z.attr = .t then (tagGate b z.tag).toList else [])
    ++ (if windowPrimary w && (i.role == .pp || i.role == .sp) && !isPrimary b z.inst
        then [Status.outOfService] else [])
  if l.isEmpty then none else some (statusWorst l)

/-- The attribute as a number (Table 2.8). -/
def attrNum : Attr → Nat
  | .k => 0 | .t => 1 | .m => 2 | .d => 3

/-- The ZCP response of an access: data only where a read is served (R21, R51). -/
def zcpRsp (i : Nat) (st : Status) (b : Block) : Block := updInst i (fun s => { s with rsp := st, rspData := 0 }) b

/-- A refused access: counted by attribute, INT[14], and answered (R21, R69). -/
def zcpRefuse (z : ZReq) (st : Status) (b : Block) : Block :=
  zcpRsp z.inst st (portError { inst := z.inst } (0x20 + attrNum z.attr) b)

/-- A register access: ignored before release (R29), refused (R21), or served by `f`, which answers OK. -/
def zcpDo (z : ZReq) (wr : Bool) (w : Window) (f : Block → Block) (b : Block) : Block :=
  if (getInst b z.inst).released then
    match zcpRefusal b z wr w with
    | some st => zcpRefuse z st b
    | none => f (zcpRsp z.inst .ok b)
  else b

/-! The Command Journal (R360). -/

/-- Entries that a journal holds. -/
def jnlSize : Nat := 65536

/-- Take an entry for an accepted command: the oldest COMPLETE entry makes room. None: the journal stalls. -/
def jnlAccept (src : Nat) (tag : Tag) (num op : Nat) (ctx : Ctx) (token : BitVec 32) (head : Nat)
    (b : Block) : Option (Nat × Block) :=
  let j := b.jnl
  let e : Jent := { seq := j.seq + 1, src := src, done := false, status := .ok, tag := tag, num := num, op := op,
                    ctx := ctx, token := token, head := head, result := 0, start := b.time, fin := 0 }
  if j.ents.length < jnlSize then some (j.seq + 1, { b with jnl := { j with seq := j.seq + 1, ents := e :: j.ents } })
  else
    match takeFirst (fun x => x.done) j.ents.reverse with
    | some (_, r) => some (j.seq + 1, { b with jnl := { j with seq := j.seq + 1, ents := e :: r.reverse } })
    | none => none

/-- Mark an entry COMPLETE, before the command's status is written. -/
def jnlComplete (seq : Nat) (st : Status) (result : Word) (b : Block) : Block :=
  let done := fun (e : Jent) => { e with done := true, status := st, result := result, fin := b.time }
  { b with jnl := { b.jnl with ents := updateWhere (fun e => e.seq == seq && !e.done) done b.jnl.ents } }

/-- A command that its source accepts and ends in one step: journal entry written and completed. -/
def jnlWhole (src num op : Nat) (tag : Tag) (ctx : Ctx) (token : BitVec 32) (st : Status) (result : Word)
    (b : Block) : Block :=
  match jnlAccept src tag num op ctx token 0 b with
  | some (q, b) => jnlComplete q st result b
  | none => raisePrimary 15 b

/-- The package is Out-of-Service (R346): Bay's state, or the copy in an armed die's AO island (R400). -/
def packageOos (b : Block) : Bool := b.bay.state == 2 || b.inst.any (fun e => e.2.ao.armed && e.2.ao.oos)

/-! Debug substitution (R249). -/

/-- OK becomes DEBUG_SUBST under a substitute root. -/
def substOk (b : Block) (st : Status) : Status :=
  if st = .ok ∧ b.boot.debug then .debugSubst else st

end Sys2Proof.Machine
end

