-- ==== Sys2Proof/Machine/KeyOps.lean ====
section
/-! DEFINITION. Operations on key entries that other units use: validity (R253), the key a slice encrypts
with (R11, R257), budgets and grants (R79, R258), pins (R242), and the working keys of a region (R78). -/

namespace Sys2Proof.Machine

/-- BUDGET that is never decremented (R242). -/
def unlimited : Nat := 2 ^ 48 - 1

/-- R253: an entry may be used. -/
def keyUsable (e : KEntry) : Bool := e.state == .active && e.cv

/-! Working keys (Table 3.3). -/

def kEnc (k : Key) : Bytes := kdf (keyBytes k) "region" [1]
def kMac (k : Key) : Bytes := kdf (keyBytes k) "region" [2]
def kTwk (k : Key) : Bytes := kdf (keyBytes k) "region" [3]
def kTree (k : Key) : Bytes := kdf (keyBytes k) "region" [4]

/-- The four working keys of an entry's material (R78). -/
def workKeys (k : Key) : WorkKeys := { enc := kEnc k, mac := kMac k, twk := kTwk k, tree := kTree k }

/-- What a slice of instance `i` finds for a key index: the key, no key and why (R253, R275), or nothing yet. -/
inductive KeyAns where
  | key (k : WorkKeys)
  | gone (st : Status)
  | wait
  deriving DecidableEq, Repr

/-- R11, R256: the acting primary's slices read the working keys beside each KREG entry; every other instance reads its key cache. After a zeroization
every use ends with TAMPER (R275). -/
def keyAt (b : Block) (i k : Nat) : KeyAns :=
  if isPrimary b i then
    if b.keys.mint.zeroed then .gone .tamper
    else if keyUsable (getKey b k) then .key (workKeys (getKey b k).key) else .gone .keyOrphaned
  else
    match (getInst b i).kc.find? (fun e => e.index == k) with
    | some e => .key e.work
    | none => if b.keys.mint.zeroed then .gone .tamper else .wait

/-- A message that answers a FILL_REQ for a key. -/
def answersFill (k : Nat) : RingMsg → Bool
  | .push e => e.index == k
  | .fillNeg j => j == k
  | _ => false

/-- Ask the primary for an entry that the cache lacks (R257), once. -/
def askFill (i k : Nat) (b : Block) : Block :=
  match primaryInst b with
  | some p =>
    if b.ring.any (fun e => (e.dst == p && e.msg == .fillReq i k) || (e.dst == i && answersFill k e.msg)) then b
    else ringSend i p (.fillReq i k) (count { inst := i } (evKey 1) b)
  | none => b

/-- An instance uses a cached entry (R256: least recently used goes first). -/
def touchKey (i k : Nat) (b : Block) : Block :=
  if isPrimary b i then b
  else updInst i (fun s => { s with kc := updateWhere (fun e => e.index == k) (fun e => { e with used := s.kcStamp }) s.kc,
                                    kcStamp := s.kcStamp + 1 }) b

/-- What charging a key's budget answers. -/
inductive Charge where
  | ok (b : Block)
  | wait (b : Block)
  | exhausted (b : Block)
  deriving Repr

/-- Charge the grant that an instance holds; below 2^18 blocks it asks for more (R258). A write that is short though the PP had
nothing more to grant, every other grant recalled, ends; the next one asks again. -/
def chargeGrant (i k need : Nat) (b : Block) : Charge :=
  let ask := toPrimary i (.grantReq i k)
  match (getInst b i).kc.find? (fun e => e.index == k) with
  | none => .wait (askFill i k b)
  | some e =>
    let upd := fun (g : Nat) (a : Bool) =>
      updInst i (fun s => { s with kc := updateWhere (fun x => x.index == k) (fun x => { x with grant := g, asked := a }) s.kc })
    if e.grant = unlimited then .ok b
    else if need ≤ e.grant then
      if e.grant - need < 2 ^ 18 ∧ e.asked = false ∧ e.dry = false then .ok (ask (upd (e.grant - need) true b))
      else .ok (upd (e.grant - need) e.asked b)
    else if e.dry then .exhausted (updInst i (fun s => { s with kc := updateWhere (fun x => x.index == k) (fun x => { x with dry := false }) s.kc }) b)
    else if e.asked then .wait b
    else .wait (ask (upd e.grant true b))

/-- Send RECALL to every other holder of a grant (R258). -/
def startRecall (dst k : Nat) (b : Block) : Block :=
  let holders := (b.inst.filter (fun e => e.2.kc.any (fun x => x.index == k && x.grant != 0 && x.grant != unlimited))).map (·.1)
  holders.foldl (fun b h => fromPrimary h (.recall k) b)
    { b with keys := { b.keys with recalls := b.keys.recalls ++ [{ index := k, dst := dst, waits := holders }] } }

/-- Charge `need` blocks to a key for a slice of instance `i` (R79, R258). -/
def charge (i k need : Nat) (b : Block) : Charge :=
  if need = 0 then .ok b
  else if isPrimary b i then
    let e := getKey b k
    if e.budget = unlimited then .ok b
    else if need ≤ e.budget then .ok (updKey k (fun e => { e with budget := e.budget - need }) b)
    else if b.keys.recalls.any (fun r => r.index == k) then .wait b
    else if b.inst.any (fun s => s.2.kc.any (fun x => x.index == k && x.grant != 0 && x.grant != unlimited))
      then .wait (startRecall i k b)
    else .exhausted b
  else chargeGrant i k need b

/-- One more reference to an entry (R242). -/
def pin (k : Nat) (b : Block) : Block := updKey k (fun e => { e with pins := e.pins + 1 }) b

/-- One reference less. -/
def unpin (k : Nat) (b : Block) : Block := updKey k (fun e => { e with pins := e.pins - 1 }) b

/-- Ancestors of an entry, nearest first; index 0 names itself (R242). -/
def ancestors (t : Sparse KEntry) : Nat → Nat → List Nat
  | 0, _ => []
  | n + 1, k =>
    let p := (Sparse.get {} t k).parent
    if p = k then [] else p :: ancestors t n p

/-- CV recomputed for every entry: the entry and each ancestor ACTIVE with matching generations (R252, R253).
A chain has at most six entries. -/
def chainValid (t : Sparse KEntry) : Nat → Nat → Bool
  | 0, _ => false
  | n + 1, k =>
    let e := Sparse.get {} t k
    let p := Sparse.get {} t e.parent
    e.state == .active && (e.parent == k || (p.gen == e.pgen && chainValid t n e.parent))

/-- R252 step 2: CV of every entry from the chain above it. -/
def recomputeCv (b : Block) : Block :=
  let t := b.keys.kreg
  { b with keys := { b.keys with kreg := Sparse.mapAll {} t (fun k e => { e with cv := e.cv && chainValid t 6 k }) } }

/-- A pushed copy of an entry with its grant (R256, R258). -/
def kcCopy (b : Block) (k grant : Nat) : KcEntry :=
  let e := getKey b k
  { index := k, gen := e.gen, type := e.type, usage := e.usage, owner := e.owner,
    ancestors := ancestors b.keys.kreg 5 k, grant := grant, work := workKeys e.key, used := 0 }

/-- The grant of a PUSH or a GRANT: min(BUDGET, 2^20) blocks, taken from BUDGET (R258). -/
def takeGrant (k : Nat) (b : Block) : Nat × Block :=
  let e := getKey b k
  if e.budget = unlimited then (unlimited, b)
  else (min e.budget (2 ^ 20), updKey k (fun e => { e with budget := e.budget - min e.budget (2 ^ 20) }) b)

/-- Push an entry to an instance (R256); never one whose CV is 0. -/
def pushKey (dst k : Nat) (b : Block) : Block :=
  if keyUsable (getKey b k) then
    let (g, b) := takeGrant k b
    fromPrimary dst (.push (kcCopy b k g)) b
  else b

/-! Entries (R243, R254). -/

/-- The lowest FREE index from 16 upward. -/
def freeKey (b : Block) : Option Nat := lowestFrom (fun k => (getKey b k).state == .free) 8176 16

/-- Entries with PERSIST = 1. -/
def persistCount (b : Block) : Nat := (b.keys.kreg.filter (fun e => e.2.persist && e.2.state != .free)).length

/-- The Sealed Store owes an update (R272). -/
def storeDirty (b : Block) : Block := updStore (fun s => { s with dirty := true }) b

/-- Write a FREE entry (R243): ACTIVE, GEN kept, PGEN the parent's GEN, the parent's CHILDREN one more. -/
def writeKey (i : Nat) (e : KEntry) (b : Block) : Block :=
  let b := updKey i (fun old => { e with state := .active, cv := true, gen := old.gen, children := 0, pins := 0, rwUsed := false,
                                         pgen := if e.parent = i then old.gen else (getKey b e.parent).gen }) b
  let b := if e.parent = i then b else updKey e.parent (fun p => { p with children := p.children + 1 }) b
  if e.persist then storeDirty b else b

/-- An entry becomes FREE: its parent's CHILDREN one less, its GEN kept (R254). -/
def eraseKey (i : Nat) (b : Block) : Block :=
  let e := getKey b i
  let b := updKey i (fun e => { gen := e.gen }) b
  let b := if e.parent = i then b else updKey e.parent (fun p => { p with children := p.children - 1 }) b
  if e.persist then storeDirty b else b

/-- KREG_VIEW0, KREG_VIEW1 and KREG_VIEW2 of an entry (R242). -/
def kStateNum : KState → Nat
  | .free => 0 | .active => 1 | .invalid => 2

def kregView0 (e : KEntry) : Word :=
  joinFields [putBit 0 (e.state != .free), putNat 1 (kStateNum e.state), putBit 3 e.cv, putNat 4 (e.type % 16), putNat 8 (e.depth % 8),
    putBit 11 e.sys, putBit 12 e.persist, putNat 16 e.usage.toNat, putNat 24 e.owner.toNat, putNat 40 e.gen.toNat]

def kregView1 (e : KEntry) : Word :=
  joinFields [putNat 0 (e.parent % 8192), putNat 16 e.pgen.toNat, putNat 32 (e.children % 8192), putNat 48 (min e.pins 65535)]

def kregView2 (e : KEntry) : Word := putNat 0 (e.budget % 2 ^ 48)

/-! Rue (R252). -/

/-- R252: STATE INVALID, GEN + 1, CV of the entry and its descendants cleared, INVAL to every other instance.
Nothing where the entry is not ACTIVE. -/
def invalidateKey (k : Nat) (b : Block) : Block :=
  if (getKey b k).state = .active then
    let b := updKey k (fun e => { e with state := .invalid, cv := false, gen := e.gen + 1 }) b
    let b := recomputeCv b
    let b := if (getKey b k).persist then updStore (fun s => { s with dirty := true }) b else b
    match primaryInst b with
    | some p => ringSendAll p (fun i s => s.released && i != p) (.inval k (getKey b k).gen) b
    | none => b
  else b

end Sys2Proof.Machine
end

