-- ==== Sys2Proof/Machine/MemFmt.lean ====
section
/-! DEFINITION. Where a line lives (R105, R106, R87, R96, R97) and the bytes the block stores for it (R80 to
R86, R88, R94). -/

namespace Sys2Proof.Machine

/-- Lines of 2 MiB. -/
def unitLines : Nat := 16384

/-- Pages (8 KiB) of 2 MiB. -/
def unitPages : Nat := 256

/-! The package map (R105): bases and sizes in 8 KiB pages. -/

/-- The entry that holds a host page. -/
def mapEntryOf (b : Block) (hp : Nat) : Option MapEntry :=
  b.rgn.map.find? (fun m => decide (m.base ≤ hp ∧ hp < m.base + m.pages))

/-- R105: MCS and group page of a host page. -/
def mapPage (b : Block) (hp : Nat) : Option (Nat × Nat) :=
  match mapEntryOf b hp with
  | some m => if m.w = 0 then none else some (m.f + (hp - m.base) % m.w, m.b + (hp - m.base) / m.w)
  | none => none

/-- R105: MCS and group line index of a host line. -/
def mapLine (b : Block) (l : Nat) : Option (Nat × Nat) :=
  match mapPage b (l / 64) with
  | some (n, gp) => some (n, 64 * gp + l % 64)
  | none => none

/-- Channel group of an MCS (R39, R106); one channel with sideband where the Layout Image names none. -/
def groupOf (b : Block) (n : Nat) : Group :=
  match b.rgn.groups.find? (fun g => g.mcs == n) with
  | some g => g
  | none => { mcs := n, channels := 1, sideband := true, carve := 0, carveLen := 0 }

/-- R106: channel and line address on the channel of a group line. -/
def chanOf (b : Block) (n g : Nat) : Nat × Nat :=
  let c := (groupOf b n).channels
  let lg := if c = 4 then 2 else if c = 2 then 1 else 0
  let q := g >>> lg
  let p := g &&& (c - 1)
  let h := (((q ^^^ b.rgn.saltX.toNat) * b.rgn.saltM.toNat) % 2 ^ 64) >>> 62
  ((p ^^^ h) &&& (c - 1), q)

/-- Pages `j < n` of an interleave of width `w` that fall on residue `k`. -/
def residueCount (w k n : Nat) : Nat := (n + w - 1 - k) / w

/-- Pages of one map entry in the host page range [lo, hi) that lie on MCS `n`. -/
def entryPagesOn (m : MapEntry) (n lo hi : Nat) : Nat :=
  if m.f ≤ n ∧ n < m.f + m.w then
    let a := max lo m.base
    let z := min hi (m.base + m.pages)
    if a < z then residueCount m.w (n - m.f) (z - m.base) - residueCount m.w (n - m.f) (a - m.base) else 0
  else 0

/-- Pages of a host page range that lie on MCS `n`. -/
def pagesOn (b : Block) (n lo hi : Nat) : Nat :=
  (b.rgn.map.map (fun m => entryPagesOn m n lo hi)).foldl (· + ·) 0

/-- P_n of a region (R87). -/
def shareSize (b : Block) (r : Rgn) (n : Nat) : Nat :=
  pagesOn b n (r.base * unitPages) ((r.base + r.size) * unitPages)

/-- Share page index s of a host page (R87). -/
def shareIndex (b : Block) (r : Rgn) (n hp : Nat) : Nat := pagesOn b n (r.base * unitPages) hp

/-- Host page of share page `s`: the least page with `s + 1` pages of the share up to it. -/
def sharePage (b : Block) (r : Rgn) (n s : Nat) : Nat :=
  let lo := r.base * unitPages
  let hi := (r.base + r.size) * unitPages
  let rec go : Nat → Nat → Nat → Nat
    | 0, a, _ => a
    | f + 1, a, z =>
      if a + 1 ≥ z then a
      else if pagesOn b n lo ((a + z) / 2) ≤ s then go f ((a + z) / 2) z else go f a ((a + z) / 2)
  go 40 lo hi

/-- MCSs that hold a share of a region, ascending. -/
def shares (b : Block) (r : Rgn) : List Nat := (List.range 32).filter (fun n => 0 < shareSize b r n)

/-- N_k of a share of `p` pages (R93). -/
def levelSize (p k : Nat) : Nat := (p + 16 ^ k - 1) / 16 ^ k

/-- Lines of the levels below `k` (R96). -/
def levelsBelow (p : Nat) : Nat → Nat
  | 0 => 0
  | k + 1 => levelsBelow p k + levelSize p k

/-- M_n: metadata lines of a share with roof level `r` (R96). -/
def metaLines (p r : Nat) : Nat := levelsBelow p r

/-- Group line of a metadata item below the roof (R96). -/
def itemLine (b : Block) (r : Rgn) (i : Item) : Nat :=
  (groupOf b i.share).carve + r.metaOff + levelsBelow (shareSize b r i.share) i.level + i.index

/-- Tree Roof node of a region's level-r node (R97). -/
def roofNode (b : Block) (r : Rgn) (share index : Nat) : Nat :=
  r.roofBase + ((List.range share).map (fun m => levelSize (shareSize b r m) r.roofLevel)).foldl (· + ·)  0 + index

/-- Roof nodes a region needs at a level (R97). -/
def roofNeed (b : Block) (r : Rgn) (level : Nat) : Nat :=
  ((List.range 32).map (fun m => levelSize (shareSize b r m) level)).foldl (· + ·) 0

/-- Slot `c` of a node (R93). -/
def slotOf (node : Line) (c : Nat) : Word := wordOf node.toNat c

/-! Counter blocks (Table 3.7). -/

def majorOf (cb : Line) : Nat := fieldNat cb 55 0
def minorOf (cb : Line) (k : Nat) : Nat := fieldNat cb (56 + 14 * k + 13) (56 + 14 * k)
/-- The counter block of a major and sixty-four minors. -/
def counterBlock (major : Nat) (minors : List Nat) : Line :=
  BitVec.ofNat 1024 (major % 2 ^ 56 + (minors.foldr (fun m a => m % 2 ^ 14 + (a <<< 14)) 0 <<< 56))
def minorsOf (cb : Line) : List Nat := (List.range 64).map (minorOf cb)
def setMinor (cb : Line) (k v : Nat) : Line := counterBlock (majorOf cb) ((minorsOf cb).set k v)

/-! Counter-mode input, mask, MAC (R80 to R82). -/

/-- What a counter-mode line is bound to (Table 3.4). -/
structure Tuple where
  tri     : Nat
  line    : Nat
  counter : Nat
  minor   : Nat
  deriving DecidableEq, Repr

/-- T(j), with the reserved bits as given (R80, R81), as AES input bytes. -/
def tupleBytes (t : Tuple) (j reserved : Nat) : Bytes :=
  leBytes 16 (t.tri + (t.line <<< 12) + (t.counter <<< 48) + (t.minor <<< 104) + (j <<< 118) + (reserved <<< 121))

/-- The eight pads. -/
def padBytes (kenc : Bytes) (t : Tuple) : Bytes :=
  let rks := aesRoundKeys kenc
  (List.range 8).flatMap (fun j => aesEncWith rks (tupleBytes t j 0))

/-- Counter-mode encryption and decryption of a line. -/
def ctrLine (kenc : Bytes) (t : Tuple) (l : Line) : Line := lineOf (xorBytes (lineBytes l) (padBytes kenc t))

/-- The Sorrel mask m (R81). -/
def sorrelMask (kenc : Bytes) (t : Tuple) : BitVec 32 :=
  BitVec.ofNat 32 (leNat ((aesEnc kenc (tupleBytes t 0 1)).take 4))

/-- The line MAC (R82): first 8 bytes of the GCM tag over the ciphertext, IV T(0). -/
def lineMac (kmac : Bytes) (t : Tuple) (ct : Line) : Word :=
  BitVec.ofNat 64 (leNat ((gcmTag kmac (tupleBytes t 0 0) (lineBytes ct) []).take 8))

/-- Tree MAC of an item (R94). -/
def treeMac (ktree : Bytes) (tri n level index : Nat) (x : Line) : Word :=
  let q := leBytes 16 (tri + (n <<< 12) + (level <<< 17) + (index <<< 20))
  let h := aesEnc ktree (List.replicate 16 0)
  let v := leNat ((aesEnc ktree (xorBytes (ghash h (lineBytes x)) q)).take 8)
  if v = 0 then 1 else BitVec.ofNat 64 v

/-! Sideband (Table 3.5). -/

def modeNum : Mode → Nat
  | .plain => 0 | .xts => 1 | .ro => 2 | .rw => 3

/-- The sideband's fields joined. -/
def sideband (mac : Word) (sorrel : BitVec 32) (kgen : Nat) (poison origin : Bool) (mode : Mode) (inexact : Bool) :
    Sideband :=
  BitVec.ofNat 128 (mac.toNat + (sorrel.toNat <<< 64) + ((kgen % 256) <<< 96) + (poison.toNat <<< 104)
    + (origin.toNat <<< 105) + (modeNum mode <<< 106) + (inexact.toNat <<< 108))

def sbMac (s : Sideband) : Word := BitVec.ofNat 64 (fieldNat s 63 0)
def sbSorrel (s : Sideband) : BitVec 32 := BitVec.ofNat 32 (fieldNat s 95 64)
def sbGen (s : Sideband) : Nat := fieldNat s 103 96
def sbPoison (s : Sideband) : Bool := fieldBit s 104
def sbOrigin (s : Sideband) : Bool := fieldBit s 105
def sbMode (s : Sideband) : Nat := fieldNat s 107 106
def sbInexact (s : Sideband) : Bool := fieldBit s 108

/-- The tuple of a line under a region (Table 3.4). -/
def tupleOf (r : Rgn) (line : Nat) (c : Counters) : Tuple :=
  match r.mode with
  | .ro => { tri := r.tri, line := line, counter := r.version, minor := 0 }
  | .rw => { tri := r.tri, line := line, counter := c.major, minor := c.minor }
  | _ => { tri := r.tri, line := line, counter := 0, minor := 0 }

/-- A line and its sideband as the MCS stores them (R84, R85). `l` is the plaintext, all zero where poisoned;
`host` the host line address. -/
def sealLine (r : Rgn) (key : WorkKeys) (kgen line host : Nat) (c : Counters) (l : Line) (sorrel : BitVec 32)
    (origin poison inexact : Bool) : Line × Sideband :=
  let t := tupleOf r line c
  let stored := if r.spol = 2 then 0 else sorrel
  match r.mode with
  | .plain => (l, sideband 0 stored 0 poison origin .plain inexact)
  | .xts =>
    let m := if r.spol = 2 then 0 else sorrelMask key.enc t
    (lineOf (xtsEnc key.enc key.twk host (lineBytes l)), sideband 0 (stored ^^^ m) kgen poison origin .xts inexact)
  | .ro | .rw =>
    let ct := ctrLine key.enc t l
    let mac := lineMac key.mac t ct
    (ct, sideband (if poison then ~~~ mac else mac) (sorrel ^^^ sorrelMask key.enc t) kgen poison
      (origin && r.mode == .rw) r.mode (inexact && r.mode == .rw))

/-- What the read checks of Table 3.6 find in a returned line: statuses known before delivery, statuses that a
deferred verification finds, and the plaintext with its check value. -/
structure LineCheck where
  early   : List Status
  late    : List Status
  data    : Line
  sorrel  : BitVec 32
  origin  : Bool
  inexact : Bool
  deriving DecidableEq, Repr

/-- Table 3.6 in its order (R86). `key` is the key that applies; `sb` is none on a group without sideband. -/
def checkLine (r : Rgn) (key : WorkKeys) (gens : List Nat) (line host : Nat) (c : Counters) (ct : Line)
    (sb : Option Sideband) (msPoison : Bool) : LineCheck :=
  if msPoison then { early := [.poison], late := [], data := 0, sorrel := 0, origin := false, inexact := false }
  else
    match sb with
    | none =>
      let l := if r.mode = .xts then lineOf (xtsDec key.enc key.twk host (lineBytes ct)) else ct
      { early := [], late := [], data := l, sorrel := sorrelOf l, origin := false, inexact := false }
    | some s =>
      let auth := r.mode == .ro || r.mode == .rw
      let t := tupleOf r line c
      let l := match r.mode with
        | .plain => ct
        | .xts => lineOf (xtsDec key.enc key.twk host (lineBytes ct))
        | _ => ctrLine key.enc t ct
      let m := if r.mode = .plain then 0 else sorrelMask key.enc t
      let echoBad := sbMode s != modeNum r.mode || (r.mode != .plain && !gens.contains (sbGen s))
      let macWord := if auth then lineMac key.mac t ct else 0
      let macBad := auth && (sbMac s != (if sbPoison s then ~~~ macWord else macWord))
      let sorBad := r.spol != 2 && !sbPoison s && ((sbSorrel s ^^^ m) != sorrelOf l)
      let echo := if echoBad then [if auth then Status.tagFail else Status.sorrelFail] else []
      let early := (if auth then [] else echo)
        ++ (if sbPoison s then [if macBad || (echoBad && auth) then Status.tagFail else Status.poison] else [])
        ++ (if sorBad then [Status.sorrelFail] else [])
      { early := early, late := (if auth then echo else []) ++ (if macBad && !sbPoison s then [Status.tagFail] else []),
        data := l, sorrel := if r.spol = 2 then sorrelOf l else sbSorrel s ^^^ m,
        origin := r.spol != 2 && sbOrigin s, inexact := sbInexact s && r.mode != .ro }

end Sys2Proof.Machine
end

