-- ==== Sys2Proof/Machine/MemOps.lean ====
section
/-! DEFINITION. The engine of an M-port (04): region match, hazard table, metadata caches, fetches and
write-backs, the progress of reads and writes, a slice's end. -/

namespace Sys2Proof.Machine

/-! Pairs (R10, R121). -/

/-- The other member of a pair (R10). -/
def partner (n : Nat) : Nat := if n % 2 = 0 then n + 1 else n - 1

/-- The slice whose datapath, caches and tables serve a port: its partner where that carries it (R121). -/
def engOf (b : Block) (n : Nat) : Nat := if (getMcs b n).state = .carried then partner n else n

/-- The port that holds the caches that serve a port. -/
def engPort (b : Block) (n : Nat) : MPort := getPort b (engOf b n)

/-- Change the port that holds the caches that serve a port. -/
def updEng (n : Nat) (f : MPort → MPort) (b : Block) : Block := updPort (engOf b n) f b

/-- The slice that serves a port. -/
def engMcs (b : Block) (n : Nat) : Mcs := getMcs b (engOf b n)

/-- The ports that the slice of a port serves. -/
def engPorts (b : Block) (n : Nat) : List Nat := [engOf b n, partner (engOf b n)].filter (fun k => engOf b k == engOf b n)

/-! Whom an access is attributed to. -/

/-- R386: tag, Layer ID and Operator ID of an MN_ request at the slice that serves it. -/
def whoMn (b : Block) (n : Nat) (rq : MnReq) : Who :=
  let i := (getMcs b n).inst
  { inst := i, unit := n - (getInst b i).mcsBase, tag := some rq.tag, layer := rq.layer, opid := rq.opid }

/-- An event of a slice that has no access of its own (Table 14.2). -/
def whoMcs (b : Block) (n : Nat) (tag : Tag) : Who :=
  let i := (getMcs b n).inst
  { inst := i, unit := n - (getInst b i).mcsBase, tag := some tag, layer := 0xFFFB }

/-- Add to a coverage counter of the slice that serves a port, saturating (R234). -/
def covMcs (n k : Nat) (b : Block) : Block :=
  updMcs (engOf b n) (fun m => { m with cov := listMod m.cov k (fun c => if c < 2 ^ 48 - 1 then c + 1 else c) }) b

/-- Whether a forced failure of a kind is due at a unit, and the block with its COUNT lowered (R395). -/
def forced (isLcs : Bool) (n kind : Nat) (b : Block) : Bool × Block :=
  let i := if isLcs then (getLcs b n).inst else (getMcs b n).inst
  let t := (getUnits b i).tst
  if t.kind = kind ∧ t.unit = n ∧ t.lcs = isLcs ∧ 0 < t.count then
    (true, count { inst := i } evForced (updUnits i (fun u => { u with tst :=
      { u.tst with count := t.count - 1, kind := if t.count = 1 then 0 else t.kind } }) b))
  else (false, b)

/-! Access rights (R72, R302, R306). -/

/-- The region that holds a host line; RETIRING takes no new access (R77). -/
def findRgn (b : Block) (l : Nat) : Option (Nat × Rgn) :=
  b.rgn.table.find? (fun e => e.2.state != .free && e.2.state != .retiring
    && decide (e.2.base * unitLines ≤ l ∧ l < (e.2.base + e.2.size) * unitLines))

/-- What a request on MN_ finds: every error status that applies with whether one is a row of Table 2.10, or its region. -/
inductive Judged where
  | bad (l : List Status) (port : Bool)
  | ok (k : Nat) (r : Rgn)
  deriving DecidableEq, Repr

/-- R69, R72, R85, R101, R102, R105: a request judged at acceptance. -/
def judge (b : Block) (n : Nat) (rq : MnReq) (wr : Option MnWr) : Judged :=
  let gate := (tagGate b rq.tag).toList
  let home := match mapLine b rq.addr.toNat with
    | some (m, _) => m == n
    | none => false
  match findRgn b rq.addr.toNat with
  | none => .bad (.badConfig :: gate) true
  | some (k, r) =>
    let own := if r.tag = rq.tag ∧ r.owner = rq.ctx then [] else [Status.notOwner]
    let st := match r.state, wr with
      | .loading, none => [Status.badConfig]
      | .checking, none => [Status.badConfig]
      | .checking, some _ => [Status.notOwner]
      | .failed, _ => [statusOf r.fail]
      | .active, some _ => if r.mode = .ro then [Status.notOwner] else []
      | _, _ => []
    let spol := match wr with
      | some w => if r.spol = 1 ∧ w.svalid = false ∧ r.mode ≠ .ro then [Status.badConfig] else []
      | none => []
    let l := (if home then [] else [Status.badConfig]) ++ gate ++ own ++ st ++ spol
    if l.isEmpty then .ok k r else .bad l (!home || !gate.isEmpty || !own.isEmpty)

/-! Verify-before-use (R109, R110). -/

/-- A valid export window of the package exposes a region to remote initiators. -/
def exposed (b : Block) (r : Rgn) : Bool :=
  b.fab.table.any (fun e => e.2.valid && e.2.exp && decide (e.2.base < r.base + r.size ∧ r.base < e.2.base + e.2.size))

/-- Whether a read is held until every check has passed. The block's own reads (Table 14.2) always are. -/
def needsVbu (b : Block) (n : Nat) (rq : MnReq) (r : Rgn) : Bool :=
  r.vbu || (engMcs b n).vbuAll || ((r.mode == .ro || r.mode == .rw) && exposed b r)
    || decide (0xFFFB ≤ rq.layer.toNat)

/-! Metadata items: caches (R111, R112), readable write-backs (R115). An item's share names its port. -/

/-- The cached entry of an item, in the counter cache or the tree-node cache. -/
def cachedItem (b : Block) (i : Item) : Option CacheItem :=
  (if i.level = 0 then (engPort b i.share).cache else (engPort b i.share).nodes).find? (fun c => c.item == i)

/-- An item readable on die: cached, or being written back. -/
def itemData (b : Block) (i : Item) : Option Line :=
  match cachedItem b i with
  | some c => some c.data
  | none => ((getPort b i.share).back.find? (fun x => x.item == i)).map (·.data)

/-- The item above an item. -/
def parentItem (i : Item) : Item := { i with level := i.level + 1, index := i.index / 16 }

/-- Change a cached item; it becomes the one used last (R111). -/
def mapCached (i : Item) (f : CacheItem → CacheItem) (b : Block) : Block :=
  updEng i.share (fun p =>
    let g := fun (c : CacheItem) => { f c with used := p.stamp }
    if i.level = 0 then { p with cache := updateWhere (fun c => c.item == i) g p.cache, stamp := p.stamp + 1 }
    else { p with nodes := updateWhere (fun c => c.item == i) g p.nodes, stamp := p.stamp + 1 }) b

/-- An item is used where it is cached (R111: least recently used goes first). -/
def touchItem (i : Item) (b : Block) : Block := mapCached i id b

/-- Take an item out of its cache. -/
def dropCached (i : Item) (b : Block) : Block :=
  updEng i.share (fun p => { p with cache := p.cache.filter (fun c => c.item != i), nodes := p.nodes.filter (fun c => c.item != i) }) b

/-- Put an evicted modified item among the write-backs of its group. -/
def evictItem (c : CacheItem) (b : Block) : Block :=
  let b := dropCached c.item b
  if c.dirty then
    updPort c.item.share (fun p => { p with back := p.back ++ [{ item := c.item, tag := c.tag, data := c.data, phase := .parent }] }) b
  else b

/-- The set of an item (Table 4.1). -/
def setOf (i : Item) : Nat := Config.cacheSet i % (if i.level = 0 then 512 else 256)

/-- The entry with the least stamp. -/
def oldest : List CacheItem → Option CacheItem
  | [] => none
  | c :: t =>
    match oldest t with
    | some d => if d.used < c.used then some d else some c
    | none => some c

/-- Ways a fill for a tag may take (R112). -/
def waysFor (m : Mcs) (tag : Tag) : List Nat :=
  (m.ways.zipIdx.filter (fun e => !e.1.2 || e.1.1 == tag)).map (·.2)

/-- R111, R112: enter a checked item: a free way that the tag may take, else the least recently used of those
ways, else way 16: the item serves only the accesses that wait for it. -/
def fillItem (i : Item) (tag : Tag) (data : Line) (dirty : Bool) (b : Block) : Block :=
  let p := engPort b i.share
  let all := if i.level = 0 then p.cache else p.nodes
  let inSet := all.filter (fun c => c.way < 16 && setOf c.item == setOf i)
  let ways := waysFor (engMcs b i.share) tag
  let put := fun (w : Nat) (b : Block) => updEng i.share (fun p =>
    let c : CacheItem := { item := i, tag := tag, way := w, data := data, dirty := dirty, used := p.stamp }
    let p := { p with stamp := p.stamp + 1 }
    if i.level = 0 then { p with cache := p.cache ++ [c] } else { p with nodes := p.nodes ++ [c] }) b
  match ways.find? (fun w => !inSet.any (fun c => c.way == w)) with
  | some w => put w b
  | none =>
    match oldest (inSet.filter (fun c => ways.contains c.way)) with
    | some c => put c.way (evictItem c b)
    | none => put 16 b

/-! Walk credits (R116). -/

/-- The metadata fetches of a slice, over the ports that it serves. -/
def fetchesOf (b : Block) (n : Nat) : List Fetch := (engPorts b n).flatMap (fun k => (getPort b k).fetch)

/-- Fetch slots a class holds. -/
def slotsOf (l : List Fetch) (c : Nat) : Nat := (l.filter (fun f => f.cls == c && f.phase != .waiting)).length

/-- The requests in a class's wait queue: those with a fetch that waits for a slot. -/
def walkQueue (l : List Fetch) (c : Nat) : List FetchBy :=
  ((l.filter (fun f => f.cls == c && f.phase == .waiting)).map (·.asker)).eraseDups

/-- Whether a class may take one more slot: below MAX, and either below MIN or a shared slot free. -/
def slotFree (m : Mcs) (l : List Fetch) (c : Nat) : Bool :=
  let minOf := fun k => (m.walk.getD k (4, 64)).1
  let shared := 64 - ((List.range 8).map minOf).foldl (· + ·) 0
  let used := ((List.range 8).map (fun k => slotsOf l k - minOf k)).foldl (· + ·) 0
  decide (slotsOf l c < (m.walk.getD c (4, 64)).2) && (decide (slotsOf l c < minOf c) || decide (used < shared))

/-- Start one metadata fetch unless it is under way. -/
def addFetch (r : Rgn) (asker : FetchBy) (b : Block) (i : Item) : Block :=
  if (getPort b i.share).fetch.any (fun f => f.item == i) then b
  else
    let free := slotFree (engMcs b i.share) (fetchesOf b i.share) r.wclass
    let f : Fetch := { item := i, cls := r.wclass, tag := r.tag, asker := asker, dual := (engMcs b i.share).dual,
                       phase := if free then .slot else .waiting }
    updPort i.share (fun p => { p with fetch := p.fetch ++ [f] }) b

/-- The items of the path from `i` up to the roof, the roof's node not among them. `f` bounds the levels. -/
def pathItems (r : Rgn) : Nat → Item → List Item
  | 0, _ => []
  | f + 1, i => if r.roofLevel ≤ i.level then [] else i :: pathItems r f (parentItem i)

/-- The items of the path that are not readable on die. -/
def pathMissing (b : Block) (r : Rgn) (i : Item) : List Item := (pathItems r 8 i).filter (fun x => (itemData b x).isNone)

/-- The slot above the topmost item lies in the roof: the PP is asked for its node, once (R113). -/
def askRoof (r : Rgn) (b : Block) (i : Item) : Block :=
  let up := parentItem i
  let node := roofNode b r i.share up.index
  if i.level + 1 = r.roofLevel ∧ (itemData b up).isNone ∧ (getPort b i.share).roofAsk.contains node = false then
    updPort i.share (fun p => { p with roofAsk := p.roofAsk ++ [node] }) b
  else b

/-- R113, R116: fetch every item of the path from `i` to the roof that is not readable on die. A request that finds no slot
and its class's wait queue full begins nothing yet. -/
def fetchPath (r : Rgn) (asker : FetchBy) (i : Item) (b : Block) : Block :=
  let miss := pathMissing b r i
  let b' := miss.foldl (addFetch r asker) b
  if 8 < (walkQueue (fetchesOf b' i.share) r.wclass).length then b else miss.foldl (askRoof r) b'

/-- Whether an item lies at or under another. -/
def under (x i : Item) : Bool :=
  x.region == i.region && x.share == i.share && decide (x.level ≤ i.level) && x.index / 16 ^ (i.level - x.level) == i.index

/-- A sweep's pointer at `ptr` crosses an item's index boundary (R126 step 6). -/
def crosses (size ptr : Nat) (i : Item) : Bool :=
  if ptr = size then i.index == levelSize size i.level - 1 else ptr % 16 ^ i.level == 0 && i.index == ptr / 16 ^ i.level - 1

/-- A sweep step has come so far that an item is covered by the new key, though its pointer still stands at the page: the page's
counter block once its lines are written, the items it crosses once they are on die (R126 steps 5 and 6). -/
def sweepWrote (b : Block) (i : Item) : Bool :=
  (getPort b i.share).pages.any (fun w => w.sweep && w.one.isNone && w.region == i.region
    && ((i.level == 0 && w.item == i && (w.stage == .block || w.stage == .path || w.stage == .tree || w.stage == .done))
      || (i.level != 0 && (w.stage == .tree || w.stage == .done) && crosses (shareSize b w.rgn i.share) (w.item.index + 1) i)))

/-- The key a region's tree item is covered by: the new one once every share page below it has been swept
(R125), by the sweep's pointer. -/
def treeKeyNew (b : Block) (r : Rgn) (i : Item) : Bool :=
  match (getMcs b i.share).sweeps.find? (fun s => s.region == i.region) with
  | some s => s.done || decide (i.index < s.ptr / 16 ^ i.level) || s.ptr == shareSize b r i.share || sweepWrote b i
  | none => true

/-- What the slice of an item finds for its tree key (R11, R253). -/
def treeKeyAt (b : Block) (r : Rgn) (i : Item) : KeyAns :=
  keyAt b (getMcs b i.share).inst (if treeKeyNew b r i then r.key else r.prevKey)

/-- Ask for the tree key that an item's check or write-back lacks (R257). -/
def askTreeKey (r : Rgn) (i : Item) (b : Block) : Block :=
  askFill (getMcs b i.share).inst (if treeKeyNew b r i then r.key else r.prevKey) b

/-- The tree MAC of an item under a region key (R94). -/
def itemMac (r : Rgn) (k : WorkKeys) (i : Item) (x : Line) : Word := treeMac k.tree r.tri i.share i.level i.index x

/-! Completions on MN_. -/

/-- A read's answer: zero line and poison where the status is failing (Table 2.2, Table 8.1). -/
def rdOut (id : BitVec 10) (st : Status) (data : Line) (sorrel : BitVec 32) (origin : Bool) : RdOut :=
  if statusFailing st then { id := id, data := 0, poison := true, status := st, sorrel := sorrelOf 0, sorigin := false }
  else { id := id, data := data, poison := false, status := st, sorrel := sorrel, sorigin := origin }

/-- The event and the trace record of a failing status of the memory path. -/
def memEvent (n : Nat) (rq : MnReq) (st : Status) (b : Block) : Block :=
  let w := whoMn b n rq
  trace w.inst { kind := 4, status := st, tag := rq.tag, layer := rq.layer, opid := rq.opid, ctx := rq.ctx, unit := n, arg := rq.addr.toNat }
    (count w (evMcs (0x20 + statusCode st)) b)

/-- What a failing status of the memory path does beside the access (Table 4.4): its event, INT[4] or INT[6],
alarm and silent-error report, and a trace record. -/
def memFailure (n : Nat) (rq : MnReq) (st : Status) (b : Block) : Block :=
  let i := (getMcs b n).inst
  let b := memEvent n rq st b
  match st with
  | .tagFail => silentError i rq.tag .tagFail (alarm .tag (raise i 4 b))
  | .sorrelFail => integrity i rq.tag .sorrel (covMcs n 4 b)
  | .keyOrphaned | .keyExhausted => raise i 6 b
  | _ => b

/-- A Dual mismatch that ends an access (R238). -/
def memDual (n : Nat) (rq : MnReq) (b : Block) : Block :=
  integrity (getMcs b n).inst rq.tag .sorrel (covMcs n 5 (memEvent n rq .sorrelFail b))

/-- Every failing status of an access in its own counter (R25, R128). -/
def memFailures (n : Nat) (rq : MnReq) (l : List Status) (b : Block) : Block :=
  l.eraseDups.foldl (fun b st => memFailure n rq st b) b

/-- Put an answer on MN_RDATA for a request that has no outstanding read. -/
def rdataNow (n : Nat) (out : RdOut) (b : Block) : Block :=
  updPort n (fun p => { p with rdata := p.rdata ++ [(p.seq, out)], seq := p.seq + 1 }) b

/-- Put an acknowledgement on MN_WACK. -/
def wackNow (n : Nat) (id : BitVec 10) (st : Status) (b : Block) : Block :=
  updPort n (fun p => { p with wack := p.wack ++ [{ id := id, status := st }] }) b

def mapRd (seq : Nat) (f : Rd → Rd) (p : MPort) : MPort := { p with reads := updateWhere (fun r => r.seq == seq) f p.reads }
def mapHaz (seq : Nat) (f : Haz → Haz) (p : MPort) : MPort := { p with haz := updateWhere (fun h => h.seq == seq) f p.haz }

/-- A read becomes ready on MN_RDATA (R32), or for the engine that made it: with `verify` its verification is still open. -/
def readReady (n seq : Nat) (out : RdOut) (verify : Bool) (late : List Status) (b : Block) : Block :=
  updPort n (fun p =>
    let p := mapRd seq (fun r => { r with ready := some out, verify := verify, late := late, hold := .none, mem := .none }) p
    if p.reads.any (fun r => r.seq == seq && r.own) then p else { p with rdata := p.rdata ++ [(seq, out)] }) b

/-- A read ends with failing statuses before delivery; R25 selects the one that it carries. -/
def readFail (n : Nat) (rd : Rd) (l : List Status) (b : Block) : Block :=
  memFailures n rd.rq l (readReady n rd.seq (rdOut rd.rq.id (statusWorst l) 0 0 false) false [] b)

/-- Notices owed take their places on MN_PNT while fewer than 64 are held; a read whose notice has its place retires (R34). -/
def fillNotices (p : MPort) : MPort :=
  let now := (p.reads.filter (fun r => r.notice.isSome)).take (64 - p.pnt.length)
  { p with pnt := p.pnt ++ now.map (fun r => { id := r.rq.id, addr := r.rq.addr, tag := r.rq.tag, status := r.notice.getD .ok }),
           reads := p.reads.filter (fun r => !now.any (fun x => x.seq == r.seq)) }

/-- A delivered or held line's verification ends with a failing status (R34): a notice is owed behind those owed before, or the
held line is poisoned. -/
def verifyFails (n : Nat) (rd : Rd) (st : Status) (b : Block) : Block :=
  if rd.delivered then
    updPort n (fun p => fillNotices { p with
      reads := p.reads.filter (fun r => r.seq != rd.seq) ++ [{ rd with verify := false, notice := some st }] }) b
  else
    updPort n (fun p => { mapRd rd.seq (fun r => { r with verify := false }) p with
      rdata := p.rdata.map (fun e => if e.1 = rd.seq then (e.1, rdOut rd.rq.id st 0 0 false) else e) }) b

/-- A write ends without reaching MS_ (R118): its entry closes and never serves. -/
def writeEnd (n : Nat) (h : Haz) (st : Status) (b : Block) : Block :=
  let b := updPort n (fun p => { p with haz := p.haz.filter (fun x => x.seq != h.seq),
                                        pages := p.pages.filter (fun w => w.sweep || w.seq != h.seq) }) b
  if h.acked then b else wackNow n h.rq.id st b

/-- A write ends with a failing status. -/
def writeFail (n : Nat) (h : Haz) (st : Status) (b : Block) : Block := memFailure n h.rq st (writeEnd n h st b)

/-! Share pages of accesses. -/

/-- Counter-block item of a host line of a region. -/
def cbItem (b : Block) (n k : Nat) (r : Rgn) (host : Nat) : Item :=
  { region := k, share := n, level := 0, index := shareIndex b r n (host / 64) }

/-- Line index in a region (R80). -/
def lineIndex (r : Rgn) (host : Nat) : Nat := host - r.base * unitLines

/-- Whether an RW-AUTH page, or an XTS group line, has been swept by the region's re-key on this MCS. -/
def swept (b : Block) (n k at' : Nat) : Bool :=
  match (getMcs b n).sweeps.find? (fun s => s.region == k) with
  | some s => s.done || decide (at' < s.ptr)
  | none => true

/-- Pages of a region on MCS `n` whose group page lies below `gp`: XTS sweeps go in ascending g (R124). -/
def groupRank (b : Block) (r : Rgn) (n gp : Nat) : Nat :=
  let one := fun (m : MapEntry) =>
    if m.f ≤ n ∧ n < m.f + m.w then
      let i0 := residueCount m.w (n - m.f) (max (r.base * unitPages) m.base - m.base)
      let i1 := residueCount m.w (n - m.f) (min ((r.base + r.size) * unitPages) (m.base + m.pages) - m.base)
      min (gp - (m.b + i0)) (i1 - i0)
    else 0
  (b.rgn.map.map one).foldl (· + ·) 0

/-- R125: whether an access uses the new key. -/
def usesNew (b : Block) (n k : Nat) (r : Rgn) (host gline : Nat) (wr : Bool) : Bool :=
  if r.state = .rekey then
    match r.mode with
    | .rw => swept b n k (shareIndex b r n (host / 64))
    | .xts =>
      let pos := 64 * groupRank b r n (gline / 64) + gline % 64
      if (groupOf b n).sideband then wr || swept b n k pos else swept b n k pos
    | _ => true
  else true

/-- Region key and previous key for an access of a slice, where they can be had. -/
def accessKeys (b : Block) (n : Nat) (r : Rgn) : KeyAns × KeyAns :=
  let i := (getMcs b n).inst
  if r.mode = .plain then (.key {}, .key {})
  else (keyAt b i r.key, if r.state = .rekey then keyAt b i r.prevKey else .key {})

/-- Resolve the keys of an access: both at hand, an orphan, or a wait with the fills asked for. -/
def resolveKeys (n : Nat) (r : Rgn) (b : Block) : KeyAns × WorkKeys × Block :=
  let i := (getMcs b n).inst
  match accessKeys b n r with
  | (.key a, .key p) => (.key a, p, if r.mode = .plain then b else touchKey i r.key b)
  | (.gone st, _) => (.gone st, {}, b)
  | (_, .gone st) => (.gone st, {}, b)
  | (ka, kp) =>
    let b := if ka = .wait then askFill i r.key b else b
    (.wait, {}, if kp = .wait then askFill i r.prevKey b else b)

/-- Accesses in the key-wait queue of the slice of a port (R257). -/
def keyWaiting (b : Block) (n : Nat) : Nat :=
  ((engPorts b n).map (fun k => ((getPort b k).reads.filter (fun r => r.hold == .key)).length
    + ((getPort b k).haz.filter (fun h => h.hold == .key)).length)).foldl (· + ·) 0

/-- An access that lacks a key or a grant enters the key-wait queue; while its 16 entries are taken it stays where it is and
is judged again later (R257). -/
def keyHold (b : Block) (n : Nat) : Hold := if keyWaiting b n < 16 then .key else .none

/-! Progress of a read. -/

/-- The newest open hazard entry of a line that is older than an access (R119). -/
def newestHaz (p : MPort) (addr : LineAddr) (seq : Nat) : Option Haz :=
  (p.haz.reverse).find? (fun h => h.rq.addr == addr && decide (h.seq < seq))

/-- Whether a page re-encryption or a sweep step holds an access to a host line (R91, R126). -/
def pageHeld (p : MPort) (k host seq : Nat) : Bool :=
  p.pages.any (fun w => w.region == k && decide (w.seq < seq)
    && (match w.one with
        | some l => l == host
        | none => w.page == host / 64))

/-- A read served from a committed hazard entry (R119): its check value is compared before the return. -/
def serveHaz (n : Nat) (rd : Rd) (h : Haz) (b : Block) : Block :=
  let b := count (whoMn b n rd.rq) (evMcs 13) b
  if h.poison then readFail n rd [.poison] b
  else
    let (f, b) := forced false n 2 b
    if f || sorrelOf h.wr.data != h.sorrel then readFail n rd [.sorrelFail] b
    else readReady n rd.seq (rdOut rd.rq.id .ok h.wr.data h.sorrel h.origin) false [] (covMcs n 3 b)

/-- The counters of a read, once a counter block is at hand: checked, or fetched and not yet checked (R113 step 4). -/
def readCounters (b : Block) (n : Nat) (rd : Rd) : Option Counters :=
  let i := cbItem b n rd.ridx rd.rgn rd.rq.addr.toNat
  let k := rd.gline % 64
  match itemData b i with
  | some cb => some { major := majorOf cb, minor := minorOf cb k }
  | none =>
    match (getPort b n).fetch.find? (fun f => f.item == i) with
    | some { phase := .arrived cb, .. } => some { major := majorOf cb, minor := minorOf cb k }
    | _ => none

/-- The key of a returned line: the new one where the sweep has passed the line; else, in REKEY, the one that its KGEN names
(R86, R125). -/
def lineKeyNew (rd : Rd) (grp : Bool) (sb : Sideband) : Bool :=
  rd.useNew || (rd.rgn.state == .rekey && grp && sbGen sb == rd.rgn.keyGen)

/-- A returned data line is decrypted and checked (R86): a failing early check poisons it before delivery; under
verify-before-use every check comes first; else delivery goes ahead and the late checks are left open. -/
def finishData (n : Nat) (rd : Rd) (ct : Line) (sb : Sideband) (poison : Bool) (b : Block) : Block :=
  let keys := rd.keys.getD ({}, {})
  let grp := (groupOf b n).sideband
  let gens := if rd.rgn.state = .rekey then [rd.rgn.keyGen, rd.rgn.prevGen] else [rd.rgn.keyGen]
  let c := rd.ctr.getD { major := 0, minor := 0 }
  let auth := rd.rgn.mode == .ro || rd.rgn.mode == .rw
  let (fs, b) := forced false n 2 b
  let (ft, b) := if auth then forced false n 1 b else (false, b)
  let chk := checkLine rd.rgn (if lineKeyNew rd grp sb then keys.1 else keys.2) gens (lineIndex rd.rgn rd.rq.addr.toNat) rd.rq.addr.toNat c ct
    (if grp then some sb else none) poison
  let b := if poison then portError (whoMn b n rd.rq) 7 b else b
  let early := chk.early ++ (if fs && !poison then [Status.sorrelFail] else [])
  let late := rd.late ++ chk.late ++ (if ft && !poison then [Status.tagFail] else [])
  let all := if rd.vbu || !early.isEmpty then early ++ late else early
  let dualNow := rd.lateDual && (rd.vbu || !early.isEmpty)
  if !all.isEmpty || dualNow then
    let st := statusWorst (if dualNow then .sorrelFail :: all else all)
    memFailures n rd.rq all (if dualNow then memDual n rd.rq (readReady n rd.seq (rdOut rd.rq.id st 0 0 false) false [] b)
                             else readReady n rd.seq (rdOut rd.rq.id st 0 0 false) false [] b)
  else
    let b := if grp && rd.rgn.spol != 2 && !sbPoison sb then covMcs n 3 b else b
    readReady n rd.seq (rdOut rd.rq.id (if chk.inexact then .inexact else .ok) chk.data chk.sorrel chk.origin) (!rd.vbu && auth) late b

/-- An RW-AUTH read takes its counters as soon as a counter block is at hand, and starts the fetches of what its path lacks;
`needs` gathers what must be checked for it (R113). -/
def readMeta (n : Nat) (rd : Rd) (b : Block) : Rd × Block :=
  let i := cbItem b n rd.ridx rd.rgn rd.rq.addr.toNat
  if rd.ctr.isSome then (rd, b)
  else
    let rd := { rd with needs := (rd.needs ++ pathMissing b rd.rgn i).eraseDups }
    let b := fetchPath rd.rgn (.read rd.seq) i b
    match readCounters b n rd with
    | some c => ({ rd with ctr := some c }, touchItem i b)
    | none => (rd, b)

/-- Move a read that has its keys as far as it goes: counters, data, checks (R90, R113, R86). -/
def advanceData (n : Nat) (rd : Rd) (b : Block) : Block :=
  let (rd, b) : Rd × Block := if rd.rgn.mode = .rw then readMeta n rd b else (rd, b)
  let put := fun (rd : Rd) (b : Block) => updPort n (mapRd rd.seq (fun _ => rd)) b
  let unwritten := rd.rgn.mode == .rw && rd.ctr.any (fun c => c.minor == 0)
  if unwritten then
    if rd.vbu && !rd.needs.isEmpty then put { rd with mem := .none } b
    else readReady n rd.seq (rdOut rd.rq.id .ok 0 (sorrelOf 0) false) (!rd.needs.isEmpty) [] (put rd b)
  else
    let rd : Rd := { rd with mem := if rd.mem = .none then .toIssue else rd.mem }
    match rd.mem with
    | .here d sb po =>
      if rd.rgn.mode == .rw && (rd.ctr.isNone || (rd.vbu && !rd.needs.isEmpty)) then put rd b
      else finishData n rd d sb po (put rd b)
    | _ => put rd b

/-- Move a read as far as it goes: held page, keys, hazard entry, counters, data (R72, R91, R119, R257, R113, R86). -/
def advanceRead (n : Nat) (rd : Rd) (b : Block) : Block :=
  let hold := fun (x : Hold) (b : Block) => updPort n (mapRd rd.seq (fun r => { r with hold := x })) b
  if rd.ready.isSome || rd.hold == .key then b
  else if pageHeld (getPort b n) rd.ridx rd.rq.addr.toNat rd.seq then hold .page b
  else
    let (ka, prev, b) := match rd.keys with
      | some (a, q) => (KeyAns.key a, q, b)
      | none => resolveKeys n rd.rgn b
    match ka with
    | .gone st => readFail n rd [st] b
    | .wait => hold (keyHold b n) b
    | .key a =>
      match (if rd.mem = .none ∧ rd.ctr = none then newestHaz (getPort b n) rd.rq.addr rd.seq else none) with
      | some h =>
        if h.phase = .committed ∨ h.phase = .issued then serveHaz n rd h b else hold (.hazard h.seq) b
      | none => advanceData n { rd with keys := some (a, prev), hold := .none } b

/-! Progress of a write. -/

/-- The line and sideband of a write whose counters are known (R85, R101); the entry has passed its checks. -/
def composeWrite (n : Nat) (h : Haz) (key : WorkKeys) (kgen : Nat) (c : Counters) (b : Block) : Block :=
  let host := h.rq.addr.toNat
  let line := lineIndex h.rgn host
  let zero := h.poison
  let grp := (groupOf b n).sideband
  let h' :=
    if h.rgn.mode = .ro then
      let t := tupleOf h.rgn line c
      let plain := if zero then (0 : Line) else ctrLine key.enc t h.wr.data
      let s := sorrelOf plain
      let (l, sb) := sealLine h.rgn key 0 line host c plain s false zero false
      { h with data := l, sb := sb, sorrel := s, origin := false }
    else
      let plain := if zero then (0 : Line) else h.wr.data
      let s := if zero then sorrelOf 0 else if h.wr.svalid then h.wr.sorrel else sorrelOf h.wr.data
      let o := h.wr.svalid && !zero
      let (l, sb) := sealLine h.rgn key kgen line host c plain s o zero h.inexact
      { h with data := l, sb := if grp then sb else 0, sorrel := s, origin := o,
               ack := if zero ∧ grp = false ∧ h.ack = .ok then .poison else h.ack }
  updPort n (mapHaz h.seq (fun _ => { h' with phase := .checked, hold := .none })) b

/-- The key and generation that a write uses (R125). -/
def writeKeyOf (h : Haz) : WorkKeys × Nat :=
  let keys := h.keys.getD ({}, {})
  if h.useNew then (keys.1, h.rgn.keyGen) else (keys.2, h.rgn.prevGen)

/-- The page re-encryption that a write starts (R91). -/
def pageOf (b : Block) (n : Nat) (h : Haz) (i : Item) : PageWork :=
  let (key, gen) := writeKeyOf h
  { region := h.ridx, rgn := h.rgn, page := h.rq.addr.toNat / 64, seq := h.seq, sweep := false, item := i,
    keyOld := key, keyNew := key, genOld := gen, genNew := gen, dual := (engMcs b n).dual }

/-- An earlier read of the line whose counters are not yet recorded: the write does not change them (R119 step 3). -/
def readBefore (p : MPort) (h : Haz) : Option Rd :=
  p.reads.find? (fun r => r.rq.addr == h.rq.addr && decide (r.seq < h.seq) && r.ready.isNone && r.ctr.isNone && r.rgn.mode == .rw)

/-- Charge a write's blocks and go on (R79): it waits for a grant, or ends with KEY_EXHAUSTED. -/
def payWrite (n : Nat) (h : Haz) (need : Nat) (ok : Block → Block) (b : Block) : Block :=
  match charge (getMcs b n).inst (if h.useNew then h.rgn.key else h.rgn.prevKey) need b with
  | .ok b => ok b
  | .wait b => updPort n (mapHaz h.seq (fun y => { y with hold := keyHold b n })) b
  | .exhausted b => writeFail n h .keyExhausted b

/-- An RW-AUTH write whose counter block is cached and checked: the minor counter rises, or the page is re-encrypted (R91, R92,
R114). -/
def writeCounted (n : Nat) (h : Haz) (i : Item) (cb : Line) (b : Block) : Block :=
  let k := h.gline % 64
  let (key, gen) := writeKeyOf h
  if minorOf cb k = 16383 then
    if majorOf cb + 1 ≥ 2 ^ 56 - 1 then writeFail n h .keyExhausted b
    else payWrite n h (9 * ((minorsOf cb).filter (· != 0)).length)
      (fun b => updPort n (fun p => { p with pages := p.pages ++ [pageOf b n h i] }) b) b
  else
    payWrite n h 9 (fun b =>
      composeWrite n h key gen { major := majorOf cb, minor := minorOf cb k + 1 }
        (mapCached i (fun x => { x with data := setMinor cb k (minorOf cb k + 1), dirty := true }) b)) b

/-- Move a write as far as it goes: held page, older write of the line, keys, counter block, budget (R79, R91,
R92, R114, R118). -/
def advanceWrite (n : Nat) (h : Haz) (b : Block) : Block :=
  let p := getPort b n
  let host := h.rq.addr.toNat
  let hold := fun (x : Hold) (b : Block) => updPort n (mapHaz h.seq (fun y => { y with hold := x })) b
  if h.phase ≠ .waiting ∨ h.hold = .key ∨ p.pages.any (fun w => !w.sweep && w.seq == h.seq) then b
  else if pageHeld p h.ridx host h.seq then hold .page b
  else
    match newestHaz p h.rq.addr h.seq, readBefore p h with
    | some { seq := s, phase := .waiting, .. }, _ => hold (.hazard s) b
    | _, some r => hold (.hazard r.seq) b
    | _, _ =>
      let (ka, prev, b) := match h.keys with
        | some (a, q) => (KeyAns.key a, q, b)
        | none => resolveKeys n h.rgn b
      match ka with
      | .gone st => writeFail n h st b
      | .wait => hold (keyHold b n) b
      | .key a =>
        let h := { h with keys := some (a, prev), hold := .none, useNew := usesNew b n h.ridx h.rgn host h.gline true }
        let b := updPort n (mapHaz h.seq (fun _ => h)) b
        let (key, gen) := writeKeyOf h
        match h.rgn.mode with
        | .plain | .ro => composeWrite n h key gen { major := 0, minor := 0 } b
        | .xts => payWrite n h 9 (composeWrite n h key gen { major := 0, minor := 0 }) b
        | .rw =>
          let i := cbItem b n h.ridx h.rgn host
          match cachedItem b i with
          | none => updPort n (mapHaz h.seq (fun y => { y with hold := .counters })) (fetchPath h.rgn (.write h.seq) i b)
          | some c => writeCounted n h i c.data b

/-! Checks of fetched items (R113) and write-backs (R115). -/

/-- An item's slot in a parent that is readable on die. -/
def parentSlot (b : Block) (i : Item) : Option Word := (itemData b (parentItem i)).map (fun d => slotOf d (i.index % 16))

/-- A region enters FAILED with a status (R102). -/
def failRegion (k : Nat) (st : Status) (b : Block) : Block :=
  regionState k .failed (setRgn k { getRgn b k with fail := statusCode st } b)

/-- Every cached item, fetch and write-back of a region leaves a share's port, but a write-back on MS_. -/
def dropShare (n k : Nat) (b : Block) : Block :=
  let b := updEng n (fun p => { p with
    cache := p.cache.filter (fun c => c.item.region != k || c.item.share != n),
    nodes := p.nodes.filter (fun c => c.item.region != k || c.item.share != n) }) b
  updPort n (fun p => { p with back := p.back.filter (fun x => x.item.region != k || x.phase == .onMs),
                               fetch := p.fetch.filter (fun f => f.item.region != k) }) b

/-- A write waits for an item or for what was fetched under it. -/
def waitsFor (b : Block) (p : MPort) (n : Nat) (i : Item) (h : Haz) : Bool :=
  h.phase == .waiting && h.rgn.mode == .rw && h.ridx == i.region
    && ((h.hold == .counters && under (cbItem b n h.ridx h.rgn h.rq.addr.toNat) i)
      || p.pages.any (fun w => !w.sweep && w.seq == h.seq && w.stage == .begin && under w.item i))

/-- An access ends for an item that failed: with `dual` for two copies that disagreed (R238). -/
def itemReport (n : Nat) (rq : MnReq) (st : Status) (dual : Bool) (b : Block) : Block :=
  if dual then memDual n rq b else memFailure n rq st b

/-- A fetched item cannot be trusted: its check or the seal of its roof read failed, two copies disagreed, or its key is gone.
It and everything fetched under it is dropped; reads that need it are poisoned, writes that wait under it discarded, a sweep
step marked; a parent fetched for an eviction takes the region to FAILED and its metadata with it (Table 4.4, R113, R115,
R126). A failure that no access carries is reported for the region's tenant. -/
def failItem (i : Item) (st : Status) (dual : Bool) (b : Block) : Block :=
  let n := i.share
  let p := getPort b n
  let r := getRgn b i.region
  let own : MnReq := { addr := rgnLine r 0, tag := r.tag, ctx := r.owner, layer := 0xFFFB, opid := 0, id := 0 }
  let rds := p.reads.filter (fun rd => rd.needs.any (fun x => under x i))
  let wrs := p.haz.filter (waitsFor b p n i)
  let backs := p.back.any (fun x => x.phase == .parent && under x.item i)
  let b := if rds.isEmpty && wrs.isEmpty then itemReport n own st dual b else b
  let b := updPort n (fun p => { p with
    fetch := p.fetch.filter (fun f => !under f.item i),
    roofAsk := p.roofAsk.filter (fun k => !(i.level == r.roofLevel && k == roofNode b r i.share i.index)),
    pages := updateWhere (fun w => w.sweep && under w.item i && (w.stage == .begin || w.stage == .path)) (fun w => { w with lost := true }) p.pages }) b
  let b := rds.foldl (fun b rd =>
    if rd.ready.isSome then
      updPort n (mapRd rd.seq (fun x => { x with needs := [], late := if dual then x.late else st :: x.late, lateDual := x.lateDual || dual })) b
    else itemReport n rd.rq st dual (readReady n rd.seq (rdOut rd.rq.id st 0 0 false) false [] b)) b
  let b := wrs.foldl (fun b h => itemReport n h.rq st dual (writeEnd n h st b)) b
  if backs then
    if st = .tagFail ∨ st = .sorrelFail then dropShare n i.region (failRegion i.region st b)
    else updPort n (fun p => { p with back := p.back.filter (fun x => !(x.phase == .parent && under x.item i)) }) b
  else b

/-- A fetched item has passed its check: it enters a cache, and no read waits for it any longer (R113 step 5). -/
def enterItem (f : Fetch) (d : Line) (b : Block) : Block :=
  fillItem f.item f.tag d false (updPort f.item.share (fun p => { p with
    fetch := p.fetch.filter (fun x => x.item != f.item),
    reads := p.reads.map (fun rd => { rd with needs := rd.needs.filter (· != f.item) }) }) b)

/-- One fetched item against its parent slot: a slot of 0 makes it 128 zero bytes without a fetch (R95); a parent that is
not on die is fetched, or read from the PP. -/
def checkFetch (f : Fetch) (b : Block) : Block :=
  let r := getRgn b f.item.region
  if !(getPort b f.item.share).fetch.any (fun x => x.item == f.item) then b
  else
    match parentSlot b f.item with
    | none =>
      let up := parentItem f.item
      askRoof r (if r.roofLevel ≤ up.level then b else fetchPath r f.asker up b) f.item
    | some v =>
      if v = 0 then enterItem f 0 (touchItem (parentItem f.item) b)
      else
        match f.phase with
        | .arrived d =>
          match treeKeyAt b r f.item with
          | .key k =>
            let (bad, b) := forced false f.item.share 1 b
            if !bad && itemMac r k f.item d == v then enterItem f d (touchItem (parentItem f.item) b)
            else failItem f.item .tagFail false b
          | .gone st => failItem f.item st false b
          | .wait => askTreeKey r f.item b
        | _ => b

/-- Change the first element that a test holds of. -/
def updateFirst {α : Type} (p : α → Bool) (f : α → α) : List α → List α
  | [] => []
  | a :: t => if p a then f a :: t else a :: updateFirst p f t

/-- The oldest write-back of an item gets a new phase; where only its slot was to be written and is, it leaves. -/
def setBack (i : Item) (ph : BackPhase) (b : Block) : Block :=
  updPort i.share (fun p =>
    match takeFirst (fun y => y.item == i) p.back with
    | some (x, rest) =>
      if ph = .ready ∧ x.slotOnly then { p with back := rest }
      else { p with back := updateFirst (fun y => y.item == i) (fun y => { y with phase := ph }) p.back }
    | none => p) b

/-- A modified item's write-back: its tree MAC goes into the parent slot, in a cached parent at once, in the roof
over the ring; a parent that is not on die is fetched first (R115). An item without its key is dropped. -/
def advanceBack (x : BackItem) (b : Block) : Block :=
  let n := x.item.share
  let r := getRgn b x.item.region
  if x.phase ≠ .parent ∨ (getPort b n).back.find? (fun y => y.item == x.item) ≠ some x then b
  else
    match treeKeyAt b r x.item with
    | .gone _ => updPort n (fun p => { p with back := p.back.filter (fun y => y != x) }) b
    | .wait => askTreeKey r x.item b
    | .key k =>
      let mac := itemMac r k x.item x.data
      let up := parentItem x.item
      if r.roofLevel ≤ up.level then setBack x.item (.roofAsked mac) b
      else
        match cachedItem b up with
        | some _ => setBack x.item .ready (mapCached up (fun c => { c with data := setWord c.data (x.item.index % 16) mac, dirty := true }) b)
        | none => if (getPort b n).back.any (fun y => y.item == up) then b else fetchPath r (.back x.item) up b

/-! Page re-encryptions and sweep steps (R91, R126). -/

/-- An access attributed to the block's own work on a region (Table 14.2). -/
def ownReq (r : Rgn) (host : Nat) : MnReq :=
  { addr := BitVec.ofNat 45 host, tag := r.tag, ctx := r.owner, layer := 0xFFFB, opid := 0, id := 0 }

def mapJob (w : PageWork) (f : PageWork → PageWork) (p : MPort) : MPort :=
  { p with pages := updateWhere (fun x => x.seq == w.seq && x.sweep == w.sweep) f p.pages }

/-- An earlier access of the page, or line, is still open. -/
def pageBusy (p : MPort) (w : PageWork) : Bool :=
  let mine := fun (k : Nat) (a : LineAddr) => k == w.region && (match w.one with
    | some l => a.toNat == l
    | none => a.toNat / 64 == w.page)
  p.haz.any (fun x => mine x.ridx x.rq.addr && decide (x.seq < w.seq))
    || p.reads.any (fun r => mine r.ridx r.rq.addr && r.ready.isNone && decide (r.seq < w.seq))
    || p.back.any (fun x => x.item == w.item && w.one.isNone)

/-- A sweep that its key's budget or its key stops: INT[6] (R126). -/
def stopSweep (n i : Nat) (b : Block) : Block :=
  raise (getMcs b n).inst 6 (updMcs n (fun m => { m with sweeps := updateWhere (fun s => s.region == i) (fun s => { s with stopped := true }) m.sweeps }) b)

/-- The lines of a page that are read and re-written: those with a nonzero counter, or all where the block is lost. -/
def liveLines (cb : Line) (lost : Bool) : List Nat := (List.range 64).filter (fun l => lost || minorOf cb l != 0)

/-- The line jobs of a page whose counter block is at hand. -/
def lineJobs (b : Block) (w : PageWork) (cb : Line) : List LineJob :=
  let g0 := match mapLine b (w.page * 64) with
    | some (_, g) => g
    | none => 0
  match w.one with
  | some l => [{ line := l, g := g0 + l % 64, old := { major := 0, minor := 0 }, new := { major := 0, minor := 0 } }]
  | none =>
    (liveLines cb w.lost).map (fun l =>
      { line := w.page * 64 + l, g := g0 + l, old := { major := majorOf cb, minor := minorOf cb l },
        new := if w.sweep then { major := 0, minor := 1 } else { major := majorOf cb + 1, minor := 1 },
        phase := if w.lost then .got else .toRead, bad := w.lost })

/-- A page's lines are listed and read next; a sweep's blocks are charged to the new key first (R126). -/
def pageRead (n : Nat) (w : PageWork) (cb : Line) (b : Block) : Block :=
  let jobs := lineJobs b w cb
  let go := updPort n (mapJob w (fun x => { x with keyOld := w.keyOld, keyNew := w.keyNew, cb := cb, lines := jobs, stage := .reading }))
  if w.sweep then
    match charge (getMcs b n).inst w.rgn.key (9 * jobs.length) b with
    | .ok b => go b
    | .wait b => b
    | .exhausted b => stopSweep n w.region (updPort n (fun p => { p with pages := p.pages.filter (fun x => !x.sweep) }) b)
  else go b

/-- A sweep step's keys; a step whose key is gone ends its sweep. -/
def pageKeys (n : Nat) (w : PageWork) (b : Block) : Option PageWork × Block :=
  if w.sweep then
    match resolveKeys n w.rgn b with
    | (.key a, q, b) => (some { w with keyNew := a, keyOld := q }, b)
    | (.gone _, _, b) => (none, stopSweep n w.region (updPort n (fun p => { p with pages := p.pages.filter (fun x => !x.sweep) }) b))
    | (.wait, _, b) => (none, b)
  else (some w, b)

/-- A page job begins: earlier accesses end, keys are at hand, the counter block is cached and checked (R114). -/
def pageBegin (n : Nat) (w : PageWork) (b : Block) : Block :=
  if pageBusy (getPort b n) w then b
  else
    match pageKeys n w b with
    | (none, b) => b
    | (some w, b) =>
      if w.one.isSome || w.lost then pageRead n w 0 b
      else
        match cachedItem b w.item with
        | some c => pageRead n w c.data b
        | none => fetchPath w.rgn (if w.sweep then .sweep w.region else .write w.seq) w.item b

/-- The stored form of a line of a page job under its new counters and key; poisoned where it failed. -/
def sealJob (grp : Bool) (w : PageWork) (j : LineJob) : LineJob :=
  let (d, sb) := sealLine w.rgn w.keyNew w.genNew (lineIndex w.rgn j.line) j.line j.new (if j.bad then 0 else j.data)
    (if j.bad then sorrelOf 0 else j.sorrel) (j.origin && !j.bad) j.bad (j.inexact && !j.bad)
  { j with data := d, sb := if grp then sb else 0, origin := j.origin && !j.bad, phase := .toWrite }

/-- The counter block of a page job after it: MAJOR + 1 or 0, the lines at minor 1 (R91, R126 step 3). -/
def pageCounters (w : PageWork) : Line :=
  counterBlock (if w.sweep then 0 else majorOf w.cb + 1)
    ((List.range 64).map (fun l => if w.lines.any (fun j => j.line % 64 == l) then 1 else 0))

/-- Every line has been read: the counter block changes in the cache, the lines are sealed to go out, and a re-encryption's own
write with them (R91 steps 3 to 5, R126 steps 3 and 4). -/
def pageSeal (n : Nat) (w : PageWork) (b : Block) : Block :=
  let grp := (groupOf b n).sideband
  let own := (getPort b n).haz.find? (fun h => !w.sweep && h.seq == w.seq)
  let mine := fun (j : LineJob) => own.any (fun h => h.rq.addr.toNat == j.line)
  let lines := w.lines.map (fun j => if mine j then { j with phase := .done } else sealJob grp w j)
  let next := updPort n (mapJob w (fun x => { x with lines := lines, stage := .writing }))
  if w.one.isSome || w.lines.isEmpty then next b
  else
    let set := fun (b : Block) => mapCached w.item (fun c => { c with data := pageCounters w, dirty := true }) b
    let compose := fun (b : Block) =>
      match own with
      | some h => composeWrite n h w.keyNew w.genNew { major := majorOf w.cb + 1, minor := 1 } b
      | none => b
    match cachedItem b w.item with
    | some _ => compose (next (set b))
    | none =>
      if w.lost then compose (next (set (fillItem w.item w.rgn.tag 0 true b)))
      else fetchPath w.rgn (if w.sweep then .sweep w.region else .write w.seq) w.item b

/-- The counter block of a page job goes to its write-back, a clean copy staying in the cache (R91 step 5, R126 step 5). -/
def pageBlock (n : Nat) (w : PageWork) (b : Block) : Block :=
  let next := fun (s : PageStage) => updPort n (mapJob w (fun x => { x with stage := s }))
  if w.one.isSome || (w.sweep && w.lines.isEmpty) then next (if w.one.isSome then .done else .path) b
  else
    match cachedItem b w.item with
    | some c =>
      updPort n (fun p => { p with back := p.back ++ [{ item := w.item, tag := c.tag, data := c.data, phase := .parent }] })
        (mapCached w.item (fun x => { x with dirty := false }) (next .block b))
    | none => next .block b

/-- The items above its counter block whose index boundary a sweep step crosses (R126 step 6). -/
def stepItems (b : Block) (w : PageWork) : List Item :=
  let size := shareSize b w.rgn w.item.share
  ((List.range (w.rgn.roofLevel - 1)).map (fun j => { w.item with level := j + 1, index := w.item.index / 16 ^ (j + 1) })).filter
    (crosses size (w.item.index + 1))

/-- The crossed items are read on die, then their slots are rewritten under the new K_TREE; an item never written keeps its slot
of 0, and one that failed its check is left (log 99). -/
def pagePath (n : Nat) (w : PageWork) (b : Block) : Block :=
  let its := stepItems b w
  let lacks := its.filter (fun i => parentSlot b i != some 0 && ((parentSlot b i).isNone || (itemData b i).isNone))
  if !lacks.isEmpty && !w.lost then
    lacks.foldl (fun b i => askRoof w.rgn (fetchPath w.rgn (.sweep w.region) i b) i) b
  else
    let live := its.filterMap (fun i =>
      if parentSlot b i = some 0 then none
      else (itemData b i).map (fun d => ({ item := i, tag := w.rgn.tag, data := d, phase := .parent, slotOnly := true } : BackItem)))
    updPort n (fun p => { mapJob w (fun x => { x with stage := .tree }) p with back := p.back ++ live }) b

/-- Move a page job as far as it goes. -/
def advancePage (n : Nat) (w : PageWork) (b : Block) : Block :=
  let p := getPort b n
  match w.stage with
  | .begin => pageBegin n w b
  | .reading => if w.lines.all (fun j => j.phase == .got) then pageSeal n w b else b
  | .writing =>
    if w.lines.all (fun j => j.phase == .done) && !p.haz.any (fun h => !w.sweep && h.seq == w.seq && h.phase != .issued) then pageBlock n w b else b
  | .block =>
    if p.back.any (fun x => x.item == w.item) then b
    else updPort n (mapJob w (fun x => { x with stage := if w.sweep then .path else .done })) b
  | .path => pagePath n w b
  | .tree => if p.back.any (fun x => x.slotOnly && x.item.region == w.region) then b else updPort n (mapJob w (fun x => { x with stage := .done })) b
  | .done => b

/-- A line of a page job that memory has returned: checked under the old key (in an XTS sweep under the one that its KGEN names),
each failure counted (R91 step 2, R126 step 2, R86). -/
def pageLine (n : Nat) (w : PageWork) (j : LineJob) (data : Line) (sb : Sideband) (poison dual : Bool) (b : Block) : Block :=
  let grp := (groupOf b n).sideband
  let new := w.sweep && w.one.isSome && grp && sbGen sb == w.genNew
  let (fs, b) := forced false n 2 b
  let (ft, b) := if w.one.isNone then forced false n 1 b else (false, b)
  let chk := checkLine w.rgn (if new then w.keyNew else w.keyOld) (if w.sweep then [w.genNew, w.genOld] else [w.genOld])
    (lineIndex w.rgn j.line) j.line j.old data (if grp then some sb else none) poison
  let rq := ownReq w.rgn j.line
  let bad := chk.early ++ chk.late ++ (if fs && !poison then [Status.sorrelFail] else []) ++ (if ft && !poison then [Status.tagFail] else [])
  let b := if poison then portError (whoMn b n rq) 7 b else b
  let b := if dual then memDual n rq b else b
  let b := if bad.isEmpty && !dual && grp && w.rgn.spol != 2 then covMcs n 3 b else b
  memFailures n rq bad (updPort n (mapJob w (fun x => { x with
    lines := updateWhere (fun y => y.line == j.line) (fun y => { y with
      phase := .got, data := chk.data, sorrel := chk.sorrel, origin := chk.origin, inexact := chk.inexact,
      bad := dual || !bad.isEmpty }) x.lines })) b)

/-! A port's turn. -/

/-- Something of a region waits on a share that may need an item which no way would take. -/
def regionWaits (p : MPort) (k : Nat) : Bool :=
  p.haz.any (fun h => h.phase == .waiting && h.ridx == k) || p.back.any (fun x => x.phase == .parent && x.item.region == k)
    || p.fetch.any (fun f => f.item.region == k) || p.pages.any (fun w => w.region == k)
    || p.reads.any (fun r => r.ridx == k && r.ready.isNone && r.ctr.isNone)

/-- Items that no way would take serve the accesses that wait, and leave (R112). -/
def dropLoose (n : Nat) (b : Block) : Block :=
  let e := engPort b n
  let loose := (e.cache ++ e.nodes).filter (fun c => c.way == 16 && c.item.share == n && !regionWaits (getPort b n) c.item.region)
  loose.foldl (fun b c => evictItem c b) b

/-- Items of a share in the caches that serve it. -/
def shareItems (b : Block) (n : Nat) : List CacheItem :=
  ((engPort b n).cache ++ (engPort b n).nodes).filter (fun c => c.item.share == n)

/-- A port whose group is being handed over, or that a soft reset awaits, writes its modified items back (Table 4.2 step 4,
R98). -/
def drainPort (n : Nat) (b : Block) : Block :=
  let p := getPort b n
  if (p.drain || p.soft) && p.reads.isEmpty && p.haz.isEmpty && p.pages.isEmpty then (shareItems b n).foldl (fun b c => evictItem c b) b
  else b

/-- One pass over a port: fetched items top level first, write-backs, page jobs, then reads and writes in acceptance order. -/
def portPass (n : Nat) (b : Block) : Block :=
  let b := ((getPort b n).fetch.reverse).foldl (fun b f => checkFetch f b) b
  let b := ((getPort b n).back).foldl (fun b x => advanceBack x b) b
  let b := ((getPort b n).pages).foldl (fun b w =>
    match (getPort b n).pages.find? (fun x => x.seq == w.seq && x.sweep == w.sweep) with
    | some w => advancePage n w b
    | none => b) b
  let seqs := ((getPort b n).reads.map (fun r => (r.seq, true)) ++ (getPort b n).haz.map (fun h => (h.seq, false)))
  let seqs := seqs.mergeSort (fun a c => decide (a.1 ≤ c.1))
  seqs.foldl (fun b e =>
    if e.2 then
      match (getPort b n).reads.find? (fun r => r.seq == e.1) with
      | some rd => advanceRead n rd b
      | none => b
    else
      match (getPort b n).haz.find? (fun h => h.seq == e.1) with
      | some h => advanceWrite n h b
      | none => b) b

/-- `k` passes. -/
def portPasses (n : Nat) : Nat → Block → Block
  | 0, b => b
  | k + 1, b => portPasses n k (portPass n b)

/-- Everything a port can do after an event: a tree has at most six levels under the roof, and a page job seven stages, so
sixteen passes end it. -/
def progress (n : Nat) (b : Block) : Block := dropLoose n (portPasses n 16 (drainPort n b))

/-! The end of a slice (R123). -/

/-- Take back the minor counter of a write that ends before it reaches MS_: the line in memory is still under the one before
(R123: memory is unchanged). -/
def undoCounter (n : Nat) (h : Haz) (b : Block) : Block :=
  if h.rgn.mode = .rw ∧ (h.phase = .checked ∨ h.phase = .committed) then
    let i := cbItem b n h.ridx h.rgn h.rq.addr.toNat
    let k := h.gline % 64
    let less := fun (d : Line) => setMinor d k (minorOf d k - 1)
    match cachedItem b i, itemData b i with
    | some _, _ => mapCached i (fun c => { c with data := less c.data, dirty := true }) b
    | none, some d => updPort n (fun p => { p with back := p.back ++ [{ item := i, tag := h.rgn.tag, data := less d, phase := .parent }] }) b
    | none, none => b
  else b

/-- R123: outstanding work of a failed slice's port. A page whose lines are already going out is finished by the partner. -/
def endSliceWork (n : Nat) (st : Status) (b : Block) : Block :=
  let p := getPort b n
  let late := fun (w : PageWork) => w.stage != .begin && w.stage != .reading
  let b := p.reads.foldl (fun b rd =>
    if rd.ready.isSome then (if rd.delivered && !rd.verify then b else verifyFails n rd st b)
    else readReady n rd.seq (rdOut rd.rq.id st 0 0 false) false [] b) b
  let b := p.haz.foldl (fun b h =>
    if h.phase = .issued ∨ p.pages.any (fun w => !w.sweep && w.seq == h.seq && late w) then b
    else writeEnd n h st (undoCounter n h b)) b
  updPort n (fun p => { p with fetch := [], roofAsk := [], pages := p.pages.filter late }) b

/-- The RW-AUTH regions with a share on a group enter FAILED with OUT_OF_SERVICE: their modified metadata is lost (R123). -/
def failShares (n : Nat) (b : Block) : Block :=
  let b := updEng n (fun p => { p with cache := p.cache.filter (fun c => c.item.share != n), nodes := p.nodes.filter (fun c => c.item.share != n) }) b
  let b := updPort n (fun p => { p with back := p.back.filter (fun x => x.phase == .onMs), pages := [], haz := p.haz.filter (fun h => h.phase == .issued) }) b
  b.rgn.table.foldl (fun b e =>
    if e.2.mode = .rw ∧ (e.2.state = .active ∨ e.2.state = .rekey) ∧ 0 < shareSize b e.2 n
    then failRegion e.1 .outOfService b else b) b

/-- A pair operation that a fault cuts off ends in both members with OUT_OF_SERVICE (log 100). -/
def endPairOp (n : Nat) (b : Block) : Block :=
  if (getMcs b n).busy then
    updMcs (partner n) (fun m => { m with busy := false, lastSts := .outOfService }) (updMcs n (fun m => { m with busy := false, lastSts := .outOfService }) b)
  else b

/-- A slice in service is lost while its partner is in service: the partner carries it and writes back its modified metadata, read
through the crossover; an uncorrectable error there fails the group's RW-AUTH regions (R123). -/
def sliceCarried (n : Nat) (sramOk : Bool) (b : Block) : Block :=
  let b := endSliceWork n .outOfService b
  let b := if sramOk then (shareItems b n).foldl (fun b c => evictItem c b) b else failShares n b
  updMcs n (fun m => { m with state := .carried }) (updMcs (partner n) (fun m => { m with state := .carrying }) b)

/-- No member of the pair serves any longer: every request at their ports ends with OUT_OF_SERVICE, and the modified metadata of
the groups they served is lost with them (R123, log 101). -/
def pairLost (n : Nat) (b : Block) : Block :=
  let ks := if (getMcs b n).state = .carrying then [n, partner n] else [n]
  let b := ks.foldl (fun b k => failShares k (endSliceWork k .outOfService b)) b
  ks.foldl (fun b k => updMcs k (fun m => { m with state := .down }) b) b

/-- An MCS is lost by a fault (R123): its partner carries it, or both are down. A slice that is already out of service carries
nothing to lose. -/
def sliceFault (n : Nat) (sramOk : Bool) (b : Block) : Block :=
  let k := partner n
  match (getMcs b n).state with
  | .carried | .down => b
  | st =>
    let b := endPairOp n b
    let b := if st = .inService ∧ (getMcs b k).present = true ∧ (getMcs b k).state = .inService then sliceCarried n sramOk b else pairLost n b
    let b := count (whoMcs b n 0) (evMcs (0x20 + statusCode .outOfService)) (raise (getMcs b n).inst 15 b)
    let b := updPort k (fun p => { p with drain := false }) (updPort n (fun p => { p with drain := false }) b)
    progress k (progress n b)

/-- A spare takes the work of a failed lane (R12); with no spare left the slice goes out. -/
def laneOut (isLcs : Bool) (n lane : Nat) (b : Block) : Block :=
  let inst := if isLcs then (getLcs b n).inst else (getMcs b n).inst
  let b := updUnits inst (fun u => { u with outLanes := u.outLanes ++ [(isLcs, n, lane)] }) b
  let b := count { inst := inst } (evBay 2) b
  if isLcs then updLcs n (fun l => { l with spares := l.spares - 1 }) b
  else updMcs n (fun m => { m with spares := m.spares - 1 }) b

end Sys2Proof.Machine
end

