-- ==== Sys2Proof/Machine/CmdOps.lean ====
section
/-! DEFINITION. Commands of engines: their three sources (register form, queue, kernel command port), rights
(R302, R323, R325), handles and reference records (R314, R315), journal and outcome (R321, R360), and the
replication of what they change (R355). -/

namespace Sys2Proof.Machine

/-! Handles and references. -/

/-- Object types of a handle (R314). -/
def tyCtx : Nat := 1
def tyQueue : Nat := 2
def tyRgn : Nat := 3
def tyWin : Nat := 4
def tyKey : Nat := 5
def tyFence : Nat := 6
def tyPlan : Nat := 7

/-- Index of an object's reference record. -/
def refKey (ty idx : Nat) : Nat := ty * 2 ^ 20 + idx

def getRef (b : Block) (ty idx : Nat) : RefRec := Sparse.get {} b.cm.refs (refKey ty idx)
def updRef (ty idx : Nat) (f : RefRec → RefRec) (b : Block) : Block :=
  { b with cm := { b.cm with refs := Sparse.upd {} b.cm.refs (refKey ty idx) f } }

/-- Generation of an object: a KREG entry's own, else the record's (R314). -/
def genOf (b : Block) (ty idx : Nat) : BitVec 16 :=
  if ty = tyKey then (getKey b idx).gen else (getRef b ty idx).gen

/-- The 8-byte handle of an object (R314). -/
def handleOf (b : Block) (ty idx : Nat) : Word :=
  joinFields [putNat 0 ty, putNat 4 idx, putNat 24 (genOf b ty idx).toNat, putNat 40 b.trust.dom.pkg.toNat]

/-- Index of a live object that a handle names; none where it is stale (R314). -/
def liveIndex (b : Block) (ty : Nat) (h : Word) : Option Nat :=
  let idx := fieldNat h 23 4
  let r := getRef b ty idx
  if fieldNat h 3 0 = ty ∧ fieldNat h 63 54 = 0 ∧ fieldNat h 39 24 = (genOf b ty idx).toNat
      ∧ fieldNat h 53 40 = b.trust.dom.pkg.toNat ∧ 0 < r.ref ∧ r.dying = false
  then some idx else none

/-- A new object's record: REF 1, the creator's reference (R315). -/
def newRef (ty idx : Nat) (b : Block) : Block :=
  updRef ty idx (fun r => { r with ref := 1, creator := true, dying := false, takers := [] }) b

/-- An object becomes FREE: its generation rises (R314). -/
def freeRef (ty idx : Nat) (b : Block) : Block :=
  updRef ty idx (fun r => { ref := 0, creator := false, dying := false, gen := r.gen + 1, takers := [] }) b

/-- REF set to 0: the object is DYING (R315). -/
def dyingRef (ty idx : Nat) (b : Block) : Block :=
  updRef ty idx (fun r => { r with ref := 0, creator := false, dying := true, takers := [] }) b

/-! Sources. -/

/-- The engine register of a register form. -/
inductive Eng where
  | rgn | wtu | mint | none
  deriving DecidableEq, Repr

def engSts (b : Block) : Eng → CmdSts
  | .rgn => b.rgn.sts | .wtu => b.fab.sts | .mint => b.keys.mint.sts | .none => {}

def setEngSts (e : Eng) (s : CmdSts) (b : Block) : Block :=
  match e with
  | .rgn => { b with rgn := { b.rgn with sts := s } }
  | .wtu => { b with fab := { b.fab with sts := s } }
  | .mint => updMint (fun m => { m with sts := s }) b
  | .none => b

def engWindow : Eng → Window
  | .rgn => .rgn | .wtu => .wtu | .mint => .mint | .none => .hole

/-- OP of an engine's command word. -/
def engOp : Eng → Word → Nat
  | .rgn, w => fieldNat w 2 0 | .wtu, w => fieldNat w 1 0 | _, w => fieldNat w 3 0

/-- The command of a source, where it has one. -/
def srcCmd (b : Block) : Src → Option Cmd
  | .reg _ _ => none
  | .queue q => (getQueue b q).cmd
  | .kport => b.cm.kport.cmd

/-- Change the command of a source. -/
def updCmd (src : Src) (f : Cmd → Cmd) (b : Block) : Block :=
  match src with
  | .reg _ _ => b
  | .queue q => updQueue q (fun x => { x with cmd := x.cmd.map f }) b
  | .kport => { b with cm := { b.cm with kport := { b.cm.kport with cmd := b.cm.kport.cmd.map f } } }

/-- Operand word at a byte offset (R399). -/
def opWord (c : Cmd) (off : Nat) : Word := BitVec.ofNat 64 (leNat ((c.bytes.drop off).take 8))

/-- Operand word of a source's command (Table 11.8). -/
def srcOp (b : Block) (src : Src) (off : Nat) : Word :=
  match srcCmd b src with
  | some c => opWord c off
  | none => 0

/-- The word of a register form: written, or carried by the command at byte 40 (Table 11.8). -/
def srcWord (b : Block) (src : Src) : Word :=
  match src with
  | .reg _ w => w
  | s => srcOp b s 40

/-- Who asks: with kernel rights or a queue's context (R323, R325). `named` says that a context is at hand. -/
structure Req where
  kernel : Bool
  named  : Bool
  ctx    : Ctx
  tag    : Tag
  deriving DecidableEq, Repr

def reqOf (b : Block) (src : Src) : Req :=
  match src with
  | .reg _ _ => { kernel := true, named := false, ctx := 0, tag := 0 }
  | .queue q => { kernel := false, named := true, ctx := (getQueue b q).ctx, tag := (getQueue b q).tag }
  | .kport =>
    match b.cm.kport.ctx with
    | some c => { kernel := true, named := true, ctx := c, tag := (getCtx b c.toNat).tag }
    | none => { kernel := true, named := false, ctx := 0, tag := 0 }

/-- K forms are closed for a tag that TDISP governs and that is LOCKED or RUN (R302). -/
def kClosed (b : Block) (tag : Tag) : Bool :=
  let t := getTInst b tag.toNat
  t.tdisp && (t.state == .locked || t.state == .run || t.state == .frozen)

/-- Whether a requester may act on an object of a context and tag (R302, R323). -/
def mayAct (b : Block) (r : Req) (owner : Ctx) (tag : Tag) : Bool :=
  if r.kernel then !kClosed b tag else owner == r.ctx

/-- Number of a source at an arbiter, and as an Operator ID: a queue's own; 256 for the kernel command port. -/
def srcHead : Src → Nat
  | .queue q => q
  | _ => 256

/-! Outcome. -/

/-- SIG_EN, NOTIFY, WAIT_EN and ANY_STATUS of a command (Table 11.4). -/
def cmdWait (c : Cmd) : Bool := c.flags.getLsbD 0
def cmdSig (c : Cmd) : Bool := c.flags.getLsbD 1
def cmdAny (c : Cmd) : Bool := c.flags.getLsbD 2
def cmdNotify (c : Cmd) : Bool := c.flags.getLsbD 3

/-! Lines that the Context Manager and the engines reach through the MCSs (R318, R320). -/

/-- An access of the block's own to one line, in the name of a context: the checks of MN_ come first (R69, R72); the slice that serves the line
counts the access and each failing status. `st` is the status with which the access itself ended. -/
def lineAccess (rq : MnReq) (wr : Bool) (st : Status) (b : Block) : Status × Block :=
  let n := ((mapLine b rq.addr.toNat).getD (0, 0)).1
  let w : Option MnWr := if wr then some { data := 0, svalid := true, sorrel := 0, poison := false } else none
  match (if (getMcs b n).state = .down then .bad [.outOfService] false else judge b n rq w) with
  | .bad l _ => (statusWorst l, memFailures n rq l b)
  | .ok _ r =>
    (st, memFailures n rq (if statusFailing st then [st] else []) (count (whoMn b n rq) (evMcs ((if wr then 4 else 0) + modeNum r.mode)) b))

/-- The lines of a byte range, each once. -/
def linesOf (addr len : Nat) : List Nat :=
  let first := addr / 128
  if len = 0 then [] else (List.range ((addr + len - 1) / 128 + 1 - first)).map (fun k => first + k)

/-- Lines read or written one after the other; R25 selects the status. `st`, with which the accesses ended, counts once. -/
def linesAccess (mk : Nat → MnReq) (wr : Bool) (lines : List Nat) (st : Status) (b : Block) : Status × Block :=
  lines.zipIdx.foldl (fun a l =>
    let r := lineAccess (mk l.1) wr (if l.2 = 0 then st else .ok) a.2
    (statusMin a.1 r.1, r.2)) (if lines.isEmpty then st else .ok, b)

/-- A request of the Context Manager in the name of a source's context (Table 14.2). -/
def srcReq (b : Block) (src : Src) (l : Nat) : MnReq :=
  { addr := BitVec.ofNat 45 l, tag := (reqOf b src).tag, ctx := (reqOf b src).ctx, layer := 0xFFFD, opid := BitVec.ofNat 16 (srcHead src), id := 0 }

/-- Operand data of a command, read or written with the rights of its context; a source without one has kernel rights. -/
def srcAccess (src : Src) (wr : Bool) (addr len : Nat) (st : Status) (b : Block) : Status × Block :=
  if (reqOf b src).named then linesAccess (srcReq b src) wr (linesOf addr len) st b else (st, b)

/-- A command's outcome is final: its journal entry is COMPLETE (R360); a queue's command awaits its record, the kernel
command port shows it (R321, R325). -/
def toRecord (src : Src) (b : Block) : Block :=
  match srcCmd b src with
  | none => b
  | some c =>
    let b := jnlComplete c.jseq c.status c.result b
    match src with
    | .kport =>
      let k := b.cm.kport
      let b := { b with cm := { b.cm with kport := { k with busy := false, status := c.status, token := c.token, result := c.result, cmd := none } } }
      if cmdNotify c then raisePrimary 2 b else b
    | s => updCmd s (fun c => { c with phase := .record }) b

/-- A request held on an LT_ port is a line write of a context. -/
def heldWrite (ctx : Ctx) (h : LtHeld) : Bool := h.xfers.head?.any (fun x => x.op == 0x01 && x.ctx == ctx)

/-- Fabric writes of a context that are accepted and not yet acknowledged (R190), on an LT_ port or outstanding: instance and place in
the order of acceptance. -/
def openWrites (b : Block) (ctx : Ctx) : List (Nat × Nat) :=
  b.fab.inst.flatMap (fun f => (f.2.outst.filter (fun o => o.2.live && o.2.ctx == ctx && o.2.op == 0x01)).map (fun o => (f.1, o.2.order))
    ++ (f.2.held.filter (heldWrite ctx)).map (fun h => (f.1, h.seq)))

/-- A command has ended: its signal is next where it carries one (R321, R327). -/
def cmdEnd (src : Src) (st : Status) (result : Word) (b : Block) : Block :=
  match srcCmd b src with
  | none => b
  | some c =>
    let st := c.kill.getD st
    let b := if st = .quota then raisePrimary 12 b else b
    let sig := cmdSig c
    let b := updCmd src (fun c => { c with status := st, result := result, phase := .signal, before := if sig then openWrites b (reqOf b src).ctx else [] }) b
    if sig then b else toRecord src b

/-- A command of an engine ends: a register form shows its status, its journal entry COMPLETE before, and raises INT[2]
(R74, R360). -/
def cmdDone (e : Eng) (src : Src) (st : Status) (result : Word) (index : Nat) (b : Block) : Block :=
  match src with
  | .reg _ _ =>
    let s := engSts b e
    let b := if st = .quota then raisePrimary 12 b else b
    raisePrimary 2 (setEngSts e { s with busy := false, status := st, index := index } (jnlComplete s.jseq st result b))
  | s => cmdEnd s st result b

/-! Arbitration (R332, R333). -/

/-- A head that waits at an engine: its number (a queue's; 256 for the kernel command port; 300 + p for an SCU page;
400 for the Service Request Queue), priority and bound in ns. -/
structure Head where
  who   : Nat
  prio  : Nat
  bound : Nat
  deriving DecidableEq, Repr

/-- Engine of a queue's command: 0 the Mint, 1 the SCU, 2 the region and window unit, 3 the plan unit, 4 the seal unit. -/
def opEngine : Nat → Option Nat
  | 0x40 => some 0 | 0x50 | 0x51 => some 2 | 0x60 | 0x61 | 0x62 => some 3 | 0x03 | 0x04 => some 4 | _ => none

/-- Bound of a command in ns (Table 9.5; 4 µs for every other one). -/
def cmdBound (c : Cmd) : Nat :=
  if c.op = 0x40 then
    match fieldNat (opWord c 40) 3 0 with
    | 1 | 2 => 3000
    | 4 => 60000
    | _ => 4000
  else 4000

/-- Heads of queues and of the kernel command port at an engine. -/
def engineHeads (b : Block) (e : Nat) : List Head :=
  (b.cm.queues.filterMap (fun q =>
    match q.2.cmd with
    | some c => if c.phase = .ready ∧ opEngine c.op = some e then some { who := q.1, prio := q.2.prio, bound := cmdBound c } else none
    | none => none))
  ++ (match b.cm.kport.cmd with
      | some c => if c.phase = .ready ∧ opEngine c.op = some e then [{ who := 256, prio := 0, bound := cmdBound c }] else []
      | none => [])

/-- The next head of a priority, in turns. -/
def nextHead (heads : List Head) (p last : Nat) : Option Head :=
  let l := (heads.filter (fun h => h.prio == p)).mergeSort (fun x y => decide (x.who ≤ y.who))
  match l.find? (fun h => decide (last < h.who)) with
  | some h => some h
  | none => l.head?

/-- Deficit round robin over P1 to P3: a priority with no head loses what it had left. -/
def drrTurn (heads : List Head) (weights : List Nat) : Nat → Arb → Option (Head × Arb)
  | 0, _ => none
  | fuel + 1, a =>
    let p := a.turn
    let advance := fun (left : List Nat) =>
      let q := p % 3 + 1
      ({ a with turn := q, left := left.set q (left.getD q 0 + weights.getD (q - 1) 1 * 10000) } : Arb)
    match nextHead heads p (a.last.getD p 0) with
    | none => drrTurn heads weights fuel (advance (a.left.set p 0))
    | some h =>
      if h.bound ≤ a.left.getD p 0 then
        some (h, { a with left := a.left.set p (a.left.getD p 0 - h.bound), last := a.last.set p h.who })
      else drrTurn heads weights fuel (advance a.left)

/-- The head an engine starts next: P0 first. -/
def arbPick (heads : List Head) (weights : List Nat) (a : Arb) : Option (Head × Arb) :=
  match nextHead heads 0 (a.last.getD 0 0) with
  | some h => some (h, { a with last := a.last.set 0 h.who })
  | none => if heads.isEmpty then none else drrTurn heads weights 20000 a

/-- Start a head at an engine, where it is that head's turn. -/
def arbStart (e : Nat) (heads : List Head) (who : Nat) (f : Block → Block) (b : Block) : Block :=
  match arbPick heads b.cm.drr (Sparse.get {} b.cm.arb e) with
  | some (h, a) => if h.who = who then f { b with cm := { b.cm with arb := Sparse.set {} b.cm.arb e a } } else b
  | none => b

/-- Start a queue's or the kernel command port's command that is ready, its turn come at its engine. -/
def startReady (src : Src) (op : Nat) (more : Cmd → Bool) (f : Block → Block) (b : Block) : Block :=
  match srcCmd b src with
  | none => b
  | some c =>
    if c.phase = .ready ∧ c.op = op ∧ more c then
      let run := fun (b : Block) => f (updCmd src (fun c => { c with phase := .running }) b)
      match opEngine op with
      | some e => arbStart e (engineHeads b e) (srcHead src) run b
      | none => run b
    else b

/-! Replication (R355). -/

/-- Whether mutations wait for the SP's acknowledgement. -/
def replicating (b : Block) : Bool := b.fo.sp == .standby

/-- A mutation takes effect at once, or waits behind those sent to the SP before it. -/
def mutate (c : Mut) (f : Block → Block) (b : Block) : Block :=
  if replicating b then { b with fo := { b.fo with repl := b.fo.repl ++ [c] } } else f b

/-- Accept a command of an engine and run `f`: the register form is checked and journalled (R360); a queue's or the
kernel port's command runs when it is ready at its engine and its OP, and sub-command where the word has one, match. -/
def startCmd (e : Eng) (src : Src) (op sub : Nat) (f : Block → Block) (b : Block) : Block :=
  match src with
  | .reg z _ =>
    if e = .none then b
    else zcpDo z true (engWindow e) (fun b =>
      let s := engSts b e
      if !isPrimary b z.inst then b
      else if s.busy then zcpRefuse z .badConfig b
      else if b.jnl.lock = false then raisePrimary 2 (setEngSts e { s with status := .badConfig, lastOp := sub } b)
      else
        match jnlAccept 1 0 0 sub 0 0 0 b with
        | none => raisePrimary 15 b
        | some (q, b) => f (setEngSts e { s with busy := true, lastOp := sub, jseq := q } b)) b
  | s => startReady s op (fun cmd => e == .none || engOp e (opWord cmd 40) == sub) f b

/-- Accept a command whose effect is replicated (R355). -/
def runCmd (c : Mut) (e : Eng) (src : Src) (op sub : Nat) (body : Block → Block) (b : Block) : Block :=
  startCmd e src op sub (mutate c body) b

/-- Start a queue's or the kernel port's command whose effect is not replicated (R355 names none of it). -/
def startLocal (src : Src) (op : Nat) (body : Block → Block) (b : Block) : Block :=
  match src with
  | .reg _ _ => b
  | s => startReady s op (fun _ => true) body b

end Sys2Proof.Machine
end

