-- ==== Sys2Proof/Machine/Mail.lean ====
section
/-! DEFINITION. The Sage mailbox (R52, R283, Table 10.4, Table 13.9), secured sessions as requests name them (R278, R310),
host link keys (R47 to R50), management packets (R57) and Thyme's tick (R62). -/

namespace Sys2Proof.Machine

/-! Sessions. -/

/-- The open secured session that a request speaks in. -/
def openSess (b : Block) (tr : Option Transport) (n : Nat) : Option Sess :=
  b.trust.att.sess.find? (fun s => s.num == n && s.done && (match tr with | some t => s.tr == t | none => true))

/-- An SPDM request inside a secured session that is not the management one. -/
def tenantSess (b : Block) (r : SpdmReq) : Option Sess :=
  match r.sess with
  | some n => (openSess b (some r.tr) n).filter (fun s => !s.mgmt)
  | none => none

/-- A management request speaks in an open management session (R310). -/
def mgmtSess (b : Block) (n : Option Nat) : Bool :=
  match n with
  | some n => (openSess b none n).any (fun s => s.mgmt)
  | none => false

/-- A management session that is open. A write on ZCP_ carries no session number: with the M attribute, which comes only
from the management interface (R53), it is taken to be made in the session that is open (log 20, DEDUCED). -/
def anyMgmt (b : Block) : Option Nat := (b.trust.att.sess.find? (fun s => mgmtSess b (some s.num))).map (·.num)

/-! The mailbox. -/

/-- The mailbox answers. -/
def mailUp (b : Block) : Bool :=
  match primaryInst b with
  | some i => (getInst b i).released
  | none => false

/-- An answer in the requester's half: INT[0] or INT[1]. -/
def mbAnswer (m : MbReq) (code : Nat) (st : Status) (data : Bytes) (b : Block) : Block :=
  let a : MbAns := { code := code, token := m.token, status := st, data := data }
  if m.attr = .m then raisePrimary 1 { b with trust := { b.trust with mbM := some a } }
  else raisePrimary 0 { b with trust := { b.trust with mbK := some a } }

/-- A mailbox command: in the safe state it is answered with what LCY_BOOT shows (R380); from a requester without the right
it is refused and counted (R311); accepted, it is journalled (R360) and runs. -/
def mbCommand (m : MbReq) (code : Nat) (who : List Attr) (f : MbJob → Block → Block) (b : Block) : Block :=
  if b.boot.halted then
    { b with trust := { b.trust with mbK := some { code := code, token := m.token, status := b.boot.status, data := [BitVec.ofNat 8 b.boot.step] } } }
  else if !mailUp b then b
  else if !who.contains m.attr || (m.attr == .m && !mgmtSess b m.sess) then
    mbAnswer m code .notOwner [] (portError { inst := (primaryInst b).getD 0 } (0x20 + attrNum m.attr) b)
  else
    match jnlAccept (if m.attr = .m then 3 else 2) 0 code 0 0 m.token 0 b with
    | none => raisePrimary 15 b
    | some (q, b) => f { code := code, req := m, jseq := q, arg := 0 } b

/-- A mailbox command ends. -/
def mbEnd (j : MbJob) (st : Status) (data : Bytes) (b : Block) : Block :=
  mbAnswer j.req j.code st data (jnlComplete j.jseq st 0 b)

/-- A mailbox command that has started and ends later. -/
def mbHold (j : MbJob) (b : Block) : Block := { b with trust := { b.trust with jobs := b.trust.jobs ++ [j] } }

/-- End every command that waits under a code for an object. -/
def mbFinish (code arg : Nat) (st : Status) (data : Bytes) (b : Block) : Block :=
  let mine := fun (j : MbJob) => j.code == code && j.arg == arg
  (b.trust.jobs.filter mine).foldl (fun b j => mbEnd j st data b)
    { b with trust := { b.trust with jobs := b.trust.jobs.filter (fun j => !mine j) } }

/-! Host link keys (R47 to R50). -/

/-- The next command is driven on HK_. -/
def hkDrive (b : Block) : Block :=
  updIde (fun i =>
    match i.drive, i.ack, i.wait with
    | none, none, c :: t => { i with drive := some c, wait := t }
    | _, _, _ => i) b

/-- A key command for the engine. -/
def hkPush (c : HkCmd) (b : Block) : Block := hkDrive (updIde (fun i => { i with wait := i.wait ++ [c] }) b)

/-- Issue stop for a stream. -/
def ideStop (stream : BitVec 8) (b : Block) : Block :=
  hkPush { op := 2, stream := stream, sub := 0, dir := false, kset := false, key := 0, ifv := 0 } b

/-- Issue stop for every programmed stream (R50). -/
def ideStopAll (b : Block) : Block := (b.trust.ide.streams.map (·.num)).foldl (fun b s => ideStop s b) b

/-- Streams programmed or about to be. -/
def ideStreams (i : Ide) : List (BitVec 8) :=
  (i.streams.map (·.num) ++ ((i.wait ++ i.drive.toList ++ i.ack.toList).filter (fun c => c.op == 0)).map (·.stream)).eraseDups

/-- The answer to the TSM (KP_ACK, K_GOSTOP_ACK), without the key. -/
def ideAnswer (c : HkCmd) (ok : Bool) (b : Block) : Block :=
  raisePrimary 0 (updIde (fun i => { i with answer := some ({ c with key := 0, ifv := 0 }, ok) }) b)

/-- A key-management request in a secured session over DOE. -/
def ideRequest (r : SpdmReq) (c : HkCmd) (b : Block) : Block :=
  if !mailUp b || r.tr != .doe || (tenantSess b r).isNone then b else hkPush c b

/-- IDE_KEY_PROG (R47). -/
def effIdeKeyProg (r : SpdmReq) (stream : BitVec 8) (sub : BitVec 2) (dir kset : Bool) (key : Key) (ifv : BitVec 64) (b : Block) : Block :=
  let c : HkCmd := { op := 0, stream := stream, sub := sub, dir := dir, kset := kset, key := key, ifv := ifv }
  if mailUp b && r.tr == .doe && (tenantSess b r).isSome && !(ideStreams b.trust.ide).contains stream && decide (8 ≤ (ideStreams b.trust.ide).length) then
    ideAnswer c false (raisePrimary 12 (count { inst := (primaryInst b).getD 0 } (evPort 12) b))
  else ideRequest r c b

/-- IDE_K_SET_GO (R49). -/
def effIdeKSetGo (r : SpdmReq) (stream : BitVec 8) (sub : BitVec 2) (dir kset : Bool) (b : Block) : Block :=
  ideRequest r { op := 1, stream := stream, sub := sub, dir := dir, kset := kset, key := 0, ifv := 0 } b

/-- IDE_K_SET_STOP (R49). -/
def effIdeKSetStop (r : SpdmReq) (stream : BitVec 8) (sub : BitVec 2) (dir kset : Bool) (b : Block) : Block :=
  ideRequest r { op := 2, stream := stream, sub := sub, dir := dir, kset := kset, key := 0, ifv := 0 } b

/-- HK_READY_ACCEPT (R49): HK_KEY falls to zero. -/
def effHkReadyAccept (b : Block) : Block :=
  match b.trust.ide.drive with
  | some c => updIde (fun i => { i with drive := none, ack := some { c with key := 0 } }) b
  | none => b

/-- What an acknowledged command does to the engine's streams. -/
def ideApply (c : HkCmd) (l : List Stream) : List Stream :=
  let k := (c.sub, c.dir, c.kset)
  if c.op = 0 then
    if l.any (fun s => s.num == c.stream) then
      updateWhere (fun s => s.num == c.stream) (fun s => { s with prog := k :: s.prog.filter (· != k) }) l
    else l ++ [{ num := c.stream, prog := [k], active := [] }]
  else if c.op = 1 then
    updateWhere (fun s => s.num == c.stream) (fun s => { s with active := k :: s.active.filter (fun x => !(x.1 == c.sub && x.2.1 == c.dir)) }) l
  else l.filter (fun s => s.num != c.stream)

/-- A key command fails (R49): the answer fails, the failure is counted, the stream is stopped. A stop that the block itself gave is
answered, and stopped again where it fails, as one that the TSM asked for (log 116, DESIGN CHOICE: R49 and R50 say nothing of it). -/
def ideFail (c : HkCmd) (k : Nat) (b : Block) : Block :=
  let b := updIde (fun i => { i with ack := none }) b
  ideStop c.stream (ideAnswer c false (count { inst := (primaryInst b).getD 0 } (evPort k) b))

/-- HK_ACK (R49, R69), of a stop that the block itself gave as of one that the TSM asked for (log 116, DESIGN CHOICE). -/
def effHkAck (err : Bool) (b : Block) : Block :=
  match b.trust.ide.ack with
  | none => match primaryInst b with
    | some i => portError { inst := i } 13 b
    | none => b
  | some c =>
    if err then ideFail c 14 b
    else hkDrive (ideAnswer c true (updIde (fun i => { i with ack := none, streams := ideApply c i.streams }) b))

/-- HK_ACK_TIMEOUT (R49). -/
def effHkAckTimeout (b : Block) : Block :=
  match b.trust.ide.ack with
  | none => b
  | some c => ideFail c 15 b

/-! Management packets (R57, R69). -/

/-- Beats that frame one packet: SOM on the first, EOM on the last. -/
def mgFramed (l : List MgBeat) : Bool :=
  !l.isEmpty && l.zipIdx.all (fun e => e.1.som == (e.2 == 0) && e.1.eom == (e.2 + 1 == l.length))

/-- The bytes of a packet: all four of every beat, as many as LAST says of the EOM beat. -/
def mgBytes (l : List MgBeat) : Bytes :=
  l.flatMap (fun x => (leBytes 4 x.data.toNat).take (if x.eom then x.last.toNat + 1 else 4))

/-- MG_PACKET (R57): MCTP control and SPDM up to 256 bytes are taken, everything else is dropped and counted. -/
def effMgPacket (type : BitVec 8) (beats : List MgBeat) (b : Block) : Block :=
  match primaryInst b with
  | none => b
  | some i =>
    if !(getInst b i).released then b
    else if mgFramed beats ∧ (mgBytes beats).length ≤ 256 ∧ (type = 0x00 ∨ type = 0x05 ∨ type = 0x06) then
      { b with trust := { b.trust with mgLast := some (type.toNat, mgBytes beats) } }
    else portError { inst := i } 11 b

/-! Time (R62). -/

/-- TM_TICK at an instance (R62): `interp` is its interpolated time of the pulse's edge. A tick that is more than 20 ns early or 1 µs
late is a time fault of that instance. The instances' times agree within 2 ns: one time stands for all (log 115). -/
def effTmTick (i : Nat) (time interp : BitVec 64) (b : Block) : Block :=
  if b.boot.hard || !(getInst b i).built || decide (interp.toNat < b.time.toNat) then b
  else if time.toNat + 20 < interp.toNat ∨ interp.toNat + 1000 < time.toNat then
    raise i 13 (portError { inst := i } 10 { b with time := interp })
  else { b with time := time }

end Sys2Proof.Machine
end

