-- ==== Sys2Proof/Machine/Curve.lean ====
section
/-! DEFINITION. ECDSA and point multiplication on P-384 (FIPS 186-5, R247, R263, R278): the operations are written over numbers;
points are pairs of coordinates, nothing is the point at infinity. -/

namespace Sys2Proof.Machine

/-- A number to a power, reduced; `fuel` bits of the exponent. -/
def powMod (m : Nat) : Nat → Nat → Nat → Nat
  | 0, _, _ => 1 % m
  | fuel + 1, b, e =>
    let rest := powMod m fuel (b * b % m) (e / 2)
    if e % 2 = 1 then b * rest % m else rest

/-- The inverse modulo a prime, by Fermat. -/
def invMod (p x : Nat) : Nat := powMod p 384 (x % p) (p - 2)

/-- The field prime of P-384. -/
def ecP : Nat := 2 ^ 384 - 2 ^ 128 - 2 ^ 96 + 2 ^ 32 - 1
/-- The order of P-384. -/
def ecN : Nat := 0xffffffffffffffffffffffffffffffffffffffffffffffffc7634d81f4372ddf581a0db248b0a77aecec196accc52973
/-- The coefficient b of P-384. -/
def ecB : Nat := 0xb3312fa7e23ee7e4988e056be3f82d19181d9c6efe8141120314088f5013875ac656398d8a2ed19d2a85c8edd3ec2aef
/-- The base point of P-384. -/
def ecBase : Nat × Nat :=
  (0xaa87ca22be8b05378eb1c71ef320ad746e1d3b628ba79b9859f741e082542a385502f25dbf55296c3a545e3872760ab7,
   0x3617de4a96262c6f5d9e98bf9292dc29f8f41dbd289a147ce9da3113b5f0b8c00a60b1ce1d7e819d7a431d7c90ea0e5f)

/-- A pair of coordinates lies on the curve. -/
def ecOn (q : Nat × Nat) : Bool :=
  decide (q.1 < ecP) && decide (q.2 < ecP) && decide (q.2 * q.2 % ecP = (q.1 * q.1 * q.1 + (ecP - 3) * q.1 + ecB) % ecP)

/-- The third point of the line of slope `s` through two points, reflected. -/
def ecChord (s : Nat) (a b : Nat × Nat) : Nat × Nat :=
  let x := (s * s + 2 * ecP - a.1 - b.1) % ecP
  (x, (s * (ecP + a.1 - x) + ecP - a.2) % ecP)

/-- The sum of two points. -/
def ecAdd : Option (Nat × Nat) → Option (Nat × Nat) → Option (Nat × Nat)
  | none, b => b
  | a, none => a
  | some a, some b =>
    if a.1 ≠ b.1 then some (ecChord ((b.2 + ecP - a.2) * invMod ecP (b.1 + ecP - a.1) % ecP) a b)
    else if a.2 = b.2 ∧ a.2 ≠ 0 then some (ecChord ((3 * a.1 * a.1 + ecP - 3) * invMod ecP (2 * a.2) % ecP) a b)
    else none

/-- A multiple of a point; `fuel` bits of the factor. -/
def ecMul : Nat → Nat → Option (Nat × Nat) → Option (Nat × Nat)
  | 0, _, _ => none
  | fuel + 1, k, q =>
    let rest := ecMul fuel (k / 2) (ecAdd q q)
    if k % 2 = 1 then ecAdd q rest else rest

/-- Coordinates as bytes, and back. -/
def ecXY (q : Nat × Nat) : Bytes := beBytes 48 q.1 ++ beBytes 48 q.2
def ecOfXY (b : Bytes) : Nat × Nat := (beNat (b.take 48), beNat ((b.drop 48).take 48))

/-- A multiple of the base point by a factor from 1 to the order less one: its coordinates. -/
def ecTimesBase (d : Nat) : Nat × Nat := (ecMul 384 d (some ecBase)).getD (0, 0)

/-- A number of 384 free bits brought into 1 to n − 1 as Table 9.3 does it. -/
def ecScalar (v : Nat) : Nat := v % (ecN - 1) + 1

/-- The private number of a seed (Table 9.3). -/
def ecSecret (seed : Key) : Nat := ecScalar (beNat (expandSeed 48 2 seed))

/-- The uncompressed public key of a seed, 97 bytes, byte 0 lowest (R263). -/
def ecPublic (seed : Key) : BitVec 776 := BitVec.ofNat 776 (leNat ((4 : Byte) :: ecXY (ecTimesBase (ecSecret seed))))

/-- The signature r ‖ s of a 48-byte digest under one nonce; nothing where r or s is zero. -/
def ecSignWith (d : Nat) (digest : Bytes) (k : Nat) : Option Bytes :=
  let r := (ecTimesBase k).1 % ecN
  let s := invMod ecN k * (beNat (digest.take 48) + r * d) % ecN
  if r = 0 ∨ s = 0 then none else some (beBytes 48 r ++ beBytes 48 s)

/-- ECDSA signature of a digest under a seed's key, with the nonces of the `n`-th draw in turn (R263). -/
def ecSign (seed : Key) (digest : Bytes) (n : Nat) : BitVec 768 :=
  BitVec.ofNat 768 (leNat (((List.range 256).findSome? (fun t => ecSignWith (ecSecret seed) digest (ecScalar (Config.ecNonce n t).toNat))).getD []))

/-- ECDSA verification of an uncompressed public key, a digest and a signature (R263). -/
def ecVerify (pub digest sig : Bytes) : Bool :=
  let q := ecOfXY (pub.drop 1)
  let (r, s) := ecOfXY sig
  if pub.take 1 = [4] ∧ pub.length = 97 ∧ ecOn q = true ∧ 0 < r ∧ r < ecN ∧ 0 < s ∧ s < ecN then
    let w := invMod ecN s
    match ecAdd (ecMul 384 (beNat (digest.take 48) * w % ecN) (some ecBase)) (ecMul 384 (r * w % ecN) (some q)) with
    | some x => decide (x.1 % ecN = r)
    | none => false
  else false

/-- The shared point of an exchange on secp384r1 (R278): its x coordinate; nothing for a point that is not on the curve. -/
def ecShared (d : Nat) (other : Bytes) : Option Bytes :=
  if ecOn (ecOfXY other) then (ecMul 384 d (some (ecOfXY other))).map (fun x => beBytes 48 x.1) else none

end Sys2Proof.Machine
end

