-- ==== Sys2Proof/Machine/Lattice.lean ====
section
/-! DEFINITION. ML-KEM-1024 (FIPS 203) and ML-DSA-87 (FIPS 204) as the SCU and the Mint run them (R247, R262, R263). A
polynomial is the list of its 256 coefficients, constant first. The transforms are written as what they mean: the values of a
polynomial at powers of a root of unity. -/

namespace Sys2Proof.Machine

/-- A polynomial, or its transform. -/
abbrev Poly := List Nat

/-- Sum of two polynomials, and difference. -/
def polyAdd (q : Nat) (f g : Poly) : Poly := List.zipWith (fun a b => (a + b) % q) f g
def polySub (q : Nat) (f g : Poly) : Poly := List.zipWith (fun a b => (a + q - b % q) % q) f g

/-- The value of a polynomial at a point. -/
def polyAt (q x : Nat) (f : Poly) : Nat := f.foldr (fun a v => (a + x * v) % q) 0

/-- Coefficients from values: `scale` times the sum of the values turned back by the points' inverses, one power a coefficient. -/
def polyFrom (q scale : Nat) (back : List Nat) : Nat → List Nat → Poly
  | 0, _ => []
  | n + 1, v => v.foldl (· + ·) 0 * scale % q :: polyFrom q scale back n (List.zipWith (fun a x => a * x % q) v back)

/-- The low `n` bits of a number the other way round. -/
def bitRev (n i : Nat) : Nat := (List.range n).foldl (fun a k => 2 * a + (i >>> k) % 2) 0

/-- The odd powers of a root of unity, in bit-reversed order. -/
def oddPowers (q root bits : Nat) : List Nat := (List.range (2 ^ bits)).map (fun i => powMod q 24 root (2 * bitRev bits i + 1))

/-- The product of a matrix's row with a vector. -/
def dotWith (mul : Poly → Poly → Poly) (q : Nat) (row v : List Poly) : Poly :=
  (List.zipWith mul row v).foldl (polyAdd q) (List.replicate 256 0)

/-- The columns of a square matrix as rows. -/
def turned (n : Nat) (m : List (List Poly)) : List (List Poly) := (List.range n).map (fun i => m.map (fun r => r.getD i []))

/-- Coefficients of `d` bits in bytes, and the first 256 of `d` bits out of bytes. -/
def packBits (d : Nat) (f : Poly) : Bytes := leBytes (32 * d) (f.foldr (fun a v => a % 2 ^ d + 2 ^ d * v) 0)
def unpackBits (d : Nat) (b : Bytes) : Poly :=
  let v := leNat (b.take (32 * d))
  (List.range 256).map (fun i => (v >>> (d * i)) % 2 ^ d)

/-- The pieces of a byte string that hold `n` polynomials of `d` bits. -/
def unpackAll (n d : Nat) (b : Bytes) : List Poly := (List.range n).map (fun i => unpackBits d (b.drop (32 * d * i)))

/-! ### ML-KEM-1024 -/

def kemQ : Nat := 3329

/-- The moduli X² − γ of the transform. -/
def kemGammas : List Nat := oddPowers kemQ 17 7
def kemBack : List Nat := oddPowers kemQ (invMod kemQ 17) 7

/-- Even and odd coefficients. -/
def splitPoly : Poly → Poly × Poly
  | a :: b :: t => let r := splitPoly t; (a :: r.1, b :: r.2)
  | _ => ([], [])

/-- Even and odd coefficients together again. -/
def mergePoly (e o : Poly) : Poly := (List.zip e o).flatMap (fun x => [x.1, x.2])

/-- The transform: a polynomial modulo each X² − γ, and back. -/
def kemTo (f : Poly) : Poly :=
  let r := splitPoly f
  kemGammas.flatMap (fun g => [polyAt kemQ g r.1, polyAt kemQ g r.2])
def kemFrom (f : Poly) : Poly :=
  let r := splitPoly f
  let side := polyFrom kemQ (invMod kemQ 128) kemBack 128
  mergePoly (side r.1) (side r.2)

/-- The product of two transforms. -/
def kemMul (f g : Poly) : Poly :=
  let (a, b) := splitPoly f
  let (c, d) := splitPoly g
  mergePoly
    (List.zipWith (fun x y => (x + y) % kemQ) (List.zipWith (· * ·) a c)
      (List.zipWith (· * ·) kemGammas (List.zipWith (fun x y => x * y % kemQ) b d)))
    (List.zipWith (fun x y => (x + y) % kemQ) (List.zipWith (· * ·) a d) (List.zipWith (· * ·) b c))

/-- A transform drawn from a seed: twelve-bit candidates below q, in order (16 blocks of SHAKE128 are enough). -/
def kemSample (seed : Bytes) : Poly :=
  (((chunksOf 3 896 (shake128 seed 2688)).flatMap (fun b =>
    let v := leNat b
    [v % 4096, v / 4096])).filter (fun d => decide (d < kemQ))).take 256

/-- The matrix of a seed. -/
def kemMatrix (rho : Bytes) : List (List Poly) :=
  (List.range 4).map (fun i => (List.range 4).map (fun j => kemSample (rho ++ [BitVec.ofNat 8 j, BitVec.ofNat 8 i])))

/-- A small polynomial: two bits less two bits. -/
def kemSmall (seed : Bytes) (n : Nat) : Poly :=
  (unpackBits 4 (shake256 (seed ++ [BitVec.ofNat 8 n]) 128)).map (fun v => (v % 2 + v / 2 % 2 + kemQ - v / 4 % 2 - v / 8 % 2) % kemQ)

/-- Small polynomials numbered from `n`. -/
def kemSmalls (seed : Bytes) (n : Nat) : List Poly := (List.range 4).map (fun i => kemSmall seed (n + i))

/-- Rounding to `d` bits, and back. -/
def kemPress (d : Nat) (f : Poly) : Poly := f.map (fun x => (x * 2 ^ d + kemQ / 2) / kemQ % 2 ^ d)
def kemSwell (d : Nat) (f : Poly) : Poly := f.map (fun y => (y * kemQ + 2 ^ (d - 1)) / 2 ^ d)

/-- Encryption of 32 bytes under an encapsulation key with 32 bytes of randomness. -/
def kemEncrypt (ek m r : Bytes) : Bytes :=
  let t := (unpackAll 4 12 ek).map (·.map (· % kemQ))
  let y := (kemSmalls r 0).map kemTo
  let u := List.zipWith (fun row e => polyAdd kemQ (kemFrom (dotWith kemMul kemQ row y)) e) (turned 4 (kemMatrix (ek.drop 1536))) (kemSmalls r 4)
  let v := polyAdd kemQ (polyAdd kemQ (kemFrom (dotWith kemMul kemQ t y)) (kemSmall r 8)) (kemSwell 1 (unpackBits 1 m))
  u.flatMap (fun f => packBits 11 (kemPress 11 f)) ++ packBits 5 (kemPress 5 v)

/-- The parts d, z of a seed expanded for ML-KEM-1024 (Table 9.3), with the secret vector and the encapsulation key they give. -/
def kemKeys (seed : Key) : Bytes × List Poly × Bytes :=
  let dz := expandSeed 64 3 seed
  let g := sha3 64 (dz.take 32 ++ [4])
  let s := (kemSmalls (g.drop 32) 0).map kemTo
  let e := (kemSmalls (g.drop 32) 4).map kemTo
  let t := List.zipWith (fun row x => polyAdd kemQ (dotWith kemMul kemQ row s) x) (kemMatrix (g.take 32)) e
  (dz.drop 32, s, t.flatMap (packBits 12) ++ g.take 32)

/-- The encapsulation key of a seed, 1,568 bytes, byte 0 lowest. -/
def kemPublic (seed : Key) : BitVec 12544 := BitVec.ofNat 12544 (leNat (kemKeys seed).2.2)

/-- Shared secret and ciphertext of 32 chosen bytes to an encapsulation key. -/
def kemEncaps (ek : Bytes) (m : Key) : Key × Bytes :=
  let g := sha3 64 (keyBytes m ++ sha3 32 ek)
  (keyOf g, kemEncrypt ek (keyBytes m) (g.drop 32))

/-- Decapsulation under a seed (R262): a ciphertext that does not come out again gives an unrelated secret. -/
def kemDecaps (seed : Key) (ct : Bytes) : Key :=
  let (z, s, ek) := kemKeys seed
  let u := (unpackAll 4 11 ct).map (fun f => kemTo (kemSwell 11 f))
  let v := kemSwell 5 (unpackBits 5 (ct.drop 1408))
  let m := packBits 1 (kemPress 1 (polySub kemQ v (kemFrom (dotWith kemMul kemQ s u))))
  let g := sha3 64 (m ++ sha3 32 ek)
  if kemEncrypt ek m (g.drop 32) = ct then keyOf g else keyOf (shake256 (z ++ ct) 32)

/-! ### ML-DSA-87 -/

def dsaQ : Nat := 8380417

/-- Half the width of a high-bits class, and the bound of the masks. -/
def dsaGamma2 : Nat := (dsaQ - 1) / 32
def dsaGamma1 : Nat := 2 ^ 19

def dsaPoints : List Nat := oddPowers dsaQ 1753 8
def dsaBack : List Nat := oddPowers dsaQ (invMod dsaQ 1753) 8

/-- The transform: the values at the odd powers of 1753, and back. -/
def dsaTo (f : Poly) : Poly := dsaPoints.map (fun x => polyAt dsaQ x f)
def dsaFrom (f : Poly) : Poly := polyFrom dsaQ (invMod dsaQ 256) dsaBack 256 f

/-- The product of two transforms. -/
def dsaMul (f g : Poly) : Poly := List.zipWith (fun a b => a * b % dsaQ) f g

/-- The polynomials of a matrix and a vector, both transforms. -/
def dsaTimes (m : List (List Poly)) (v : List Poly) : List Poly := m.map (fun row => dsaFrom (dotWith dsaMul dsaQ row v))

/-- The matrix of a seed: 23-bit candidates below q, in order. -/
def dsaMatrix (rho : Bytes) : List (List Poly) :=
  (List.range 8).map (fun r => (List.range 7).map (fun s =>
    (((chunksOf 3 896 (shake128 (rho ++ [BitVec.ofNat 8 s, BitVec.ofNat 8 r]) 2688)).map (fun b => leNat b % 2 ^ 23)).filter
      (fun v => decide (v < dsaQ))).take 256))

/-- A secret polynomial: half bytes below 15, as 2 less their remainder by 5. -/
def dsaSmall (seed : Bytes) (n : Nat) : Poly :=
  (((shake256 (seed ++ leBytes 2 n) 1088).flatMap (fun b => [b.toNat % 16, b.toNat / 16])).filter (fun v => decide (v < 15))).take 256
    |>.map (fun v => (dsaQ + 2 - v % 5) % dsaQ)

/-- The distance of a residue from 0. -/
def dsaSize (x : Nat) : Nat := min x (dsaQ - x)

/-- Every coefficient of every polynomial lies below a bound. -/
def dsaBelow (bound : Nat) (l : List Poly) : Bool := l.all (fun f => f.all (fun x => decide (dsaSize x < bound)))

/-- High bits of a residue, and its low part as a residue. -/
def dsaHigh (x : Nat) : Nat := (x + dsaGamma2 - 1) / (2 * dsaGamma2) % 16
def dsaLow (x : Nat) : Nat := (x + dsaQ - dsaHigh x * (2 * dsaGamma2)) % dsaQ

/-- The encoding of high bits. -/
def dsaHighBytes (w : List Poly) : Bytes := w.flatMap (packBits 4)

/-- The challenge of a commitment hash: 60 coefficients of 1 or q − 1. -/
def dsaBall (c : Bytes) : Poly :=
  let s := shake256 c 1088
  let signs := leNat (s.take 8)
  let place := fun (a : Poly × Bytes) i =>
    let rest := a.2.dropWhile (fun j => decide (i < j.toNat))
    let j := (rest.getD 0 0).toNat
    let one := if signs.testBit (i - 196) then dsaQ - 1 else 1
    (((a.1.set i (a.1.getD j 0)).set j one), rest.drop 1)
  ((List.range' 196 60).foldl place (List.replicate 256 0, s.drop 8)).1

/-- A key pair of a seed (Table 9.3: the expanded seed is ξ). -/
structure DsaKeys where
  rho : Bytes
  mac : Bytes
  s1  : List Poly
  s2  : List Poly
  t0  : List Poly
  pub : Bytes

def dsaKeys (seed : Key) : DsaKeys :=
  let h := shake256 (expandSeed 32 1 seed ++ [8, 7]) 128
  let rho := h.take 32
  let s1 := (List.range 7).map (dsaSmall ((h.drop 32).take 64))
  let s2 := (List.range 8).map (fun i => dsaSmall ((h.drop 32).take 64) (7 + i))
  let t := List.zipWith (polyAdd dsaQ) (dsaTimes (dsaMatrix rho) (s1.map dsaTo)) s2
  let t1 := t.map (·.map (fun x => (x + 4095) / 8192))
  { rho := rho, mac := h.drop 96, s1 := s1, s2 := s2,
    t0 := List.zipWith (polySub dsaQ) t (t1.map (·.map (· * 8192))), pub := rho ++ t1.flatMap (packBits 10) }

/-- The public key of a seed, 2,592 bytes, byte 0 lowest. -/
def dsaPublic (seed : Key) : BitVec 20736 := BitVec.ofNat 20736 (leNat (dsaKeys seed).pub)

/-- What is signed of a pure message with an empty context string (R263). -/
def dsaMu (pub msg : Bytes) : Bytes := shake256 (shake256 pub 64 ++ [0, 0] ++ msg) 64

/-- The bytes of a signature's hints. -/
def dsaHintBytes (h : List Poly) : Bytes :=
  let at1 := h.map (fun f => (List.range 256).filter (fun i => f.getD i 0 = 1))
  let places := at1.flatten
  (places.map (BitVec.ofNat 8) ++ List.replicate (75 - places.length) 0)
    ++ (List.range 8).map (fun i => BitVec.ofNat 8 ((at1.take (i + 1)).flatten.length))

/-- One attempt at a signature; nothing where it is rejected. -/
def dsaTry (k : DsaKeys) (a : List (List Poly)) (mu seed : Bytes) (kappa : Nat) : Option Bytes :=
  let y := (List.range 7).map (fun r => (unpackBits 20 (shake256 (seed ++ leBytes 2 (kappa + r)) 640)).map (fun v => (dsaGamma1 + dsaQ - v) % dsaQ))
  let w := dsaTimes a (y.map dsaTo)
  let hash := shake256 (mu ++ dsaHighBytes (w.map (·.map dsaHigh))) 64
  let c := dsaTo (dsaBall hash)
  let by' := fun (l : List Poly) => l.map (fun f => dsaFrom (dsaMul c (dsaTo f)))
  let z := List.zipWith (polyAdd dsaQ) y (by' k.s1)
  let r := List.zipWith (polySub dsaQ) w (by' k.s2)
  let ct0 := by' k.t0
  let hints : List Poly := List.zipWith (fun f g => List.zipWith (fun x t => if dsaHigh x = dsaHigh ((x + t) % dsaQ) then 0 else 1) f g) r ct0
  let ones : Nat := (hints.map (fun f => f.foldl (· + ·) 0)).foldl (· + ·) 0
  if dsaBelow (dsaGamma1 - 120) z && dsaBelow (dsaGamma2 - 120) (r.map (·.map dsaLow)) && dsaBelow dsaGamma2 ct0 && decide (ones ≤ 75) then
    some (hash ++ z.flatMap (fun f => packBits 20 (f.map (fun x => (dsaGamma1 + dsaQ - x) % dsaQ))) ++ dsaHintBytes hints)
  else none

/-- A hedged signature of a message (R263) with 32 bytes of randomness: at most 256 attempts (R267). -/
def dsaSigning (seed : Key) (msg : Bytes) (rnd : Key) : Option Bytes :=
  let k := dsaKeys seed
  let a := dsaMatrix k.rho
  let mu := dsaMu k.pub msg
  let start := shake256 (k.mac ++ keyBytes rnd ++ mu) 64
  (List.range 256).findSome? (fun t => dsaTry k a mu start (7 * t))

/-- A signature of a message with the `n`-th draw, 4,627 bytes, byte 0 lowest; zero where every attempt fails. -/
def dsaSign (seed : Key) (msg : Bytes) (n : Nat) : BitVec 37016 :=
  BitVec.ofNat 37016 (leNat ((dsaSigning seed msg (Config.draw n)).getD []))

/-- The hints of a signature's last 83 bytes; nothing where they are malformed. -/
def dsaHints (b : Bytes) : Option (List Poly) :=
  let ends := (b.drop 75).map (·.toNat)
  let rows := (List.range 8).map (fun i => (((b.take (ends.getD i 0)).drop (if i = 0 then 0 else ends.getD (i - 1) 0)).map (·.toNat)))
  let rises := (List.zip (0 :: ends) ends).all (fun x => decide (x.1 ≤ x.2 ∧ x.2 ≤ 75))
  let ordered := rows.all (fun l => (List.zip l (l.drop 1)).all (fun x => decide (x.1 < x.2)))
  if rises && ordered && ((b.take 75).drop (ends.getD 7 0)).all (· == 0) then
    some (rows.map (fun l => (List.range 256).map (fun i => if l.contains i then 1 else 0)))
  else none

/-- High bits corrected by a hint. -/
def dsaUse (hint x : Nat) : Nat :=
  if hint = 0 then dsaHigh x
  else if 0 < dsaLow x ∧ dsaLow x < dsaQ / 2 then (dsaHigh x + 1) % 16 else (dsaHigh x + 15) % 16

/-- ML-DSA-87 verification of public key, signature and message (R263). -/
def dsaVerify (pub sig msg : Bytes) : Bool :=
  match dsaHints (sig.drop 4544) with
  | none => false
  | some hints =>
    let hash := sig.take 64
    let c := dsaTo (dsaBall hash)
    let z := (unpackAll 7 20 (sig.drop 64)).map (·.map (fun v => (dsaGamma1 + dsaQ - v) % dsaQ))
    let t1 := (unpackAll 8 10 (pub.drop 32)).map (fun f => dsaMul c (dsaTo (f.map (· * 8192))))
    let az := (dsaMatrix (pub.take 32)).map (fun row => dotWith dsaMul dsaQ row (z.map dsaTo))
    let w := List.zipWith (fun f g => dsaFrom (polySub dsaQ f g)) az t1
    let w1 := List.zipWith (fun h f => List.zipWith dsaUse h f) hints w
    decide (pub.length = 2592 ∧ sig.length = 4627) && dsaBelow (dsaGamma1 - 120) z
      && shake256 (dsaMu pub msg ++ dsaHighBytes w1) 64 == hash

end Sys2Proof.Machine
end

