-- ==== Sys2Proof/Machine/Dice.lean ====
section
/-! DEFINITION. The package's identity (R276, R277): the DICE layers' key pairs in the Mint's private store, what they sign, and the
certificates that the boot ROM and Sage issue. -/

namespace Sys2Proof.Machine

def updAtt (f : Att → Att) (b : Block) : Block := { b with trust := { b.trust with att := f b.trust.att } }

/-- A layer begins (R276): its CDI takes the place of the one before, and the seeds of its key pairs are held; algorithm 1 is ML-DSA-87,
2 ECDSA P-384. -/
def beginLayer (layer : Nat) (cdi : Key) (b : Block) : Block :=
  updMint (fun m => { m with cdi := Sparse.set 0 [] layer cdi,
                             layers := m.layers ++ [1, 2].map (fun a => (layer, a, kdfKey cdi "dice-id" [BitVec.ofNat 8 a])) }) b

/-- The CDI of the layer after (R276). -/
def nextCdi (b : Block) (layer : Nat) (measurement : Digest) : Key :=
  kdfKey (Sparse.get 0 b.keys.mint.cdi layer) "dice-cdi" (leBytes 48 measurement.toNat)

/-- Key-pair seed of a DICE layer. -/
def layerSeed (b : Block) (layer alg : Nat) : Key :=
  ((b.keys.mint.layers.find? (fun e => e.1 == layer && e.2.1 == alg)).map (fun e => e.2.2)).getD 0

/-- Public key of a key-pair seed, as bytes. -/
def seedPublic (alg : Nat) (seed : Key) : Bytes :=
  if alg = 1 then leBytes 2592 (dsaPublic seed).toNat else leBytes 97 (ecPublic seed).toNat

/-- Signature of a byte string under a key-pair seed with the `n`-th draw, as bytes. -/
def seedSign (alg : Nat) (seed : Key) (msg : Bytes) (n : Nat) : Bytes :=
  if alg = 1 then leBytes 4627 (dsaSign seed msg n).toNat else leBytes 96 (ecSign seed (sha384 msg) n).toNat

/-- Signatures of the layout alias over a byte string: with ECDSA P-384, and with ML-DSA-87 over its SHA-384 (R279). -/
def aliasEc (b : Block) (msg : Bytes) (n : Nat) : BitVec 768 := ecSign (layerSeed b 2 2) (sha384 msg) n
def aliasDsa (b : Block) (msg : Bytes) (n : Nat) : BitVec 37016 := dsaSign (layerSeed b 2 1) (sha384 msg) n

/-- A certificate for a public key, signed by a layer's key pair (R277). -/
def certify (layer alg issuer : Nat) (pub : Bytes) (tcb : Digest) (b : Block) : Block :=
  let (n, b) := fresh b
  let sig := seedSign alg (layerSeed b issuer alg) (Config.certBytes layer alg pub tcb) n
  updAtt (fun a => { a with own := a.own ++ [{ layer := layer, alg := alg, pub := pub, tcb := tcb, sig := sig }] }) b

/-- The certificates of a layer's key pairs, issued by the layer before it (Table 10.1). -/
def issueLayer (layer : Nat) (tcb : Digest) (b : Block) : Block :=
  [1, 2].foldl (fun b a => certify layer a (layer - 1) (seedPublic a (layerSeed b layer a)) tcb b) b

/-- The management identity's certificate, issued by the layout alias (R310); in BLANK there is no index 3. -/
def issueMgmt (b : Block) : Block :=
  if (getKey b 3).state = .active then certify 3 2 2 (seedPublic 2 (getKey b 3).key) 0 b else b

/-- The DeviceID certificates, by what they certify. -/
def deviceCerts (b : Block) : List AliasCert :=
  [1, 2].map (fun a => { layer := 0, alg := a, pub := seedPublic a (layerSeed b 0 a), tcb := 0, sig := [] })

/-- The certificates of an algorithm from the DeviceID to the layout alias (Table 10.2). -/
def chainOf (b : Block) (alg : Nat) : List AliasCert :=
  (deviceCerts b ++ b.trust.att.own).filter (fun c => c.alg == alg && decide (c.layer ≤ 2))

/-- What a slot holds (Table 10.2): in slot 0 the Ryudor chain once one was accepted, then the package's certificates, all of ECDSA
P-384; in slot 1 the management chain. -/
def slotCerts (b : Block) (slot : Nat) : List AliasCert :=
  chainOf b 2 ++ (if slot = 1 then b.trust.att.own.filter (fun c => c.layer == 3) else [])

/-- The bytes of a certificate: what is signed, and the signature. -/
def certText (c : AliasCert) : Bytes := Config.certBytes c.layer c.alg c.pub c.tcb ++ c.sig

/-- A slot's digest (GET_DIGESTS): SHA-384 of its chain. -/
def slotDigest (b : Block) (slot : Nat) : Digest :=
  digestOf (((b.trust.att.chain.map (fun c => c.certs)).getD []) ++ (slotCerts b slot).flatMap certText)

/-- The ML-KEM encapsulation key of index 4 and its digest (Table 10.3). -/
def importKey (b : Block) : BitVec 12544 := kemPublic (getKey b 4).key
def ekDigest (ek : BitVec 12544) : Digest := digestOf (leBytes 1568 ek.toNat)
def importDigest (b : Block) : Digest := ekDigest (importKey b)

/-- The key that wraps under an ML-KEM shared secret and its ciphertext (label "import", R262, R285, R289). -/
def importKek (ss : Key) (ct : Bytes) : Key := kdfKey ss "import" (sha384 ct)

/-- Encapsulation to an import key with the `n`-th draw: the ciphertext, and the wrapping key. -/
def sendKek (ek : BitVec 12544) (n : Nat) : BitVec 12544 × Key :=
  let r := kemEncaps (leBytes 1568 ek.toNat) (Config.draw n)
  (BitVec.ofNat 12544 (leNat r.2), importKek r.1 r.2)

/-- The wrapping key that a ciphertext to index 4 gives. -/
def takeKek (b : Block) (ct : BitVec 12544) : Key :=
  let text := leBytes 1568 ct.toNat
  importKek (kemDecaps (getKey b 4).key text) text

/-- Material unwrapped (AES key wrap with padding). -/
def unwrapKey (kek : Key) (blob : Bytes) : Option Key := (kwpUnwrap (keyBytes kek) blob).map keyOf

/-! Domain messages as bytes (R283). -/

/-- A byte string as numbers. -/
def bytesNum (x : Bytes) : List Nat := [x.length, leNat x]

/-- A certificate, and a chain, as numbers. -/
def certNum (c : AliasCert) : List Nat := [c.layer, c.alg] ++ bytesNum (certText c)
def chainNum (c : Option CertChain) : List Nat := (c.map (fun c => bytesNum c.certs)).getD []

/-- A measurement block in DMTF format (R279): index, specification, size; value type, size, value. -/
def blockBytes (x : MeasBlock) : Bytes :=
  [BitVec.ofNat 8 x.index, 1] ++ leBytes 2 (x.value.length + 3)
    ++ [BitVec.ofNat 8 ((Config.measType x.index).toNat + if x.raw then 128 else 0)] ++ leBytes 2 x.value.length ++ x.value

/-- Evidence, a binding and a policy as numbers. -/
def evidNums (e : Evidence) : List Nat :=
  [e.ek.toNat, e.nonce.toNat, e.fwHash.toNat, e.arb, e.layoutHash.toNat, e.lcState.toNat, Bool.toNat e.debug, e.ppPass.toNat, e.storeOpen.toNat,
    e.storeSeq.toNat, e.importGen.toNat] ++ bytesNum e.certs ++ bytesNum e.resp
def bindNums (e : Bind) : List Nat :=
  [e.pkg.toNat, e.ident.toNat, (match e.state with
    | .free => 0 | .admitted => 1 | .quarantined => 2), e.used, e.answered.toNat] ++ (e.ek.map (fun x => x.toNat)).toList
    ++ (e.evid.map evidNums).getD []
def policyNums (p : Policy) : List Nat :=
  [p.epochN, p.flags.toNat, p.domainId.toNat, p.dka.toNat, p.standby.toNat, p.maxMembers, p.minRoll] ++ p.fw.map (fun x => x.toNat)
    ++ p.layout.map (fun x => x.toNat)

/-- What a domain message says, as its kind and numbers. -/
def domNums : DomBody → Nat × List Nat
  | .join => (1, [])
  | .challenge n => (2, [n.toNat])
  | .evidence c own r => (3, chainNum c ++ own.flatMap certNum ++ (match r with
      | .measurements i _ l s => i :: bytesNum (l.flatMap blockBytes) ++ (match s with
          | some x => [x.1.toNat, x.2.toNat]
          | none => [])
      | _ => []))
  | .admitMsg a => (4, [a.ct.toNat] ++ bytesNum a.wrapped ++ [a.epochN.toNat, a.t0.toNat, a.grant.toNat, a.polHash.toNat, a.span.toNat, a.dka.toNat]
      ++ (match a.standby with
          | some x => [x.1.toNat, x.2.toNat]
          | none => []))
  | .refuse st => (5, [statusCode st])
  | .quarantine p => (6, [p.toNat])
  | .rebind p i => (7, [p.toNat, i.toNat])
  | .release p => (8, [p.toNat])
  | .leave => (9, [])
  | .bindQuery p c => (10, p.toNat :: (c.map (fun x => x.toNat)).toList)
  | .bindAnswer p e => (11, [p.toNat, e.ident.toNat, if e.state = .admitted then 1 else if e.state = .free then 0 else 2] ++ (e.ek.map (fun x => x.toNat)).toList)
  | .hello ek l => (12, ek.toNat :: l)
  | .helloAck ct l => (13, ct.toNat :: l.flatMap (fun x => [x.1, x.2.1] ++ bytesNum x.2.2))
  | .helloFin e => (14, [e])
  | .change c => (15, match c with
      | .enrol e ek r => [0, ek.toNat, r.toNat] ++ bindNums e
      | .drop p i => [1, p.toNat, i.toNat]
      | .clash a => [2, a.pkg.toNat, a.ident.toNat]
      | .keep p i => [3, p.toNat, i.toNat]
      | .grant m => [4, m]
      | .evidence e => 5 :: bindNums e)
  | .heartbeat => (16, [])
  | .heartbeatAck => (17, [])
  | .takeover => (18, [])
  | .takeoverAck => (19, [])
  | .epochGrant m => (20, [m])
  | .oosNotice => (21, [])
  | .pkgLost p => (22, [p.toNat])
  | .homeMask m => (23, [m.toNat])
  | .restored t => (24, [t.toNat])
  | .commit t => (25, [t.toNat])
  | .migAborted t => (26, [t.toNat])
  | .migKey t ct => (27, [t.toNat, ct.toNat])
  | .leaseRenew => (28, [])
  | .leaseReq => (29, [])
  | .leaseAnswer ok => (30, [ok.toNat])
  | .relinquish => (31, [])
  | .migAsk t => (32, [t.toNat])
  | .changeAck => (33, [])
  | .copy x => (34, [x.bundleSeq, x.bundleAt.toNat, x.grant] ++ (x.policy.map policyNums).getD [] ++ x.binds.flatMap (fun e => e.1 :: bindNums e.2))

/-- A domain message up to its signature: the 96-byte header with type, DOMAIN_ID, sender, identity and sequence number, then what it
says (R283). -/
def domText (b : Block) (m : DomBody) (seq : Nat) : Bytes :=
  let d := b.trust.dom
  leBytes 96 (Config.domHeader (domNums m).1 [d.id.toNat, d.pkg.toNat, d.ident.toNat, seq]).toNat
    ++ Config.domBytes (domNums m).1 (domNums m).2

end Sys2Proof.Machine
end

