-- ==== Sys2Proof/Machine/LinkOps.lean ====
section
/-! DEFINITION. The parts of an LCS and of the Egress Staging Buffer (05): pairs, packets in bits, the GCM of a
packet, retraining and link-integrity faults, classes, cells, admission, meters and drop. -/

namespace Sys2Proof.Machine

/-- An event of a link: no tag (Table 14.1). -/
def whoLcs (b : Block) (n : Nat) : Who :=
  let i := (getLcs b n).inst
  { inst := i, unit := n - (getInst b i).lcsBase }

/-- Add to a coverage counter of an LCS, saturating (R234). -/
def covLcs (n k m : Nat) (b : Block) : Block :=
  updLcs n (fun l => { l with cov := listMod l.cov k (fun c => min (c + m) (2 ^ 48 - 1)) }) b

/-- An LCS that is in service (R171): present, not out, in a legal mode, not held out of the mask. -/
def lcsIn (b : Block) (n : Nat) : Bool :=
  (getLcs b n).present && (getLcs b n).state != .outOfService && !(getLport b n).modeBad && (getLport b n).leftMask.isNone

/-- The package's in-service LCSs as a mask (R171). -/
def ownMask (b : Block) : BitVec 64 :=
  BitVec.ofNat 64 (((List.range 64).filter (lcsIn b)).foldl (fun a n => a + 2 ^ n) 0)

/-! Pairs (R130). -/

def getPair (b : Block) (n k : Nat) : Pair := Sparse.get {} (getLport b n).pairs k
def updPair (n k : Nat) (f : Pair → Pair) (b : Block) : Block :=
  updLport n (fun p => { p with pairs := Sparse.upd {} p.pairs k f }) b

/-- The installed pair of an LCS with a peer's LCS. -/
def findPair (b : Block) (n : Nat) (peer : Pkg) (lcs : Nat) : Option (Nat × Pair) :=
  (getLport b n).pairs.find? (fun e => e.2.valid && e.2.peer == peer && e.2.lcs == lcs)

/-- LCS `n` holds a pair with LCS `l` of a peer that no report to the PP says is DOWN (R143): path selection may use it. -/
def pairUp (b : Block) (n : Nat) (peer : Pkg) (l : Nat) : Bool :=
  (getLport b n).pairs.any (fun e => e.2.valid && e.2.up && e.2.peer == peer && e.2.lcs == l) && !b.fab.downs.contains (n, peer, l)

/-- LCS `n` holds a pair with LCS `l` of a peer, and it is DOWN: packets for it are discarded (R143). -/
def pairGone (b : Block) (n : Nat) (peer : Pkg) (l : Nat) : Bool :=
  match findPair b n peer l with
  | some (_, p) => !p.up
  | none => false

/-- The current Thyme epoch at an LCS (R295): the package's, or by the skewed time under TST_TSKEW (R395). -/
def epochAt (b : Block) (n : Nat) : Nat :=
  let i := (getLcs b n).inst
  if (getUnits b i).tst.skew = 0 then b.trust.dom.epoch
  else ((thyme b i).toNat - b.trust.dom.t0.toNat) / (2 ^ b.trust.dom.epochN * 1000000)

/-- R135: the epoch a packet is sent in, with its key: the current one, else the newest earlier one held. -/
def txKey (cur : Nat) (keys : List (Nat × Key)) : Option (Nat × Key) :=
  keys.foldl (fun a k =>
    if k.1 ≤ cur then
      match a with
      | some x => if x.1 < k.1 then some k else a
      | none => some k
    else a) none

/-- DIR (R134): 0 when the sender is the lower of the two. -/
def dirBit (sPkg sLcs dPkg dLcs : Nat) : Nat := if sPkg < dPkg ∨ (sPkg = dPkg ∧ sLcs < dLcs) then 0 else 1

/-! Packets in bits. -/

/-- Length of a data packet (R131). -/
def pktLen (nl : Nat) : Nat := 48 + 132 * nl

/-- Flits, and cells, that a packet of that many lines occupies (R44, R148). -/
def pktFlits (nl : Nat) : Nat := (pktLen nl + 63) / 64

/-- The data packet header (Table 5.2). -/
def pktHeader (ver dir epoch seq : Nat) (p : Pkt) : Bytes :=
  leBytes 32 ((ver <<< 4) + (p.vc <<< 8) + (p.lines.length <<< 11) + (dir <<< 14) + ((if p.ce then 1 else 0) <<< 15)
    + ((epoch % 2 ^ 24) <<< 16) + ((seq % 2 ^ 64) <<< 40) + (p.dst.toNat <<< 104) + ((p.dstLcs % 64) <<< 118)
    + (p.src.toNat <<< 124) + ((p.srcLcs % 64) <<< 138) + ((p.op % 32) <<< 144) + ((p.cls % 8) <<< 149)
    + (p.origin.toNat <<< 152) + (p.poison.toNat <<< 156) + (p.txn.toNat <<< 160))

/-- The packet IV (Table 5.3). -/
def pktIv (epoch vc dir seq : Nat) : Bytes := leBytes 12 (epoch % 2 ^ 24 + (vc <<< 24) + (dir <<< 27) + (seq <<< 32))

/-- The segments of a packet (R133). -/
def pktSegments (p : Pkt) : Bytes :=
  (p.lines.zipIdx.map (fun e =>
    if p.poison.getLsbD e.2 then lineBytes 0 ++ leBytes 4 (sorrelOf 0).toNat
    else lineBytes e.1.1 ++ leBytes 4 e.1.2.toNat)).flatten

/-- A byte string as flits, the last one filled with zeros (R44). Every length of R131 and R140 filled to 64 B is also the one that
R145 gives an unframed stream. -/
def flitsOf (l : Bytes) : List Flit :=
  (chunksOf 64 (l.length / 64 + 1) l).map (fun c => BitVec.ofNat 512 (leNat c))

/-- Bytes of flits. -/
def bytesOfFlits (l : List Flit) : Bytes := (l.map (fun f => leBytes 64 f.toNat)).flatten

/-- A packet with its tag, the last 16 bytes, inverted (Table 8.5). -/
def invertTag (l : Bytes) : Bytes := l.take (l.length - 16) ++ (l.drop (l.length - 16)).map (fun x => ~~~ x)

/-- A protected packet (R131, R134): header, ciphertext, tag. -/
def protect (key : Key) (iv hdr plain : Bytes) : Bytes :=
  let ct := gcmCrypt (keyBytes key) iv plain
  hdr ++ ct ++ gcmTag (keyBytes key) iv hdr ct

/-- The resync marker (Table 5.5). -/
def resyncMarker : Bytes := [0x5A, 0x5A, 0x33, 0x52, 0x53, 0x59, 0x4E, 0x43]

/-- The abort-flit marker (Table 12.3). -/
def abortMarker : Bytes := [0x5A, 0x5A, 0x33, 0x41, 0x42, 0x4F, 0x52, 0x54]

/-- A resync packet header (Table 5.5). -/
def resyncHeader (ack : Bool) (dir epoch rseq : Nat) (dst : Pkg) (dstLcs : Nat) (src : Pkg) (srcLcs mask : Nat) : Bytes :=
  leBytes 32 (leNat resyncMarker + ((if ack then 1 else 0) <<< 64) + (dir <<< 65) + ((epoch % 2 ^ 24) <<< 72)
    + ((rseq % 2 ^ 64) <<< 96) + (dst.toNat <<< 160) + ((dstLcs % 64) <<< 174) + (src.toNat <<< 180)
    + ((srcLcs % 64) <<< 194) + ((mask % 256) <<< 200))

/-- A received header (Table 5.2). -/
structure RxHdr where
  typ : Nat
  ver : Nat
  dir : Nat
  epoch : Nat
  seq : Nat
  nl : Nat
  pkt : Pkt
  deriving DecidableEq, Repr

/-- The header fields of a packet's first 32 bytes. -/
def rxHeader (l : Bytes) : RxHdr :=
  let h := leNat (l.take 32)
  let f := fun (hi lo : Nat) => (h >>> lo) % 2 ^ (hi + 1 - lo)
  { typ := f 3 0, ver := f 7 4, dir := f 14 14, epoch := f 39 16, seq := f 103 40, nl := f 13 11,
    pkt := { vc := f 10 8, ce := f 15 15 == 1, op := f 148 144, cls := f 151 149, dst := BitVec.ofNat 14 (f 117 104),
             dstLcs := f 123 118, src := BitVec.ofNat 14 (f 137 124), srcLcs := f 143 138, origin := BitVec.ofNat 4 (f 155 152),
             poison := BitVec.ofNat 4 (f 159 156), txn := BitVec.ofNat 96 (f 255 160), lines := [] } }

/-- The cycles in which a packet's flits leave on LL_TX or come on LL_RX, `per` flits a cycle (Table 2.6, R158). -/
def llBeats (per vc : Nat) (l : List Flit) : List LlBeat :=
  let n := l.length
  (chunksOf per (n + 1) l.zipIdx).map (fun c =>
    let mark := fun (p : Nat → Bool) => BitVec.ofNat 2 ((c.zipIdx.map (fun e => if p e.1.2 then 2 ^ e.2 else 0)).foldl (· + ·) 0)
    { v := mark (fun _ => true), sop := mark (· == 0), eop := mark (· + 1 == n),
      vc := BitVec.ofNat 6 ((c.zipIdx.map (fun e => (vc % 8) * 8 ^ e.2)).foldl (· + ·) 0),
      data := BitVec.ofNat 1024 ((c.zipIdx.map (fun e => e.1.1.toNat * 2 ^ (512 * e.2))).foldl (· + ·) 0) })

/-! Faults of a link (R138, R46). -/

/-- Milliseconds in ns. -/
def msNs (n : Nat) : Nat := n * 1000000

/-- LL_RETRAIN (R46, R138 step 5): unless one was requested within HOLDOFF ms. -/
def retrain (n : Nat) (force : Bool) (b : Block) : Block :=
  let l := getLcs b n
  let p := getLport b n
  let recent := match p.retrainAt with
    | some t => decide (b.time.toNat < t.toNat + msNs l.holdoff)
    | none => false
  if recent && !force then b
  else
    count (whoLcs b n) (evLink 0)
      (updLcs n (fun l => { l with state := if l.state = .outOfService then .outOfService else .retraining })
        (updLport n (fun p => { p with retrain := true, retrainAt := some b.time }) b))

/-- Owe a resync REQ for a pair in state UP, once, while some VC of it is BROKEN (R142 step 1, R143). -/
def oweReq (n k : Nat) (b : Block) : Block :=
  if (getPair b n k).up && (getPair b n k).vcs.any (fun v => v.rx == .broken) && !(getLport b n).resync.any (fun e => e.1 == k && e.2.isNone)
  then updLport n (fun p => { p with resync := p.resync ++ [(k, none)] }) b
  else b

/-- A link-integrity fault on (pair, VCs) with its status (R138). LAST_VC records the first VC of the list: where lost framing faults
every VC of the pair (R145) that is VC 0, since the spec does not say which (log 117, DESIGN CHOICE). -/
def linkFault (n k : Nat) (vcs : List Nat) (st : Status) (b : Block) : Block :=
  let b := updPair n k (fun p => { p with vcs := p.vcs.zipIdx.map (fun e => if vcs.contains e.2 then { e.1 with rx := .broken } else e.1) }) b
  let b := updLcs n (fun l => { l with lastFault := st, lastPair := k, lastVc := vcs.headD 0 }) (raise (getLcs b n).inst 5 b)
  retrain n false (oweReq n k b)

/-- A fault with no identified pair: only LL_RETRAIN rises (Table 5.4, check 1). LAST_PAIR and LAST_VC keep what an earlier fault left
there beside the new LAST_FAULT: the spec is silent (log 118, DESIGN CHOICE). -/
def loneFault (n : Nat) (st : Status) (b : Block) : Block :=
  retrain n false (updLcs n (fun l => { l with lastFault := st }) (raise (getLcs b n).inst 5 b))

/-- In unframed mode framing is lost: every VC of the pair is faulted and the marker search starts (R145). -/
def faultAt (n k vc : Nat) (st : Status) (loses : Bool) (b : Block) : Block :=
  if (getLport b n).mode && loses then
    linkFault n k (List.range 8) st (updLport n (fun p => { p with search := true }) b)
  else linkFault n k [vc] st b

/-- A packet tag failure (R139): an alarm in framed mode; in unframed mode noise, with an alarm above THRESH in one
millisecond. -/
def tagNoise (n : Nat) (b : Block) : Block :=
  let i := (getLcs b n).inst
  if (getLport b n).mode then
    let recent := b.time :: (getLport b n).noise.filter (fun t => decide (b.time.toNat < t.toNat + msNs 1))
    let b := count (whoLcs b n) (evLink 1) (updLport n (fun p => { p with noise := recent }) b)
    if (getLcs b n).thresh < recent.length then alarm .tag (raise i 4 b) else b
  else alarm .tag (raise i 4 b)

/-! Egress Staging Buffer (R147 to R151). -/

/-- Codes of the source classes (Table 5.7). -/
def clsReq : Nat := 0
def clsRsp : Nat := 1
def clsRdx : Nat := 2
def clsCtl : Nat := 3
def clsMsg : Nat := 4

def esbClass (e : Esb) (c : Nat) : EsbClass := e.cls.getD c { vc := c }

/-- Cells of a staged packet. -/
def cellsOf (s : Staged) : Nat := pktFlits s.pkt.lines.length

/-- Cells of a packet given to LL_TX, where a test takes it. -/
def sentCells (n : Nat) (p : Nat → Nat → Bool → Bool) (s : Sent) : Nat :=
  match s.cls with
  | some c => if p n c s.shared then s.flits.length else 0
  | none => 0

/-- Cells that a test's packets hold: staged, being sent until their last flit has left, or to be sent again (R136, R148). -/
def cellsWhere (b : Block) (i : Nat) (p : Nat → Nat → Bool → Bool) : Nat :=
  let staged := ((getEsb b i).staged.filter (fun s => p s.lcs s.pkt.cls s.shared)).map cellsOf
  let sent := b.lport.map (fun e =>
    if (getLcs b e.1).inst = i then ((e.2.sending.toList ++ e.2.resend.toList).map (sentCells e.1 p)).foldl (· + ·) 0 else 0)
  (staged ++ sent).foldl (· + ·) 0

/-- The guarantee that a class's registers give each of its VOQs (R148). -/
def classMin (k : EsbClass) : Nat := if k.en then k.min else 0

/-- The VOQs of an instance: LCS and class. -/
def voqs (b : Block) (i : Nat) : List (Nat × Nat) :=
  (List.range (getInst b i).nLcs).flatMap (fun l => (List.range 5).map (fun c => ((getInst b i).lcsBase + l, c)))

/-- The guarantee of a VOQ that is in force: a raised one counts only as far as cells have freed (R149). -/
def guarantee (e : Esb) (v : Nat × Nat) : Nat := classMin (esbClass e v.2) - Sparse.get 0 e.short (v.1 * 8 + v.2)

/-- Cells that a VOQ's packets hold of its guarantee. -/
def heldCells (b : Block) (i : Nat) (v : Nat × Nat) : Nat := cellsWhere b i (fun l c s => l == v.1 && c == v.2 && !s)

/-- Free cells of the shared pool (R148): of 16,384, less each VOQ's guarantee, or what its packets hold where that is more, and less
what is taken. -/
def poolFree (b : Block) (i : Nat) : Nat :=
  16384 - ((voqs b i).map (fun v => max (guarantee (getEsb b i) v) (heldCells b i v))).foldl (· + ·) 0 - cellsWhere b i (fun _ _ s => s)

/-- A raised guarantee takes effect as cells free (R149). -/
def settleShort (i : Nat) (b : Block) : Block :=
  if (getEsb b i).short.isEmpty then b
  else
    (voqs b i).foldl (fun b v =>
      let free := poolFree b i + (heldCells b i v - guarantee (getEsb b i) v)
      updEsb i (fun e => { e with short := Sparse.upd 0 e.short (v.1 * 8 + v.2) (· - free) }) b) b

/-- Where a packet is admitted (R148): into its guarantee (false), into the shared pool (true), or not at all: a disabled class has no
VOQ, and while BAY_FREEZE holds only CTL is staged (R351). With `inject`, room for another 576 B packet must stay (R220). -/
def admission (b : Block) (i lcs cls n : Nat) (inject : Bool) : Option Bool :=
  let e := getEsb b i
  let k := esbClass e cls
  let g := heldCells b i (lcs, cls)
  let s := cellsWhere b i (fun l c s => l == lcs && c == cls && s)
  let own := guarantee e (lcs, cls)
  let free := poolFree b i
  let msg := cellsWhere b i (fun _ c s => c == clsMsg && s)
  let where' :=
    if k.en = false ∨ k.max < g + s + n ∨ ((getInst b i).freeze ∧ cls ≠ clsCtl) then none
    else if g + n ≤ own then some false
    else if n ≤ free ∧ (cls ≠ clsMsg ∨ msg + n ≤ e.msgMax) then some true
    else none
  match where' with
  | none => none
  | some sh =>
    if inject then
      let gl := own - g - (if sh then 0 else n)
      let sl := free - (if sh then n else 0)
      if k.max < g + s + n + 9 ∨ (gl < 9 ∧ sl < 9) then none else some sh
    else some sh

/-- Put an admitted packet into its VOQ; above MARK_TH a lossless packet carries CE (R151). -/
def enqueue (i : Nat) (s : Staged) (sh : Bool) (b : Block) : Block :=
  let k := esbClass (getEsb b i) s.pkt.cls
  let occ := cellsWhere b i (fun l c _ => l == s.lcs && c == s.pkt.cls)
  let ce := s.pkt.cls != clsMsg && decide (k.mark < occ)
  let s := { s with shared := sh, pkt := { s.pkt with vc := k.vc, ce := ce } }
  count { inst := i, tag := some s.tag } (evEsb s.pkt.cls) (updEsb i (fun e => { e with staged := e.staged ++ [s] }) b)

/-- A packet of a pair that is DOWN is discarded and counted (R143). -/
def dropDown (s : Staged) (b : Block) : Block := count (whoLcs b s.lcs) (evLink 2) b

/-- Stage a lossless packet, where its instance's Bay does not hold staging back (R148, R351 step 1). -/
def stageNow (i : Nat) (s : Staged) (inject : Bool) (b : Block) : Option Block :=
  if b.bay.state = 1 ∧ s.pkt.cls ≠ clsCtl then none
  else if pairGone b s.lcs s.pkt.dst s.pkt.dstLcs then some (dropDown s b)
  else (admission b i s.lcs s.pkt.cls (cellsOf s) inject).map (fun sh => enqueue i s sh b)

/-- Stage a lossless packet of a source inside the block, or hold it there (R148). -/
def stageOrWait (i : Nat) (s : Staged) (b : Block) : Block :=
  if (getEsb b i).wait.any (fun x => x.lcs == s.lcs && x.pkt.cls == s.pkt.cls) then
    updEsb i (fun e => { e with wait := e.wait ++ [s] }) b
  else
    match stageNow i s false b with
    | some b => b
    | none => updEsb i (fun e => { e with wait := e.wait ++ [s] }) b

/-- Admit held packets of the block's own sources, in order, each once its VOQ takes it. -/
def stageWaiting (i : Nat) (b : Block) : Block :=
  let b := settleShort i b
  (getEsb b i).wait.foldl (fun b s => stageOrWait i s b) (updEsb i (fun e => { e with wait := [] }) b)

/-! Message class (R150). -/

/-- Colour of a message by its tag's meter, and the meter after it: 0 green, 1 yellow, 2 red. -/
def colour (now : BitVec 64) (len : Nat) (m : Meter) : Nat × Meter :=
  let dt := now.toNat - m.at'.toNat
  let tc := min (m.cbs * 1000) (m.tc + dt * m.cir)
  let tp := min (m.pbs * 1000) (m.tp + dt * m.pir)
  let n := len * 1000
  if tp < n then (2, { m with tc := tc, tp := tp, at' := now })
  else if tc < n then (1, { m with tc := tc, tp := tp - n, at' := now })
  else (0, { m with tc := tc - n, tp := tp - n, at' := now })

/-- One step of an average toward an occupancy (R150). -/
def wredAvg (avg q w : Nat) : Nat := if avg ≤ q then avg + (q - avg) / 2 ^ w else avg - (avg - q) / 2 ^ w

/-- Drop probability × 256 (R150). -/
def wredProb (r : Wred) (avg : Nat) : Nat :=
  if avg < r.minTh then 0 else if r.maxTh ≤ avg then 256 else r.maxP * (avg - r.minTh) / (r.maxTh - r.minTh)

/-- Slots of the spill ring (R156). -/
def spillSlots (b : Block) (i : Nat) : Nat := (getRgn b (getEsb b i).spillRegion).size * 2097152 / 640

/-- The line of a slot that tells its packet: the header of Table 5.2 with VER, DIR, EPOCH and SEQ 0 (R135; log 119). -/
def spillHead (p : Pkt) : Line := lineOf (pktHeader 0 0 0 0 p ++ List.replicate 96 0)

/-- A slot's lines as they are written: what tells the packet, then its lines with their check values (R156). -/
def spillLines (p : Pkt) : List MnWr :=
  { data := spillHead p, svalid := true, sorrel := sorrelOf (spillHead p), poison := false }
    :: p.lines.zipIdx.map (fun e => { data := e.1.1, svalid := true, sorrel := e.1.2, poison := p.poison.getLsbD e.2 })

/-- Spill a packet into the ring's next slot: its lines wait for the MCSs (R156). -/
def spillPut (i : Nat) (s : Staged) (b : Block) : Block :=
  let slot := (getRgn b (getEsb b i).spillRegion).base * 16384 + 5 * (getEsb b i).spillAt
  let n := spillSlots b i
  count { inst := i, tag := some s.tag } (evEsb 11) (updEsb i (fun e => { e with
    spill := e.spill ++ [{ slot := slot, lcs := s.lcs, tag := s.tag, nl := s.pkt.lines.length }], spillAt := (e.spillAt + 1) % n,
    spillW := e.spillW ++ (spillLines s.pkt).zipIdx.map (fun x => (slot + x.2, x.1)) }) b)

/-- Admit a message packet: meter, drop test, cells, spill or drop. The answer is OK or QUOTA (R150, R156). -/
def admitMsg (i : Nat) (s : Staged) (b : Block) : Status × Block :=
  let e := getEsb b i
  let (c, m) := colour (thyme b i) (pktLen s.pkt.lines.length) (Sparse.get {} e.meters s.tag.toNat)
  let r := e.wred.getD c { minTh := 0, maxTh := 0, maxP := 0 }
  let q := cellsWhere b i (fun l k _ => l == s.lcs && k == clsMsg)
  let avg := wredAvg (Sparse.get 0 e.avg s.lcs) q r.w
  let drop := decide ((Config.esbRandom e.lfsr).toNat < wredProb r avg)
  let b := updEsb i (fun e => { e with meters := Sparse.set {} e.meters s.tag.toNat m, avg := Sparse.set 0 e.avg s.lcs avg,
                                       lfsr := e.lfsr + 1 }) b
  let who : Who := { inst := i, tag := some s.tag }
  let lost := fun (b : Block) => (Status.quota, count who (evEsb (8 + c)) b)
  if pairGone b s.lcs s.pkt.dst s.pkt.dstLcs then (.ok, dropDown s b)
  else if drop then lost b
  else
    let spilled := (getEsb b i).spill.any (fun x => x.lcs == s.lcs)
    match (if spilled then none else admission b i s.lcs clsMsg (cellsOf s) false) with
    | some sh => (.ok, enqueue i s sh b)
    | none =>
      if e.spillEn ∧ (getEsb b i).spill.length < spillSlots b i then
        (.ok, spillPut i s b)
      else lost b

/-- Take a spilled packet's reads away, with what they answered. -/
def dropReads (s : Spilled) (b : Block) : Block :=
  (s.asked.getD []).foldl (fun b a => updPort a.2.1 (fun p => { p with reads := p.reads.filter (fun r => r.seq != a.2.2) }) b) b

/-- Discard every spilled packet with its count (R156). -/
def dropSpill (i : Nat) (b : Block) : Block :=
  (getEsb b i).spill.foldl (fun b s => dropReads s (count { inst := i, tag := some s.tag } (evEsb 12) b))
    (updEsb i (fun e => { e with spill := [], spillW := [] }) b)

/-- RETIRE of the spill region ends spill (R156). -/
def endSpill (k : Nat) (b : Block) : Block :=
  (b.esb.filter (fun e => e.2.spillEn && e.2.spillRegion == k)).foldl (fun b e =>
    updEsb e.1 (fun e => { e with spillEn := false }) (dropSpill e.1 b)) b

/-- Discard the staged packets of a pair, those that wait at a source and one to be sent again, counting each (R143). -/
def dropStaged (n : Nat) (k : Nat) (peer : Pkg) (l : Nat) (b : Block) : Block :=
  let i := (getLcs b n).inst
  let mine := fun (s : Staged) => s.lcs == n && s.pkt.dst == peer && s.pkt.dstLcs == l
  let again := (getLport b n).resend.toList.filter (fun s => s.pair == some k)
  let lost := ((getEsb b i).staged ++ (getEsb b i).wait).filter mine
  let b := (List.replicate (lost.length + again.length) n).foldl (fun b n => count (whoLcs b n) (evLink 2) b) b
  let b := updLport n (fun p => { p with resend := p.resend.filter (fun s => s.pair != some k) }) b
  stageWaiting i (updEsb i (fun e => { e with staged := e.staged.filter (fun s => !mine s),
                                              wait := e.wait.filter (fun s => !mine s) }) b)

/-- A pair goes DOWN (R143): its packets are discarded, INT[15] rises, and the PP has the report. -/
def pairDown (n k : Nat) (b : Block) : Block :=
  let p := getPair b n k
  let b := updPair n k (fun p => { p with up := false, sends := 0 }) b
  let b := updLport n (fun x => { x with resync := x.resync.filter (fun e => e.1 != k) }) b
  let b := { b with fab := { b.fab with downs := (n, p.peer, p.lcs) :: b.fab.downs.filter (· != (n, p.peer, p.lcs)) } }
  raise (getLcs b n).inst 15 (dropStaged n k p.peer p.lcs b)

/-! LL_RX_MODE (R144). -/

/-- LL_RX_MODE = 1 needs Z2 and exactly one installed pair (R144). -/
def modeLegal (b : Block) (n : Nat) (mode : Bool) : Bool :=
  !mode || ((getLcs b n).z2 && (getLport b n).pairs.length == 1)

/-- A mode in use that is legal no more is a link-integrity fault, and keeps the LCS out of the path hash until it is corrected and the
link retrained (R144). -/
def judgeMode (n : Nat) (b : Block) : Block :=
  let p := getLport b n
  if p.up && !p.modeBad && !modeLegal b n p.mode then loneFault n .badConfig (updLport n (fun x => { x with modeBad := true }) b) else b

/-- Take a pair out of an LCS's table: its keys, sequences and resync packets go (R130, R289). -/
def removePair (n k : Nat) (b : Block) : Block :=
  let p := getPair b n k
  let b := updLport n (fun x => { x with pairs := Sparse.set {} x.pairs k {}, resync := x.resync.filter (fun e => e.1 != k),
                                         acq := x.acq.filter (fun e => e.1 != k), held := x.held.filter (fun h => h.pair != k),
                                         reqWait := x.reqWait.filter (fun h => h.pair != k) }) b
  let b := { b with fab := { b.fab with downs := b.fab.downs.filter (· != (n, p.peer, p.lcs)) } }
  judgeMode n (dropStaged n k p.peer p.lcs b)

/-- Install a pair with its keys (R129, R130): the lowest free entry; none where all 1,024 are in use. -/
def installPair (n : Nat) (peer : Pkg) (l : Nat) (keys : List (Nat × Key)) (b : Block) : Option Block :=
  let k := match findPair b n peer l with
    | some (k, _) => some k
    | none => lowestFrom (fun k => !(getPair b n k).valid) 1024 0
  k.map (fun k =>
    let b := updPair n k (fun _ => { valid := true, peer := peer, lcs := l, keys := keys }) b
    judgeMode n { b with fab := { b.fab with downs := b.fab.downs.filter (· != (n, peer, l)) } })

/-- Return the flits of packets to the far side of the link (R43, R157). -/
def giveFlits (n vc f : Nat) (b : Block) : Block :=
  updLport n (fun p => { p with rxHeld := listMod p.rxHeld vc (· - f), rxGrant := listMod p.rxGrant vc (· + f) }) b

end Sys2Proof.Machine
end

