-- ==== Sys2Proof/Machine/Xp.lean ====
section
/-! DEFINITION. Exact partials and element formats of the Reduction Lane (07 R195 to R213): XP-160 values, their exact
sums and residues, conversion from and to the formats of Table 7.1, rounding, minimum and maximum. -/

namespace Sys2Proof.Machine

/-! XP-160 (R198 to R202). -/

/-- An XP-160 value: SIG × 2^EXP, or a special. -/
inductive Xp where
  | fin (sig exp : Int)
  | pinf | ninf | nan
  deriving DecidableEq, Repr

/-- Floor of m / 2^s for s ≥ 0, exact product for s < 0. -/
def scaleDown (m : Int) (s : Int) : Int := if 0 ≤ s then m / (2 ^ s.toNat : Int) else m * (2 ^ (-s).toNat : Int)

/-- R199, R200: the stored form of m × 2^e, and whether bits were dropped. -/
def xpNorm (m e : Int) : Xp × Bool :=
  if m = 0 then (.fin 0 0, false)
  else
    let bits : Int := if 0 < m then Nat.size m.toNat else Nat.size (m.natAbs - 1)
    let ex := max (e + (bits - 143)) (-32767)
    if 32767 < ex then (if 0 < m then .pinf else .ninf, false)
    else
      let sig := scaleDown m (ex - e)
      (.fin sig ex, decide (sig * (2 ^ (ex - e).toNat : Int) ≠ m * (2 ^ (e - ex).toNat : Int)))

/-- The exact sum of two values, stored (R200, R202). -/
def xpAdd (a b : Xp) : Xp × Bool :=
  match a, b with
  | .nan, _ => (.nan, false)
  | _, .nan => (.nan, false)
  | .pinf, .ninf => (.nan, false)
  | .ninf, .pinf => (.nan, false)
  | .pinf, _ => (.pinf, false)
  | _, .pinf => (.pinf, false)
  | .ninf, _ => (.ninf, false)
  | _, .ninf => (.ninf, false)
  | .fin s1 e1, .fin s2 e2 =>
    let e := min e1 e2
    xpNorm (s1 * (2 ^ (e1 - e).toNat : Int) + s2 * (2 ^ (e2 - e).toNat : Int)) e

/-- A two's complement value of `w` bits. -/
def signedOf (w v : Nat) : Int := if v < 2 ^ (w - 1) then v else (v : Int) - 2 ^ w

/-- A number as `w` bits of two's complement. -/
def twosOf (w : Nat) (v : Int) : Nat := (v % 2 ^ w).toNat

/-- An XP-160 value of its 20 bytes (Table 7.3). -/
def xpRead (v : Nat) : Xp :=
  let e := v % 65536
  let s := v / 65536 % 2 ^ 144
  if e = 0x8000 then (if s = 1 then .pinf else if s = 2 then .ninf else .nan)
  else .fin (signedOf 144 s) (signedOf 16 e)

/-- A special whose SIG is none of Table 7.3: it is taken as NaN (R198). -/
def xpOdd (v : Nat) : Bool := v % 65536 == 0x8000 && !decide (1 ≤ v / 65536 % 2 ^ 144 ∧ v / 65536 % 2 ^ 144 ≤ 3)

/-- The 20 bytes of a stored value. -/
def xpWrite : Xp → Nat
  | .fin s e => twosOf 16 e + twosOf 144 s * 65536
  | .pinf => 0x8000 + 1 * 65536
  | .ninf => 0x8000 + 2 * 65536
  | .nan => 0x8000 + 3 * 65536

/-- Modulus of the residues (R210). -/
def xpM : Nat := 2 ^ 31 - 1

/-- Residue of a value; 0 for a special, which has none (R210). -/
def xpRes : Xp → Nat
  | .fin s e => (s % xpM).toNat * 2 ^ (e % 31).toNat % xpM
  | _ => 0

def xpSpecial : Xp → Bool
  | .fin _ _ => false
  | _ => true

/-- Partial `p` of an XP line. -/
def xpAt (l : Line) (p : Nat) : Xp := xpRead (l.toNat / 2 ^ (160 * p) % 2 ^ 160)

/-- The partials of an XP line with their INEX marks (Table 7.6). -/
def xpLineRead (l : Line) : List (Xp × Bool) :=
  (List.range 6).map (fun p => (xpAt l p, l.getLsbD (992 + p)))

/-- LRES of a line's partials. -/
def xpLres (v : List Xp) : Nat := (v.map xpRes).foldl (· + ·) 0 % xpM

/-- The carried LRES agrees with the partials, and bit 31 is zero (R213). -/
def xpLresOk (l : Line) : Bool :=
  decide (l.toNat / 2 ^ 960 % 2 ^ 32 = xpLres ((List.range 6).map (xpAt l)))

/-- An XP line of six partials with their marks. -/
def xpLineWrite (v : List (Xp × Bool)) : Line :=
  let body := (v.zipIdx.map (fun e => xpWrite e.1.1 * 2 ^ (160 * e.2))).foldl (· + ·) 0
  let marks := (v.zipIdx.map (fun e => if e.1.2 then 2 ^ e.2 else 0)).foldl (· + ·) 0
  BitVec.ofNat 1024 (body + xpLres (v.map (·.1)) * 2 ^ 960 + marks * 2 ^ 992)

/-! Formats (R195, R196). -/

/-- A binary floating-point element format: exponent and mantissa bits, bias, whether the top exponent holds
infinities and NaNs (`ieee`), whether only the all-ones pattern is NaN (`oneNan`). -/
structure Fp where
  ebits  : Nat
  mbits  : Nat
  bias   : Int
  ieee   : Bool
  oneNan : Bool
  deriving DecidableEq, Repr

/-- The format of a code of Table 7.1, with the MX codes' element formats. -/
def fpOf : Nat → Option Fp
  | 0x00 => some { ebits := 8, mbits := 23, bias := 127, ieee := true, oneNan := false }
  | 0x01 => some { ebits := 5, mbits := 10, bias := 15, ieee := true, oneNan := false }
  | 0x02 => some { ebits := 8, mbits := 7, bias := 127, ieee := true, oneNan := false }
  | 0x03 => some { ebits := 4, mbits := 3, bias := 7, ieee := false, oneNan := true }
  | 0x04 => some { ebits := 5, mbits := 2, bias := 15, ieee := true, oneNan := false }
  | 0x08 => some { ebits := 4, mbits := 3, bias := 7, ieee := false, oneNan := true }
  | 0x09 => some { ebits := 5, mbits := 2, bias := 15, ieee := true, oneNan := false }
  | 0x0A => some { ebits := 2, mbits := 3, bias := 1, ieee := false, oneNan := false }
  | 0x0B => some { ebits := 3, mbits := 2, bias := 3, ieee := false, oneNan := false }
  | 0x0C => some { ebits := 2, mbits := 1, bias := 1, ieee := false, oneNan := false }
  | _ => none

def fmtCode (f : BitVec 8) : Nat := f.toNat % 32
def fmtU (f : BitVec 8) : Bool := f.getLsbD 5
def fmtSat (f : BitVec 8) : Bool := f.getLsbD 6
def fmtInt (f : BitVec 8) : Bool := decide (0x10 ≤ fmtCode f ∧ fmtCode f ≤ 0x13)
def fmtMx (f : BitVec 8) : Bool := decide (0x08 ≤ fmtCode f ∧ fmtCode f ≤ 0x0C)
def fmtFp (f : BitVec 8) : Bool := decide (fmtCode f ≤ 0x04)

/-- A permitted FMT value (R195). -/
def fmtLegal (f : BitVec 8) : Bool :=
  !f.getLsbD 7 && (fmtInt f || ((fmtFp f || fmtMx f) && !fmtU f && !fmtSat f))

/-- Element bits of a format. -/
def fmtBits (f : BitVec 8) : Nat :=
  match fmtCode f with
  | 0x00 => 32 | 0x01 => 16 | 0x02 => 16 | 0x03 => 8 | 0x04 => 8 | 0x08 => 8 | 0x09 => 8 | 0x0A => 6 | 0x0B => 6
  | 0x0C => 4 | 0x10 => 8 | 0x11 => 16 | 0x12 => 32 | 0x13 => 64 | _ => 8

/-- Elements per line of a format (Table 7.1). -/
def epl (f : BitVec 8) : Nat :=
  match fmtCode f with
  | 0x00 => 32 | 0x01 => 64 | 0x02 => 64 | 0x03 => 128 | 0x04 => 128 | 0x08 => 96 | 0x09 => 96 | 0x0A => 160
  | 0x0B => 160 | 0x0C => 224 | 0x10 => 128 | 0x11 => 64 | 0x12 => 32 | 0x13 => 16 | _ => 128

/-- Element `k` of a native line; MX blocks lie whole in the line, so elements follow each other without a gap. -/
def elemAt (f : BitVec 8) (l : Line) (k : Nat) : Nat := l.toNat / 2 ^ (fmtBits f * k) % 2 ^ fmtBits f

/-- Scale byte of block `j` of an MX line (R196): after the elements. -/
def scaleAt (f : BitVec 8) (l : Line) (j : Nat) : Nat := l.toNat / 2 ^ (fmtBits f * epl f + 8 * j) % 256

/-- An element as it is: its sign, magnitude bits. -/
def fpNan (p : Fp) (v : Nat) : Bool :=
  let mag := v % 2 ^ (p.ebits + p.mbits)
  if p.ieee then decide (2 ^ p.ebits - 1 = mag / 2 ^ p.mbits ∧ mag % 2 ^ p.mbits ≠ 0)
  else p.oneNan && mag == 2 ^ (p.ebits + p.mbits) - 1

def fpInf (p : Fp) (v : Nat) : Bool :=
  let mag := v % 2 ^ (p.ebits + p.mbits)
  p.ieee && mag == (2 ^ p.ebits - 1) * 2 ^ p.mbits

/-- The exact value of a floating-point element times 2^sh (R201). -/
def fpXp (p : Fp) (v : Nat) (sh : Int) : Xp :=
  let neg := decide (v / 2 ^ (p.ebits + p.mbits) % 2 = 1)
  if fpNan p v then .nan
  else if fpInf p v then (if neg then .ninf else .pinf)
  else
    let mag := v % 2 ^ (p.ebits + p.mbits)
    let ex := mag / 2 ^ p.mbits
    let man := mag % 2 ^ p.mbits
    let m : Nat := if ex = 0 then man else man + 2 ^ p.mbits
    let e : Int := (if ex = 0 then 1 else ex) - p.bias - p.mbits + sh
    (xpNorm (if neg then -(m : Int) else m) e).1

/-- An integer element's value. -/
def intElem (f : BitVec 8) (v : Nat) : Int := if fmtU f then v else signedOf (fmtBits f) v

/-- Element `k` of a native line as an XP value (R201). -/
def elemXp (f : BitVec 8) (l : Line) (k : Nat) : Xp :=
  let v := elemAt f l k
  if fmtInt f then (xpNorm (intElem f v) 0).1
  else
    match fpOf (fmtCode f) with
    | none => .nan
    | some p =>
      if fmtMx f then
        let s := scaleAt f l (k / 32)
        if s = 255 then .nan else fpXp p v ((s : Int) - 127)
      else fpXp p v 0

/-! Rounding (R204 to R209). -/

/-- How a value is rounded: RNE, or stochastically with a 32-bit random value. -/
inductive RoundBy where
  | rne
  | stoch (r : Nat)
  deriving DecidableEq, Repr

/-- Floor of the base-2 logarithm of m × 2^e, m ≥ 1. -/
def log2of (m : Nat) (e : Int) : Int := (Nat.size m : Int) - 1 + e

/-- The magnitude m × 2^e rounded onto a format's grid extended without a largest value: (n, q) for n × 2^q. `up` says
which side of a tie an inexact mark puts the true magnitude on. -/
def roundMag (p : Fp) (m : Nat) (e : Int) (by' : RoundBy) (tie : Option Bool) : Nat × Int :=
  let q := max (1 - p.bias - p.mbits) (log2of m e - p.mbits)
  if q ≤ e then (m * 2 ^ (e - q).toNat, q)
  else
    let s := (q - e).toNat
    let n := m / 2 ^ s
    let rem := m % 2 ^ s
    match by' with
    | .rne =>
      let half := 2 ^ (s - 1)
      let up := if rem = half then (match tie with | some t => t | none => n % 2 == 1) else decide (half < rem)
      (if up then n + 1 else n, q)
    | .stoch r => (if r < rem * 2 ^ 32 / 2 ^ s then n + 1 else n, q)

/-- The bits of n × 2^q on the grid; none where it lies above the largest finite value. -/
def encodeMag (p : Fp) (n : Nat) (q : Int) : Option Nat :=
  let (n, q) := if n = 2 ^ (p.mbits + 1) then (n / 2, q + 1) else (n, q)
  let bits := if n < 2 ^ p.mbits then n else ((q + p.mbits + p.bias).toNat) * 2 ^ p.mbits + (n - 2 ^ p.mbits)
  let top := if p.ieee then (2 ^ p.ebits - 1) * 2 ^ p.mbits - 1
    else if p.oneNan then 2 ^ (p.ebits + p.mbits) - 2 else 2 ^ (p.ebits + p.mbits) - 1
  if bits ≤ top then some bits else none

/-- Bits of the largest finite magnitude. -/
def topMag (p : Fp) : Nat :=
  if p.ieee then (2 ^ p.ebits - 1) * 2 ^ p.mbits - 1
  else if p.oneNan then 2 ^ (p.ebits + p.mbits) - 2 else 2 ^ (p.ebits + p.mbits) - 1

/-- Canonical NaN of a floating-point code (Table 7.1). -/
def canonNan : Nat → Nat
  | 0x00 => 0x7FC00000 | 0x01 => 0x7E00 | 0x02 => 0x7FC0 | 0x03 => 0x7F | _ => 0x7E

/-- A value rounded to a scalar floating-point code (R204, R208, Table 7.5). -/
def toFp (code : Nat) (p : Fp) (v : Xp) (mark : Bool) (by' : RoundBy) : Nat :=
  let sign := fun (neg : Bool) (bits : Nat) => (if neg then 2 ^ (p.ebits + p.mbits) else 0) + bits
  let inf := fun (neg : Bool) => if p.ieee then sign neg ((2 ^ p.ebits - 1) * 2 ^ p.mbits) else canonNan code
  match v with
  | .nan => canonNan code
  | .pinf => inf false
  | .ninf => inf true
  | .fin s e =>
    if s = 0 then 0
    else
      let neg := decide (s < 0)
      let (n, q) := roundMag p s.natAbs e by' (if mark then some (!neg) else none)
      match encodeMag p n q with
      | some bits => sign neg bits
      | none => if p.ieee then inf neg else sign neg (topMag p)

/-- emax of an MX element code (R205). -/
def mxEmax : Nat → Int
  | 0x08 => 8 | 0x09 => 15 | 0x0A => 2 | 0x0B => 4 | _ => 2

/-- A block of 32 values in an MX format: the scale byte and the elements (R205, Table 7.5). -/
def toMxBlock (code : Nat) (p : Fp) (vs : List (Xp × Bool × RoundBy)) : Nat × List Nat :=
  if vs.any (fun v => xpSpecial v.1) then (255, vs.map (fun _ => 0))
  else
    let logs := vs.filterMap (fun v =>
      match v.1 with
      | .fin s e => if s = 0 then none else some (log2of s.natAbs e)
      | _ => none)
    match logs with
    | [] => (0, vs.map (fun _ => 0))
    | l :: ls =>
      let x := max (-127) (min 127 ((ls.foldl max l) - mxEmax code))
      let one := fun (v : Xp × Bool × RoundBy) =>
        match v.1 with
        | .fin s e =>
          if s = 0 then 0
          else
            let neg := decide (s < 0)
            let (n, q) := roundMag p s.natAbs (e - x) v.2.2 (if v.2.1 then some (!neg) else none)
            (if neg then 2 ^ (p.ebits + p.mbits) else 0) + (encodeMag p n q).getD (topMag p)
        | _ => 0
      ((x + 127).toNat, vs.map one)

/-- The integer part, downward, of a finite value. -/
def xpFloor : Xp → Int
  | .fin s e => scaleDown s (-e)
  | _ => 0

/-- A sum as an integer element (R207). -/
def toInt (f : BitVec 8) (v : Xp) : Nat :=
  let w := fmtBits f
  let x := xpFloor v
  let lo : Int := if fmtU f then 0 else -(2 ^ (w - 1))
  let hi : Int := if fmtU f then 2 ^ w - 1 else 2 ^ (w - 1) - 1
  twosOf w (if fmtSat f then max lo (min hi x) else x)

/-- Elements packed as a native line of a format without scales. -/
def packLine (w : Nat) (l : List Nat) : Nat := (l.zipIdx.map (fun e => e.1 * 2 ^ (w * e.2))).foldl (· + ·) 0

/-- A line of rounded results in a format (R204 to R208). -/
def roundLine (f : BitVec 8) (vs : List (Xp × Bool × RoundBy)) : Line :=
  if fmtInt f then BitVec.ofNat 1024 (packLine (fmtBits f) (vs.map (fun v => toInt f v.1)))
  else
    match fpOf (fmtCode f) with
    | none => 0
    | some p =>
      if fmtMx f then
        let blocks := (List.range (epl f / 32)).map (fun j => toMxBlock (fmtCode f) p ((vs.drop (32 * j)).take 32))
        BitVec.ofNat 1024 (packLine (fmtBits f) (blocks.map (·.2)).flatten
          + packLine 8 (blocks.map (·.1)) * 2 ^ (fmtBits f * epl f))
      else BitVec.ofNat 1024 (packLine (fmtBits f) (vs.map (fun v => toFp (fmtCode f) p v.1 v.2.1 v.2.2)))

/-- R209: the random value of an element index of a collective. -/
def stochR (coll i : Nat) : Nat :=
  let m := 2 ^ 64
  let x := coll ^^^ (i * 0x9E3779B97F4A7C15 % m)
  let x := (x ^^^ (x / 2 ^ 30)) * 0xBF58476D1CE4E5B9 % m
  let x := (x ^^^ (x / 2 ^ 27)) * 0x94D049BB133111EB % m
  (x ^^^ (x / 2 ^ 31)) / 2 ^ 32

/-! Native operations (R197). -/

/-- A floating-point element as a number in the order of minimum and maximum: −0 below +0. -/
def fpKey (p : Fp) (v : Nat) : Int :=
  let mag : Int := (v % 2 ^ (p.ebits + p.mbits) : Nat)
  if v / 2 ^ (p.ebits + p.mbits) % 2 = 1 then -mag - 1 else mag

/-- Minimum or maximum of two elements. -/
def minMax (f : BitVec 8) (max' : Bool) (a b : Nat) : Nat :=
  if fmtInt f then
    let le := decide (intElem f a ≤ intElem f b)
    if le == max' then b else a
  else
    match fpOf (fmtCode f) with
    | none => 0
    | some p =>
      if fpNan p a || fpNan p b then canonNan (fmtCode f)
      else if decide (fpKey p a ≤ fpKey p b) == max' then b else a

/-- Two native lines combined by an operation of Table 7.2 other than SUM. -/
def nativeOp (op : Nat) (f : BitVec 8) (a b : Line) : Line :=
  match op with
  | 3 => a &&& b
  | 4 => a ||| b
  | 5 => a ^^^ b
  | _ => BitVec.ofNat 1024 (packLine (fmtBits f) ((List.range (epl f)).map (fun k =>
      minMax f (op == 2) (elemAt f a k) (elemAt f b k))))

/-! Exact-add (R181). -/

/-- The accumulator line after an exact-add, and whether the window dropped bits. -/
def exactAdd (f : BitVec 8) (count : Nat) (elems acc : Line) : Line × Bool :=
  let one := fun (p : Nat) =>
    if p < count then xpAdd (xpAt acc p) (elemXp f elems p) else (xpAt acc p, false)
  let r := (List.range 6).map one
  let raw := fun (p : Nat) => acc.toNat / 2 ^ (160 * p) % 2 ^ 160
  let body := (r.zipIdx.map (fun e => (if e.2 < count then xpWrite e.1.1 else raw e.2) * 2 ^ (160 * e.2))).foldl (· + ·) 0
  (BitVec.ofNat 1024 body, r.any (·.2))

end Sys2Proof.Machine
end

