-- ==== Sys2Proof/Machine/FabOps.lean ====
section
/-! DEFINITION. Operations of fabric transactions (06): TXN fields, homes and paths, outstanding requests and their
completions, deliveries on LT_IR and responses, atomics at their home. -/

namespace Sys2Proof.Machine

/-- Who makes an access on LT_OR (R386). -/
def whoOr (inst port : Nat) (x : LtOr) : Who :=
  { inst := inst, unit := port, tag := some x.tag, layer := x.layer, opid := x.opid }

/-! TXN fields (R168, R169). -/

def txnReq (exp loff itag iinst : Nat) (retry : Bool) (reqid : Nat) : BitVec 96 :=
  BitVec.ofNat 96 (exp % 2 ^ 14 + ((loff % 2 ^ 36) <<< 14) + ((itag % 64) <<< 50) + ((iinst % 128) <<< 56)
    + ((if retry then 1 else 0) <<< 63) + ((reqid % 2 ^ 32) <<< 64))

def txnRsp (reqid iinst : Nat) (arcHit : Bool) (st : Status) : BitVec 96 :=
  BitVec.ofNat 96 (reqid % 2 ^ 32 + ((iinst % 128) <<< 32) + ((if arcHit then 1 else 0) <<< 39) + (statusCode st <<< 40))

def txnExport (t : BitVec 96) : Nat := fieldNat t 13 0
def txnLoff (t : BitVec 96) : Nat := fieldNat t 49 14
def txnItag (t : BitVec 96) : Nat := fieldNat t 55 50
def txnIinst (t : BitVec 96) : Nat := fieldNat t 62 56
def txnRetry (t : BitVec 96) : Bool := fieldBit t 63
def txnReqid (t : BitVec 96) : Nat := fieldNat t 95 64
def rspReqid (t : BitVec 96) : Nat := fieldNat t 31 0
def rspIinst (t : BitVec 96) : Nat := fieldNat t 38 32
def rspStatus (t : BitVec 96) : Nat := fieldNat t 47 40

/-! Operations (Table 2.5, Table 6.2). -/

/-- Defined OP values of LT_OR. -/
def opDefined (op : Nat) : Bool := decide (op ≤ 0x03 ∨ (0x08 ≤ op ∧ op ≤ 0x10) ∨ op = 0x18)

def opAtomic (op : Nat) : Bool := decide (0x08 ≤ op ∧ op ≤ 0x10)

/-- A window's PERM allows an operation (Table 6.2); a message window takes messages only (R159, R165). -/
def opAllowed (w : Win) (op : Nat) : Bool :=
  if op = 0x18 then w.msg
  else !w.msg && w.perm.getLsbD (if op = 0x01 then 1 else if op = 0x10 then 3 else if opAtomic op then 2 else 0)

/-- Byte `k` of a line. -/
def lineByte (l : Line) (k : Nat) : Nat := fieldNat l (8 * k + 7) (8 * k)

/-- Bytes `lo` to `hi` of a line are all zero. -/
def lineZero (l : Line) (lo hi : Nat) : Bool := fieldNat l (8 * hi + 7) (8 * lo) == 0

/-- A legal operand line for an atomic (R181). -/
def operandLegal (op : Nat) (l : Line) : Bool :=
  let width := lineByte l 16
  let w := if width = 0 then 4 else 8
  let boff := fieldNat l 151 144
  let signed := lineByte l 17
  let f := BitVec.ofNat 8 (lineByte l 20)
  decide (signed < 2) && lineZero l 22 23 && lineZero l 32 63 && lineZero l 112 127
    && (op == 0x0A || lineZero l 8 15)
    && (if op = 0x10 then fmtLegal f && !fmtMx f && decide (1 ≤ lineByte l 21 ∧ lineByte l 21 ≤ 6) && boff == 0
        else decide (width < 2) && boff % w == 0 && decide (boff + w ≤ 128))

/-- An integer atomic on a line: the line written back and the result line (R181). -/
def intAtomic (op : Nat) (line opnd : Line) : Line × Line :=
  let w := if lineByte opnd 16 = 0 then 32 else 64
  let at' := 8 * fieldNat opnd 151 144
  let old := fieldNat line (at' + w - 1) at'
  let a := fieldNat opnd (w - 1) 0
  let c := fieldNat opnd (64 + w - 1) 64
  let less := fun (x y : Nat) => if lineByte opnd 17 = 1 then decide (signedOf w x < signedOf w y) else decide (x < y)
  let (new, hit) := match op with
    | 0x08 => ((old + a) % 2 ^ w, false)
    | 0x09 => (a, false)
    | 0x0A => if old = c then (a, true) else (old, false)
    | 0x0B => (if less a old then a else old, false)
    | 0x0C => (if less old a then a else old, false)
    | 0x0D => (old &&& a, false)
    | 0x0E => (old ||| a, false)
    | _ => (old ^^^ a, false)
  let cleared := line &&& ~~~ (BitVec.ofNat 1024 ((2 ^ w - 1) <<< at'))
  (cleared ||| BitVec.ofNat 1024 (new <<< at'), BitVec.ofNat 1024 (old + (if hit then 2 ^ 64 else 0)))

/-! Homes and paths (R171 to R174). -/

/-- Home of a line group under a mask (R171); none where the mask is empty. -/
def homeOf (dst exp g : Nat) (mask : BitVec 64) : Option Nat :=
  let h := fun (j : Nat) => (crc32c (leBytes 2 dst ++ leBytes 2 exp ++ leBytes 5 g ++ leBytes 1 j)).toNat
  ((List.range 64).filter (fun j => mask.getLsbD j)).foldl (fun a j =>
    match a with
    | some k => if h k < h j then some j else some k
    | none => some j) none

/-- LCSs of an instance in service. -/
def instLcs (b : Block) (i : Nat) : List Nat :=
  (List.range 64).filter (fun n => (getLcs b n).present && (getLcs b n).inst == i && lcsIn b n)

/-- The mask last applied for a peer (R172). -/
def peerMaskOf (b : Block) (d : Pkg) : BitVec 64 := (Sparse.get none b.fab.peerMask d.toNat).getD 0

/-- What a path toward a destination depends on (R174): its mask, and the in-service LCSs with their UP pairs. -/
def pathSig (b : Block) (i : Nat) (d : Pkg) : BitVec 64 × List (Nat × Nat) :=
  (peerMaskOf b d, (instLcs b i).flatMap (fun n =>
    ((getLport b n).pairs.filter (fun e => e.2.valid && e.2.up && e.2.peer == d)).map (fun e => (n, e.2.lcs))))

/-- Initiating LCS and home of a line group (R171, R173). -/
def choosePath (b : Block) (i : Nat) (d : Pkg) (exp g : Nat) : Option (Nat × Nat) :=
  match homeOf d.toNat exp g (peerMaskOf b d) with
  | none => none
  | some home =>
    let e := (instLcs b i).filter (fun n => pairUp b n d home)
    let c := (crc32c (leBytes 1 i ++ leBytes 2 d.toNat ++ leBytes 2 exp ++ leBytes 5 g ++ leBytes 1 home
      ++ leBytes 8 b.rgn.saltP.toNat)).toNat
    (e[c * e.length / 2 ^ 32]?).map (fun n => (n, home))

/-- The TLB with an entry at its front, at most 2,048 (R164). -/
def tlbUse (k : Nat) (l : List Nat) : List Nat := (k :: l.filter (· != k)).take 2048

/-- The serving range that holds a window (R160). -/
def servingOf (b : Block) (base size : Nat) : Option Nat :=
  (b.fab.serving.find? (fun s => decide (s.base ≤ base ∧ base + size ≤ s.base + s.size))).map (·.inst)

/-- A pod (R160). -/
def podOf (p : Pkg) : Nat := fieldNat p 13 9

/-! Completions on LT_OC (R170, Table 2.4). -/

def ocPush (i port : Nat) (c : LtOc) (b : Block) : Block := updFab i (fun f => { f with oc := f.oc ++ [(port, c)] }) b

/-- A completion without data. -/
def ocPlain (i port : Nat) (id : BitVec 12) (op : Nat) (st : Status) (b : Block) : Block :=
  let rd := op == 0x00 || op == 0x02 || (op == 0x03 && st != .timeout)
  ocPush i port { id := id, data := 0, poison := rd && statusFailing st, status := st, sorrel := sorrelOf 0, sorigin := false } b

/-! Outstanding requests (R176 to R179). -/

def getOut (b : Block) (i e : Nat) : Outst := Sparse.get {} (getFab b i).outst e
def updOut (i e : Nat) (f : Outst → Outst) (b : Block) : Block :=
  updFab i (fun x => { x with outst := Sparse.upd {} x.outst e f }) b

/-- REQID of an entry (R176). -/
def reqidOf (e : Nat) (o : Outst) : Nat := e + ((o.uses % 2 ^ 17) <<< 15)

/-- One more failing status in a context's write tally (R178, R190). -/
def addTally (ctx : Ctx) (st : Status) (b : Block) : Block :=
  if statusFailing st then
    { b with fab := { b.fab with tally := Sparse.upd [] b.fab.tally ctx.toNat (fun l => [statusWorst (st :: l)]) } }
  else b

/-- A request completes: its LT_OC (a posted write has had it: the tally takes a failure), and its entry is free. -/
def completeReq (i e : Nat) (st : Status) (line : Line) (poison : Bool) (sorrel : BitVec 32) (sorigin : Bool) (b : Block) : Block :=
  let o := getOut b i e
  if !o.live then b
  else
    let b := updOut i e (fun o => { uses := o.uses + 1 }) b
    if o.op = 0x01 then addTally o.ctx st b
    else
      let st := statusMin o.st st
      if statusFailing st then ocPlain i o.port o.id o.op st b
      else
        let w := getWin b o.win
        let data := if o.op = 0x03 then BitVec.ofNat 1024 (w.base * 2 ^ 21 + w.size * 2 ^ 21 * 2 ^ 64)
          else if o.op = 0x10 then 0 else line
        let chk := if o.op = 0x03 ∨ o.op = 0x10 then sorrelOf data else sorrel
        ocPush i o.port { id := o.id, data := data, poison := poison, status := st, sorrel := chk,
                          sorigin := sorigin && o.op != 0x03 && o.op != 0x10 } b

/-- Complete every outstanding request a test holds of as R179 states, with a status: atomics INDETERMINATE, each
with INT[5]. -/
def killReqs (p : Outst → Bool) (st : Status) (b : Block) : Block :=
  b.fab.inst.foldl (fun b x =>
    (x.2.outst.filter (fun e => e.2.live && p e.2)).foldl (fun b e =>
      raise x.1 5 (completeReq x.1 e.1 (if opAtomic e.2.op then .indeterminate else st) 0 false 0 false b)) b) b

/-- A request packet of an entry (R166, R168, R184). -/
def reqPkt (b : Block) (i : Nat) (op : Nat) (dst : Pkg) (lcs home exp loff : Nat) (tag : Tag) (retry : Bool) (reqid : Nat)
    (lines : List (Line × BitVec 32)) (origin poison : BitVec 4) : Pkt :=
  { vc := 0, ce := false, op := op, cls := if op = 0x18 then clsMsg else clsReq, dst := dst, dstLcs := home,
    src := b.trust.dom.pkg, srcLcs := lcs, origin := if opAtomic op then 0 else origin, poison := poison,
    txn := txnReq exp loff tag.toNat i retry reqid, lines := lines }

/-! Deliveries on LT_IR (R40, R165). -/

/-- Deliver line operations on LT_IR. -/
def deliver (n : Nat) (l : List Inb) (b : Block) : Block :=
  updLport n (fun p => { p with inb := p.inb ++ l.map (fun x => { x with order := p.seq }), seq := p.seq + 1 }) b

/-- A delivery of a fabric request under an export (R165, R386). -/
def inbOf (use : InbUse) (rd : Bool) (w : Win) (addr op flits vc : Nat) (data : Line) (sorrel : BitVec 32) (poison : Bool) : Inb :=
  { id := 0, use := use, rd := rd, addr := BitVec.ofNat 45 addr, tag := w.tag, ctx := w.ctx, layer := 0xFFFF,
    opid := BitVec.ofNat 16 op, data := data, svalid := !rd, sorrel := sorrel, poison := poison, order := 0, flits := flits, vc := vc,
    sent := false }

/-- The answer to a request goes back over its pair (R175): one line for reads and value atomics (Table 6.2). -/
def respond (n pair : Nat) (q : Pkt) (arcHit : Bool) (st : Status) (line : Line) (sorrel : BitVec 32) (origin poison : Bool)
    (b : Block) : Block :=
  let p := getPair b n pair
  if !p.valid || !p.up then count (whoLcs b n) (evFab 8) b
  else
    let one := q.op == 0x00 || q.op == 0x02 || (opAtomic q.op && q.op != 0x10)
    let rsp : Pkt :=
      { vc := 0, ce := false, op := q.op, cls := clsRsp, dst := q.src, dstLcs := q.srcLcs, src := q.dst, srcLcs := n,
        origin := if one && origin then 1 else 0, poison := if one && poison then 1 else 0,
        txn := txnRsp (txnReqid q.txn) (txnIinst q.txn) arcHit st, lines := if one then [(line, sorrel)] else [] }
    stageOrWait (getLcs b n).inst { lcs := n, pkt := rsp, shared := false, entry := none, tag := (getWin b (txnExport q.txn)).tag,
                                    held := false } b

/-- An answer that carries a status and no data of memory. -/
def respondSt (n pair : Nat) (q : Pkt) (st : Status) (b : Block) : Block :=
  respond n pair q false st 0 (sorrelOf 0) false (q.op < 0x08 && statusFailing st) b

/-- Acquires whose earlier deliveries on their pair and VC have completed are answered (R191). -/
def answerAcquires (n : Nat) (b : Block) : Block :=
  (getLport b n).acq.foldl (fun b a =>
    let open' := (getLport b n).inb.any (fun x => decide (x.order < a.2.2) && (match x.use with
      | .read p _ => p == a.1
      | .write p _ _ _ => p == a.1
      | _ => false))
    let atoms := (getLport b n).arc.any (fun x => x.pending && x.pair == a.1 && decide (x.order < a.2.2))
    if open' || atoms then b
    else
      let w := getWin b (txnExport a.2.1.txn)
      let st := if w.valid && w.exp && !w.deleting then Status.ok else .notOwner
      respondSt n a.1 a.2.1 st (updLport n (fun p => { p with acq := p.acq.filter (fun x => x != a) }) b)) b

/-! Atomics at their home (R182 to R186). -/

/-- Change the pending entry of an identity. -/
def updArc (n : Nat) (src : Pkg) (iinst reqid : Nat) (f : Arc → Arc) (b : Block) : Block :=
  let mine := fun (x : Arc) => x.src == src && x.iinst == iinst && x.reqid == reqid && x.pending
  updLport n (fun p => { p with arc := updateWhere mine f p.arc }) b

/-- Start the oldest pending atomic of a line, where none is under way (R182). -/
def startAtomic (n : Nat) (line : LineAddr) (b : Block) : Block :=
  match (getLport b n).arc.find? (fun a => a.pending && a.line == line) with
  | none => b
  | some a =>
    if a.started then b
    else
      let b := updArc n a.src a.iinst a.reqid (fun x => { x with started := true }) b
      let w := getWin b (txnExport a.pkt.txn)
      deliver n [{ inbOf (.atomRead a.src a.iinst a.reqid) true w a.line.toNat a.pkt.op 0 a.pkt.vc 0 0 false with
        tag := a.tag, ctx := a.ctx }] b

/-- An atomic ends: its outcome is recorded, its transmissions are answered, the next of its line starts. -/
def endAtomic (n : Nat) (src : Pkg) (iinst reqid : Nat) (st : Status) (result : Line) (b : Block) : Block :=
  match (getLport b n).arc.find? (fun a => a.src == src && a.iinst == iinst && a.reqid == reqid && a.pending) with
  | none => b
  | some a =>
    let res := if statusFailing st then 0 else result
    let b := updArc n src iinst reqid (fun x => { x with pending := false, status := st, result := res, waiters := [] }) b
    let b := respond n a.pair a.pkt false st res (sorrelOf res) false false b
    let b := a.waiters.foldl (fun b w => respond n w.1 w.2 true st res (sorrelOf res) false false b) b
    startAtomic n a.line b

end Sys2Proof.Machine
end

