-- ==== Sys2Proof/Machine/Windows.lean ====
section
/-! DEFINITION. Windows and home masks (06 R159 to R164, R171, R172, R179). -/

namespace Sys2Proof.Machine

/-- The staged window (R159). -/
def stagedWin (s : BitVec 256) : Win :=
  let exp := fieldBit s 1
  { valid := true, exp := exp, msg := fieldBit s 2, perm := BitVec.ofNat 4 (fieldNat s 7 4),
    tag := BitVec.ofNat 6 (fieldNat s 13 8), ctx := BitVec.ofNat 16 (fieldNat s 31 16), base := fieldNat s 62 32,
    size := fieldNat s 86 64, peer := BitVec.ofNat 14 (fieldNat s 109 96),
    peerTag := if exp then BitVec.ofNat 6 (fieldNat s 115 110) else 0, peerExp := if exp then 0 else fieldNat s 141 128 }

/-- The entry as its register shows it (R159). -/
def winWord (w : Win) : BitVec 256 :=
  BitVec.ofNat 256 (w.valid.toNat + (w.exp.toNat <<< 1) + (w.msg.toNat <<< 2) + (w.perm.toNat <<< 4) + (w.tag.toNat <<< 8)
    + (w.ctx.toNat <<< 16) + (w.base <<< 32) + (w.size <<< 64) + (w.peer.toNat <<< 96) + (w.peerTag.toNat <<< 110)
    + (w.peerExp <<< 128))

/-- The staged window of a source; a queue's context and tag are forced (R320). -/
def stageWin (b : Block) (src : Src) : Win :=
  match src with
  | .reg _ _ => stagedWin b.fab.stage
  | s =>
    let w := match srcCmd b s with
      | some c => stagedWin (BitVec.ofNat 256 (leNat ((c.bytes.drop 48).take 32)))
      | none => {}
    let q := reqOf b src
    if q.kernel then w else { w with ctx := q.ctx, tag := q.tag }

/-- The binding entry of a package (R286). -/
def bindOf (b : Block) (p : Pkg) : Option (Nat × Bind) := b.trust.dom.binds.find? (fun e => e.2.pkg == p && e.2.state != .free)

/-- Bound as an admitted peer (R286). -/
def boundPeer (b : Block) (p : Pkg) : Bool := b.trust.dom.binds.any (fun e => e.2.pkg == p && e.2.state == .admitted)

/-- This package holds an UP pair with a package over a link that is up. -/
def upWith (b : Block) (p : Pkg) : Bool :=
  b.lport.any (fun e => e.2.up && e.2.pairs.any (fun q => q.2.valid && q.2.up && q.2.peer == p))

/-- A domain message's bytes as data packets of the CTL class over an UP pair, four lines a packet at most (R283). -/
def ctlText (dst : Pkg) (text : Bytes) (b : Block) : Block :=
  match (b.inst.map (·.1)).filterMap (fun i => (choosePath b i dst 0 0).map (fun p => (i, p))) with
  | (i, (n, home)) :: _ =>
    let lines := (chunksOf 128 (text.length / 128 + 1) text).map (fun x => (lineOf x, sorrelOf (lineOf x)))
    (chunksOf 4 (lines.length / 4 + 1) lines).foldl (fun b l =>
      stageOrWait i
        { lcs := n, shared := false, entry := none, tag := 0, held := false,
          pkt := { vc := 0, ce := false, op := Config.domOp.toNat, cls := clsCtl, dst := dst, dstLcs := home, src := b.trust.dom.pkg, srcLcs := n,
                   origin := 0, poison := 0, txn := 0, lines := l } } b) b
  | [] => b

/-- Send a domain message (R283): over an UP pair where there is one, without a signature; else it waits for the relay, signed. -/
def domSend (dst : Pkg) (m : DomBody) (b : Block) : Block :=
  let text := domText b m (b.trust.dom.seq + 1)
  let o : DomOut := { dst := dst, body := m, seq := b.trust.dom.seq + 1 }
  if upWith b dst then
    ctlText dst text (updDom (fun d => { d with seq := d.seq + 1, lastOut := o :: d.lastOut.filter (fun x => x.dst != dst) }) b)
  else
    let (n, b) := fresh b
    updDom (fun d => { d with seq := d.seq + 1, out := d.out ++ [{ o with sig := some (aliasEc b text n) }] }) b

/-- The admitted peers. -/
def members (b : Block) : List Pkg :=
  ((b.trust.dom.binds.filter (fun e => e.2.state == .admitted)).map (fun e => e.2.pkg)).filter (· != b.trust.dom.pkg)

/-- Send a domain message to every admitted peer. -/
def domSendAll (m : DomBody) (b : Block) : Block := (members b).foldl (fun b p => domSend p m b) b

/-- A peer is named: its binding is used, and a member that holds none asks the DKA (R286). -/
def askBind (p : Pkg) (b : Block) : Block :=
  let d := b.trust.dom
  let now := (d.binds.map (fun e => e.2.used)).foldl max 0 + 1
  match bindOf b p with
  | some (k, _) => updDom (fun d => { d with binds := Sparse.upd {} d.binds k (fun e => { e with used := now }) }) b
  | none =>
    match d.auth with
    | some (dka, _) =>
      if d.state == .admitted && d.role != .dka && p != d.pkg && !d.out.any (fun o => o.body == .bindQuery p none) then
        domSend dka (.bindQuery p none) b
      else b
    | none => b

/-- Two ranges share a unit. -/
def overlaps (b1 s1 b2 s2 : Nat) : Bool := decide (b1 < b2 + s2 ∧ b2 < b1 + s1)

/-- Units of a range that valid regions with a tag and context do not hold. -/
def uncovered (b : Block) (w : Win) : Nat :=
  let mine := b.rgn.table.filter (fun e => e.2.state != .free && e.2.state != .retiring && e.2.tag == w.tag && e.2.owner == w.ctx)
  let held := mine.map (fun e => min (e.2.base + e.2.size) (w.base + w.size) - max e.2.base w.base)
  w.size - held.foldl (· + ·) 0

/-- Table 6.1. -/
def winChecks (b : Block) (w : Win) : List Status :=
  let size := if w.size = 0 ∨ 0x400000 < w.size ∨ 2 ^ 31 < w.base + w.size ∨ (w.msg = true ∧ 1024 < w.size) then [Status.badConfig] else []
  let peer := if w.peer = b.trust.dom.pkg ∨ boundPeer b w.peer = false then [Status.badConfig] else []
  let imp :=
    if w.exp then []
    else
      (if (servingOf b w.base w.size).isNone then [Status.badConfig] else [])
      ++ (if b.fab.table.any (fun e => e.2.valid && !e.2.exp && e.2.tag == w.tag && overlaps e.2.base e.2.size w.base w.size) then [Status.badConfig] else [])
      ++ (if !w.msg && podOf w.peer != podOf b.trust.dom.pkg then [Status.badConfig] else [])
  let exp :=
    if !w.exp then []
    else
      (if (w.msg || w.perm.toNat / 2 != 0) && b.rgn.table.any (fun e => e.2.state != .free && e.2.mode == .ro && overlaps e.2.base e.2.size w.base w.size)
       then [Status.badConfig] else [])
      ++ (if uncovered b w = 0 then [] else [Status.notOwner])
  let full := if (lowestFrom (fun k => !(getWin b k).valid) 16384 0).isNone then [Status.quota] else []
  size ++ peer ++ imp ++ exp ++ full

/-- CREATE of a window (R162). -/
def bodyCreateWindow (src : Src) (b : Block) : Block :=
  let q := reqOf b src
  let w := stageWin b src
  let bad := winChecks b w ++ (if q.kernel && kClosed b w.tag then [Status.notOwner] else [])
  let b := askBind w.peer b
  match bad, lowestFrom (fun k => !(getWin b k).valid) 16384 0 with
  | [], some i => cmdDone .wtu src .ok (handleOf b tyWin i) i (newRef tyWin i (setWin i w b))
  | l, _ => cmdDone .wtu src (statusWorst l) 0 b.fab.sts.index b

/-- Index named by a window command. -/
def winIndex (b : Block) (src : Src) : Nat := fieldNat (srcWord b src) 15 2

/-- Start the DELETE of a window: new use stops (R163). -/
def startDelete (i : Nat) (src : Option Src) (b : Block) : Block :=
  let b := setWin i { getWin b i with deleting := true } b
  let b := match src with
    | some s => { b with fab := { b.fab with delSrc := b.fab.delSrc ++ [(i, s)] } }
    | none => b
  dyingRef tyWin i { b with fab := { b.fab with inst := Sparse.mapAll {} b.fab.inst (fun _ f => { f with tlb := f.tlb.filter (· != i) }) } }

/-- DELETE of a window (R163). -/
def bodyDelete (src : Src) (b : Block) : Block :=
  let i := winIndex b src
  let w := getWin b i
  let bad := (if w.valid && !w.deleting then [] else [Status.badConfig])
    ++ (if w.valid && !mayAct b (reqOf b src) w.ctx w.tag then [Status.notOwner] else [])
  if bad.isEmpty then startDelete i (some src) b else cmdDone .wtu src (statusWorst bad) 0 i b

/-- Nothing translated through an import, or delivered under an export, is open (R163). -/
def winIdle (b : Block) (i : Nat) : Bool :=
  let ofPkt := fun (q : Pkt) => txnExport q.txn == i
  if (getWin b i).exp then
    b.lport.all (fun e => !e.2.arc.any (fun a => a.pending && ofPkt a.pkt) && !e.2.inb.any (fun x => match x.use with
      | .read _ q => ofPkt q
      | .write _ q _ _ => ofPkt q
      | .message x _ _ _ => x == i
      | .descriptor x => x == i
      | _ => false))
  else b.fab.inst.all (fun f => !f.2.outst.any (fun o => o.2.live && o.2.win == i) && !f.2.held.any (fun h => h.win == some i))

/-- The mutation of DELETE_COMPLETE. -/
def bodyDeleteComplete (i : Nat) (b : Block) : Block :=
  let src := (b.fab.delSrc.find? (fun e => e.1 == i)).map (·.2)
  let b := { b with fab := { b.fab with delSrc := b.fab.delSrc.filter (fun e => e.1 != i) } }
  let b := freeRef tyWin i (setWin i {} b)
  match src with
  | some s => cmdDone .wtu s .ok 0 i b
  | none => b

/-- CREATE_WINDOW (R162). -/
def effCreateWindow (src : Src) (b : Block) : Block := runCmd (.createWindow src) .wtu src 0x51 1 (bodyCreateWindow src) b

/-- DELETE (R163). -/
def effDelete (src : Src) (b : Block) : Block := runCmd (.delete src) .wtu src 0x51 2 (bodyDelete src) b

/-- DELETE_COMPLETE (R163). -/
def effDeleteComplete (i : Nat) (b : Block) : Block :=
  if (getWin b i).deleting && winIdle b i then mutate (.deleteComplete i) (bodyDeleteComplete i) b else b

/-! Home masks (R171, R172). -/

/-- HOME_MASK_PUBLISH (R172): the new mask goes to every admitted peer; masks of the last 20 µs are kept. -/
def effHomeMaskPublish (b : Block) : Block :=
  let m := ownMask b
  if m = b.fab.mask ∨ (primaryInst b).isNone then b
  else
    let old := ((b.time, b.fab.mask) :: b.fab.masks).filter (fun e => decide (b.time.toNat ≤ e.1.toNat + 20000))
    let b := { b with fab := { b.fab with mask := m, masks := old } }
    domSendAll (.homeMask m) b

/-- HOME_MASK_RECEIVE (R172) from an admitted peer; an empty mask makes it dead by PEER_DEAD (R354). -/
def effHomeMaskReceive (peer : Pkg) (mask : BitVec 64) (b : Block) : Block :=
  if boundPeer b peer then { b with fab := { b.fab with peerMask := Sparse.set none b.fab.peerMask peer.toNat (some mask) } } else b

/-- PEER_DEAD (R179, R354): outstanding requests end, and new ones complete at once. -/
def peerDead (peer : Pkg) (b : Block) : Block :=
  let b := if b.fab.dead.contains peer then b else { b with fab := { b.fab with dead := b.fab.dead ++ [peer] } }
  killReqs (fun o => o.dst == peer) .outOfService b

end Sys2Proof.Machine
end

