-- ==== Sys2Proof/Machine/Pairs.lean ====
section
/-! DEFINITION. Pairs between packages (R286, R289): the binding table, the handshake's LINK entries and epoch keys, and the
start of a handshake. -/

namespace Sys2Proof.Machine

/-! The binding table (R286). -/

/-- Something still refers to a peer: a pair, a window or a plan. -/
def peerUsed (b : Block) (p : Pkg) : Bool :=
  b.lport.any (fun e => e.2.pairs.any (fun q => q.2.valid && q.2.peer == p))
    || b.fab.table.any (fun e => e.2.valid && e.2.peer == p)
    || b.red.plans.any (fun x => x.steps.any (fun s => s.inPkg == p || s.outPkg == p))

/-- The binding that a full member's table gives up. -/
def bindVictim (b : Block) : Option Nat :=
  ((b.trust.dom.binds.filter (fun e => !peerUsed b e.2.pkg)).foldl
    (fun (a : Option (Nat × Bind)) e => match a with
      | some x => if e.2.used < x.2.used then some e else some x
      | none => some e) none).map (·.1)

/-- Write a binding, keyed by identity; none where the table is full. -/
def putBind (e : Bind) (b : Block) : Option Block :=
  let d := b.trust.dom
  let place := match d.binds.find? (fun x => x.2.ident == e.ident) with
    | some x => some x.1
    | none => match lowestFrom (fun k => (Sparse.get ({} : Bind) d.binds k).state == BindState.free) 16384 0 with
      | some k => some k
      | none => if d.role = DomRole.member then bindVictim b else none
  let now := (d.binds.map (fun e => e.2.used)).foldl max 0 + 1
  place.map (fun k => updDom (fun d => { d with binds := Sparse.set {} d.binds k { e with used := now } }) b)

/-- Remove the binding of an identity. -/
def dropBind (ident : Digest) (b : Block) : Block :=
  updDom (fun d => { d with binds := d.binds.filter (fun e => e.2.ident != ident) }) b

/-! Pairs with a package. -/

/-- A change of every installed pair with a package. -/
def eachPair (p : Pkg) (f : Nat → Nat → Block → Block) (b : Block) : Block :=
  b.lport.foldl (fun b e => (e.2.pairs.filter (fun q => q.2.valid && q.2.peer == p)).foldl (fun b q => f e.1 q.1 b) b) b

/-- In-service LCSs of an instance, in order. -/
def instIn (b : Block) (i : Nat) : List Nat := (List.range 64).filter (fun n => lcsIn b n && (getLcs b n).inst == i)

/-- R289: the pairs of own instance `i` with every LCS of the peer, own LCS first. -/
def pairsMine (b : Block) (i : Nat) (peer : Pkg) (lcs : List Nat) : List (Nat × Nat) :=
  let l := instIn b i
  lcs.filterMap (fun j => (l[(j + peer.toNat) % l.length]?).map (fun n => (n, j)))

/-- R289: the pairs of every own LCS with the LCSs of the peer's instance, own LCS first. -/
def pairsTheirs (b : Block) (lcs : List Nat) : List (Nat × Nat) :=
  ((List.range 64).filter (lcsIn b)).filterMap (fun j => (lcs[(j + b.trust.dom.pkg.toNat) % lcs.length]?).map (fun n => (j, n)))

/-! LINK entries and epoch keys (R289, R296). -/

/-- The next epoch key of a pair (Table 9.5, label 0x20). -/
def epochKey (k : Key) (e : Nat) : Key := kdfKey k "link-epoch" (leBytes 3 e)

/-- A LINK seed as an entry under index 8. -/
def writeLink (seed : Key) (b : Block) : Option (Nat × Block) :=
  (freeKey b).map (fun k =>
    (k, writeKey k { type := 9, depth := 3, sys := true, usage := 0x20, parent := 8, budget := unlimited, key := seed } b))

/-- Keys of the installation epoch `e` and the next, and the one after where the grant covers it. -/
def linkKeys (seed : Key) (e grant : Nat) : List (Nat × Key) :=
  let k0 := epochKey seed e
  let k1 := epochKey k0 (e + 1)
  [(e, k0), (e + 1, k1)] ++ (if e + 2 ≤ grant then [(e + 2, epochKey k1 (e + 2))] else [])

/-- Install the pairs of a handshake from its LINK entries, and invalidate these; whether a pair table was full. An entry whose use
fails its check installs nothing (R253). -/
def installHand (h : Hand) (e : Nat) (b : Block) : Bool × Block :=
  h.pairs.foldl (fun a x =>
    let seed := (getKey a.2 x.2.2).key
    if !keyUsable (getKey a.2 x.2.2) then a else
    match installPair x.1 h.peer x.2.1 (linkKeys seed e a.2.trust.dom.grant) a.2 with
    | some b' => (a.1, invalidateKey x.2.2 b')
    | none => (true, invalidateKey x.2.2 a.2)) (false, b)

/-- Drop the LINK entries of a handshake that ends without keys. -/
def dropHand (h : Hand) (b : Block) : Block := h.pairs.foldl (fun b x => invalidateKey x.2.2 b) b

/-! Handshakes. -/

def updHand (p : Pkg) (f : Hand → Hand) (b : Block) : Block :=
  updDom (fun d => { d with hands := updateWhere (fun h => h.peer == p) f d.hands }) b
def handOf (b : Block) (p : Pkg) : Option Hand := b.trust.dom.hands.find? (fun h => h.peer == p)

/-- A handshake under way, or ended within the last second (R288). -/
def handFresh (b : Block) (h : Hand) : Bool := !h.done || decide (b.time.toNat < h.started.toNat + 1000000000)

/-- Start a handshake (R289): the lower-numbered package sends HELLO, with its encapsulation key and its in-service LCSs: those of the
instance, those that a plan names, else all. One under way goes on. -/
def startHand (peer : Pkg) (inst : Option Nat) (want : List (Nat × Nat)) (b : Block) : Block :=
  if (handOf b peer).any (fun h => !h.done) then b
  else
    let h : Hand := { peer := peer, inst := inst, want := want, started := b.time, pairs := [], done := false }
    let b := updDom (fun d => { d with hands := h :: d.hands.filter (fun x => x.peer != peer) }) b
    let lcs := match inst with
      | some i => instIn b i
      | none => if want.isEmpty then (List.range 64).filter (lcsIn b) else (want.map (·.1)).eraseDups
    if b.trust.dom.pkg.toNat < peer.toNat then domSend peer (.hello (importKey b) lcs) b else b

/-- R289: connect every pair that a plan's steps name and that is not installed. -/
def connectPlan (p : Plan) (b : Block) : Block :=
  let named := p.steps.flatMap (fun s => (if stepIns s then [(s.exec, s.inPkg, s.inLcs)] else [])
    ++ (if stepOuts s then [(s.outLcs, s.outPkg, s.outPeer)] else []))
  let missing := named.filter (fun x => (findPair b x.1 x.2.1 x.2.2).isNone && x.2.1 != b.trust.dom.pkg)
  (missing.map (fun x => x.2.1)).eraseDups.foldl
    (fun b q => startHand q none ((missing.filter (fun x => x.2.1 == q)).map (fun x => (x.1, x.2.2))).eraseDups b) b
where
  stepIns (s : Step) : Bool := s.flags.getLsbD 0
  stepOuts (s : Step) : Bool := s.flags.getLsbD 4

end Sys2Proof.Machine
end

