-- ==== Sys2Proof/Machine/RedOps.lean ====
section
/-! DEFINITION. Collective Plans and their invocations (07 R213 to R226, R398): plan images, steps line by line, plan
packets, abort packets and the end of an invocation. -/

namespace Sys2Proof.Machine

/-! Steps (Table 7.9). -/

def stIn (s : Step) : Bool := s.flags.getLsbD 0
def stInXp (s : Step) : Bool := s.flags.getLsbD 1
def stLoc (s : Step) : Bool := s.flags.getLsbD 2
def stLocXp (s : Step) : Bool := s.flags.getLsbD 3
def stOut (s : Step) : Bool := s.flags.getLsbD 4
def stOutXp (s : Step) : Bool := s.flags.getLsbD 5
def stWr (s : Step) : Bool := s.flags.getLsbD 6
def stWrXp (s : Step) : Bool := s.flags.getLsbD 7
def stInRes (s : Step) : Bool := s.flags2.getLsbD 0
def stOutRes (s : Step) : Bool := s.flags2.getLsbD 1

/-- The form of a stream of lines: partials, contributions in IFMT, results in OFMT. -/
inductive Form where
  | xp | inp | res
  deriving DecidableEq, Repr

def formIn (s : Step) : Form := if stInXp s then .xp else if stInRes s then .res else .inp
def formLoc (s : Step) : Form := if stLocXp s then .xp else .inp
def formOut (s : Step) : Form := if stOutXp s then .xp else if stOutRes s then .res else .inp
def formWr (s : Step) : Form := if stWrXp s then .xp else .res

/-- Elements per line of a form. -/
def formEpl (p : Plan) : Form → Nat
  | .xp => 6 | .inp => epl p.ifmt | .res => epl p.ofmt

/-- Lines of a step's transfer in a form. -/
def formLines (p : Plan) (ce : Nat) (f : Form) : Nat := ce / formEpl p f

/-- Element format of a native form. -/
def formFmt (p : Plan) : Form → BitVec 8
  | .res => p.ofmt | _ => p.ifmt

/-! Plan images (R215, R217). -/

/-- A step of 32 bytes (Table 7.9). -/
def stepOf (l : Bytes) : Step :=
  let b := fun (k : Nat) => ((l[k]?).getD 0).toNat
  { exec := b 0, flags := BitVec.ofNat 8 (b 1), flags2 := BitVec.ofNat 8 (b 2), chunk := b 3, dep := b 4, outStep := b 5,
    inPkg := BitVec.ofNat 14 (b 6 + 256 * b 7), inLcs := b 8, outLcs := b 9, outPkg := BitVec.ofNat 14 (b 10 + 256 * b 11),
    outPeer := b 12 }

/-- A plan of its image (Table 7.8). -/
def planOf (ctx : Ctx) (l : Bytes) : Plan :=
  let b := fun (k : Nat) => ((l[k]?).getD 0).toNat
  { id := b 10, ctx := ctx, op := b 6, ifmt := BitVec.ofNat 8 (b 7), ofmt := BitVec.ofNat 8 (b 8), stoch := b 9 == 1,
    timeout := b 12 + 256 * b 13, steps := (List.range (b 5)).map (fun k => stepOf ((l.drop (64 + 32 * k)).take 32)) }

/-- Operation and formats of Table 7.2. -/
def opFormats (op : Nat) (i o : BitVec 8) : Bool :=
  fmtLegal i && fmtLegal o &&
  match op with
  | 0 => fmtInt i == fmtInt o
  | 1 => i == o && (fmtFp i || (fmtInt i && !fmtSat i))
  | 2 => i == o && (fmtFp i || (fmtInt i && !fmtSat i))
  | 3 => i == o && fmtInt i && !fmtSat i
  | 4 => i == o && fmtInt i && !fmtSat i
  | 5 => i == o && fmtInt i && !fmtSat i
  | _ => false

/-- Flags and DEP of step `k` (Table 7.10, rows 2 to 4). -/
def stepFlagsOk (op k : Nat) (s : Step) : Bool :=
  let value := (stIn s && stLoc s) || (stIn s && (stInXp s || stInRes s)) || (stLoc s && stLocXp s)
  (stIn s || stLoc s) && (stOut s || stWr s)
    && (op == 0 || !(stInXp s && stIn s || stLocXp s && stLoc s || stOutXp s && stOut s || stWrXp s && stWr s))
    && !(stIn s && !stInXp s && stInRes s && stLoc s)
    && (op != 0 || !stOut s || stOutXp s || stOutRes s == value)
    && (s.dep == 0 || (!stIn s && decide (s.dep ≤ k)))

/-- Zero fields of an image are zero, and no step in use names a package number of more than 14 bits: it names no bound peer. -/
def imageZeros (l : Bytes) (n : Nat) : Bool :=
  let z := fun (lo hi : Nat) => ((l.drop lo).take (hi - lo)).all (· == 0)
  let pkgOk := fun (k : Nat) => decide (((l[k]?).getD 0).toNat < 64)
  z 11 12 && z 14 64 && (List.range n).all (fun k =>
    let s := stepOf ((l.drop (64 + 32 * k)).take 32)
    z (64 + 32 * k + 13) (64 + 32 * k + 32) && fieldNat s.flags2 7 2 == 0
      && (!stIn s || pkgOk (64 + 32 * k + 7)) && (!stOut s || pkgOk (64 + 32 * k + 11)))

/-- An LCS of this package. -/
def lcsHere (b : Block) (n : Nat) : Bool := decide (n < 64) && (getLcs b n).present

/-- Where a step's fields name LCSs and peers (Table 7.10, rows 5 and 6). -/
def stepPlacesOk (b : Block) (s : Step) : Bool :=
  let peer := fun (p : Pkg) => boundPeer b p && p != b.trust.dom.pkg
  lcsHere b s.exec && (!stIn s || peer s.inPkg)
    && (!stOut s || (lcsHere b s.outLcs && (getLcs b s.outLcs).inst == (getLcs b s.exec).inst && peer s.outPkg))

/-- Steps installed in a lane. -/
def laneSteps (b : Block) (n : Nat) : Nat := ((b.red.plans.flatMap (fun p => p.steps)).filter (fun s => s.exec == n)).length

/-- Table 7.10. -/
def planChecks (b : Block) (l : Bytes) (p : Plan) : List Status :=
  let byte := fun (k : Nat) => ((l[k]?).getD 0).toNat
  let ok := l.take 4 == [0x5A, 0x5A, 0x33, 0x50] && byte 4 == 1 && decide (1 ≤ byte 5 ∧ byte 5 ≤ 64)
    && l.length == 64 + 32 * byte 5 && decide (byte 9 ≤ 1) && imageZeros l (byte 5) && opFormats p.op p.ifmt p.ofmt
    && (p.steps.zipIdx.all (fun e => stepFlagsOk p.op e.2 e.1 && stepPlacesOk b e.1))
  let full := decide (256 ≤ b.red.plans.length)
    || (p.steps.map (·.exec)).any (fun n => decide (1024 < laneSteps b n + (p.steps.filter (fun s => s.exec == n)).length))
  (if ok then [] else [Status.badConfig]) ++ (if b.red.plans.any (fun q => q.id == p.id) then [Status.badConfig] else [])
    ++ (if full then [Status.quota] else [])

/-! Invocations. -/

def getInv (b : Block) (k : Nat) : Option Inv := b.red.invs.find? (fun v => v.id == k)
def updInv (k : Nat) (f : Inv → Inv) (b : Block) : Block :=
  { b with red := { b.red with invs := updateWhere (fun v => v.id == k) f b.red.invs } }
def updRun (k s : Nat) (f : StepRun → StepRun) (b : Block) : Block := updInv k (fun v => { v with steps := listMod v.steps s f }) b
def planById (b : Block) (id : Nat) : Option Plan := b.red.plans.find? (fun p => p.id == id)

/-- COLL[15:0] of an invocation. -/
def coll16 (v : Inv) : Nat := fieldNat v.coll 15 0

/-- Address of line `k` of a step's chunk in a buffer (R218), as a line address. -/
def bufLine (p : Plan) (v : Inv) (s : Step) (f : Form) (write : Bool) (k : Nat) : Nat :=
  let base := match f with
    | .xp => v.scrB
    | _ => if write then v.outB else v.inB
  base / 128 + s.chunk * v.ce / formEpl p f + k

/-- A delivery of a lane (R218, R386). -/
def laneInb (v : Inv) (use : InbUse) (rd : Bool) (addr : Nat) (data : Line) : Inb :=
  { id := 0, use := use, rd := rd, addr := BitVec.ofNat 45 addr, tag := v.tag, ctx := v.ctx, layer := 0xFFFE,
    opid := BitVec.ofNat 16 v.plan, data := data, svalid := !rd, sorrel := sorrelOf data, poison := false, order := 0, flits := 0, vc := 0,
    sent := false }

/-- First line of a form that element `e` on needs. -/
def lineFor (p : Plan) (f : Form) (e : Nat) : Nat := e / formEpl p f

/-- The element a step's next output line starts at: the lower of its two streams. -/
def stepPos (p : Plan) (ce : Nat) (s : Step) (r : StepRun) : Nat :=
  let o := if stOut s then r.outLine * formEpl p (formOut s) else ce
  let w := if stWr s then r.wrLine * formEpl p (formWr s) else ce
  min o w

/-- A step of an invocation as it runs: plan, invocation, step, progress. -/
def runOf (b : Block) (k sidx : Nat) : Option (Plan × Inv × Step × StepRun) :=
  match getInv b k with
  | none => none
  | some v =>
    match planById b v.plan, v.steps[sidx]? with
    | some p, some r => (p.steps[sidx]?).map (fun s => (p, v, s, r))
    | _, _ => none

/-- The active steps of a lane, in order of invocation and index. -/
def laneRuns (b : Block) (n : Nat) : List (Nat × Nat) :=
  b.red.invs.flatMap (fun v => ((List.range v.steps.length).filter (fun j => (runOf b v.id j).any (fun x =>
    x.2.2.1.exec == n && x.2.2.2.active && !x.2.2.2.done))).map (fun j => (v.id, j)))

/-- Local lines of a step that are needed no more. -/
def locUsed (p : Plan) (v : Inv) (s : Step) (r : StepRun) : Nat := min r.locAsk (lineFor p (formLoc s) (stepPos p v.ce s r))

/-- Lines of the lane's operand buffer of 128 that are taken or asked for (R223). -/
def laneLines (b : Block) (n : Nat) : Nat :=
  ((laneRuns b n).map (fun e => match runOf b e.1 e.2 with
    | some (p, v, s, r) => if stLoc s then r.locAsk - locUsed p v s r else 0
    | none => 0)).foldl (· + ·) 0

/-- Local lines that the next output line of a step needs, counted from the first. -/
def locNeed (p : Plan) (v : Inv) (s : Step) (r : StepRun) : Nat :=
  let big := max (if stOut s then formEpl p (formOut s) else 1) (if stWr s then formEpl p (formWr s) else 1)
  lineFor p (formLoc s) (min v.ce (stepPos p v.ce s r + big) - 1) + 1

/-- R223: reads of local lines ahead of the step, a window never smaller than one output line needs, while the lane's operand buffer has
room. -/
def prefetch (k sidx : Nat) (b : Block) : Block :=
  match runOf b k sidx with
  | none => b
  | some (p, v, s, r) =>
    if !stLoc s || !r.active || r.done then b
    else
      let f := formLoc s
      let top := min (formLines p v.ce f) (max (locNeed p v s r) (lineFor p f (stepPos p v.ce s r) + (getLcs b s.exec).pfLines))
      let want := (List.range (min (top - r.locAsk) (128 - laneLines b s.exec))).map (fun j => r.locAsk + j)
      let b := updRun k sidx (fun r => { r with locAsk := r.locAsk + want.length }) b
      want.foldl (fun b j => deliver s.exec [laneInb v (.stepRead k sidx j) true (bufLine p v s f false j) 0] b) b

/-! Abort packets and the end (R225, R226, R398). -/

/-- An abort packet (R225, Table 7.7). -/
def abortPkt (b : Block) (n : Nat) (dst : Pkg) (dstLcs plan coll : Nat) (st : Status) : Pkt :=
  { vc := 0, ce := false, op := 0x1C, cls := clsCtl, dst := dst, dstLcs := dstLcs, src := b.trust.dom.pkg, srcLcs := n,
    origin := 0, poison := 0, lines := [],
    txn := BitVec.ofNat 96 (plan % 256 + 2 ^ 14 + ((coll % 65536) <<< 16) + (statusCode st <<< 64)) }

/-- The distinct IN and OUT peers of a plan: own LCS, package, LCS there. -/
def planPeers (p : Plan) : List (Nat × Pkg × Nat) :=
  (p.steps.flatMap (fun s =>
    (if stIn s then [(s.exec, s.inPkg, s.inLcs)] else []) ++ (if stOut s then [(s.outLcs, s.outPkg, s.outPeer)] else []))).eraseDups

/-- Discard the held plan packets of a collective on an LCS and return their flits. -/
def dropHeld (n plan coll : Nat) (b : Block) : Block :=
  let mine := fun (h : HeldPkt) => fieldNat h.pkt.txn 7 0 == plan && fieldNat h.pkt.txn 31 16 == coll
  let gone := (getLport b n).held.filter mine
  gone.foldl (fun b h => giveFlits n h.pkt.vc (pktFlits h.pkt.lines.length) b)
    (updLport n (fun p => { p with held := p.held.filter (fun h => !mine h) }) b)

/-- A plan that waits for its last invocation goes (Table 11.2). -/
def reapPlan (id : Nat) (b : Block) : Block :=
  match planById b id with
  | some p =>
    if p.dying && !b.red.invs.any (fun v => v.plan == id) then
      freeRef tyPlan id { b with red := { b.red with plans := b.red.plans.filter (fun q => q.id != id) } }
    else b
  | none => b

/-- An invocation closes: its lanes show the status, its command goes on to its signal (R321), a dying plan goes. -/
def closeInv (v : Inv) (st : Status) (b : Block) : Block :=
  let p := planById b v.plan
  let lanes : List Nat := match p with
    | some p => (p.steps.map (·.exec)).eraseDups
    | none => []
  let b := { b with red := { b.red with invs := b.red.invs.filter (fun x => x.id != v.id) } }
  let b := lanes.foldl (fun b n => updLcs n (fun l => { l with rlSts := (l.rlSts.1, l.rlSts.2.1, st, l.rlSts.2.2.2) }) b) b
  let i := (getLcs b (lanes.headD 0)).inst
  let b := count { inst := i, tag := some v.tag, layer := 0xFFFE, opid := BitVec.ofNat 16 v.plan } (evRed (8 + statusCode st)) b
  reapPlan v.plan (cmdDone .none v.src st 0 0 b)

/-- End an invocation with a failing status (R225): its steps stop, one abort packet to every peer, its lines go. -/
def endInv (k : Nat) (st : Status) (b : Block) : Block :=
  match getInv b k with
  | none => b
  | some v =>
    let coll := coll16 v
    let b : Block := match planById b v.plan with
      | none => b
      | some p =>
        let b := (p.steps.zip v.steps).foldl (fun b e =>
          e.2.remote.foldl (fun b l => if l.flits = 0 then b else giveFlits e.1.exec l.vc l.flits b) b) b
        let b := ((p.steps.map (·.exec)).eraseDups).foldl (fun b n => dropHeld n v.plan coll b) b
        (planPeers p).foldl (fun b t =>
          if lcsIn b t.1 && pairUp b t.1 t.2.1 t.2.2 && !(getLcs b t.1).z2 then
            stageOrWait (getLcs b t.1).inst { lcs := t.1, pkt := abortPkt b t.1 t.2.1 t.2.2 v.plan coll st, shared := false,
                                              entry := none, tag := v.tag, held := false } b
          else b) b
    let b := { b with red := { b.red with ended := (v.plan, coll) :: b.red.ended.filter (fun e => e != (v.plan, coll)) } }
    let b := { b with lport := Sparse.mapAll {} b.lport (fun _ x => { x with inb := x.inb.filter (fun y => y.sent || (match y.use with
        | .stepWrite j _ _ _ => j != k
        | .stepRead j _ _ => j != k
        | _ => true)) }) }
    closeInv v st b

/-- A residue, rounder, comparator or Dual mismatch of a lane (R211, R212, R238, R348). -/
def residueFail (n k : Nat) (b : Block) : Block :=
  match getInv b k with
  | none => b
  | some v => endInv k .residueFail (integrity (getLcs b n).inst v.tag .residue b)

/-! Production of lines (R216, R219). -/

/-- Partials of element `e` of a step's remote or local stream, with their marks. -/
def streamXp (p : Plan) (f : Form) (line : Nat → Option StepLine) (e : Nat) : Option (Xp × Bool) :=
  (line (e / formEpl p f)).map (fun l =>
    match f with
    | .xp => (xpAt l.data (e % 6), l.data.getLsbD (992 + e % 6))
    | f => (elemXp (formFmt p f) l.data (e % formEpl p f), false))

/-- Remote line `j` of a step, while it is held. -/
def remoteLine (r : StepRun) (j : Nat) : Option StepLine :=
  let base := r.inLine - r.remote.length
  if j < base then none else r.remote[j - base]?

/-- Local line `j` of a step, once it has arrived. -/
def localLine (r : StepRun) (j : Nat) : Option StepLine := (r.loc.find? (fun e => e.1 == j)).map (·.2)

/-- What one output line is made of: nothing yet, a residue failure, or the line and whether a marked value was
rounded into it. -/
inductive Made where
  | wait
  | bad
  | line (l : StepLine) (saw : Bool)
  deriving DecidableEq, Repr

/-- Line `j` of an output form of a step (R204 to R209, R216). A value taken unchanged from a native input keeps its form: forwarded as a
contribution, or written where IFMT is OFMT, the format of the output buffer (log 44). -/
def makeLine (p : Plan) (v : Inv) (s : Step) (r : StepRun) (f : Form) (j : Nat) : Made :=
  let n := formEpl p f
  let rem := remoteLine r
  let loc := localLine r
  if p.op ≠ 0 then
    match (if stLoc s then loc j else none), (if stIn s then rem j else none) with
    | some a, some c => .line { data := nativeOp p.op p.ifmt a.data c.data, inex := false } false
    | some a, none => if stIn s then .wait else .line { data := a.data, inex := false } false
    | none, some c => if stLoc s then .wait else .line { data := c.data, inex := c.inex } false
    | none, none => .wait
  else if stIn s && !stLoc s && formIn s != .xp && (formIn s == f || (f == .res && p.ifmt == p.ofmt)) then
    match rem j with
    | some l => .line { data := l.data, inex := l.inex } false
    | none => .wait
  else if stLoc s && !stIn s && formLoc s == .inp && (f == .inp || (f == .res && p.ifmt == p.ofmt)) then
    match loc j with
    | some l => .line { data := l.data, inex := false } false
    | none => .wait
  else
    let at' := fun (e : Nat) =>
      let a := if stLoc s then streamXp p (formLoc s) loc e else none
      let c := if stIn s then streamXp p (formIn s) rem e else none
      match a, c with
      | some x, some y =>
        let (z, d) := xpAdd x.1 y.1
        if xpSpecial z then some (z, false, xpSpecial x.1 || xpSpecial y.1) else some (z, d || x.2 || y.2, false)
      | some x, none => if stIn s then none else some (x.1, x.2, xpSpecial x.1)
      | none, some y => if stLoc s then none else some (y.1, y.2, xpSpecial y.1)
      | none, none => none
    let es := (List.range n).map (fun q => at' (j * n + q))
    if es.any (·.isNone) then .wait
    else
      let vs := es.filterMap id
      if fmtInt p.ifmt && vs.any (fun x => x.2.2) then .bad
      else
        match f with
        | .xp =>
          let norm := fun (x : Xp) => match x with
            | .fin m e => (xpNorm m e).1
            | y => y
          .line { data := xpLineWrite (vs.map (fun x => (norm x.1, x.2.1))), inex := false } false
        | f =>
          let by' := fun (q : Nat) => if p.stoch then RoundBy.stoch (stochR v.coll.toNat (s.chunk * v.ce + j * n + q)) else .rne
          let inex := vs.any (fun x => x.2.1)
          .line { data := roundLine (formFmt p f) (vs.zipIdx.map (fun e => (e.1.1, e.1.2.1, by' e.2))), inex := inex } inex

/-- Return the flits of remote lines that no output needs any more, and drop them with the local ones (R223). -/
def dropUsed (k sidx : Nat) (p : Plan) (s : Step) (b : Block) : Block :=
  match getInv b k with
  | none => b
  | some v =>
    match v.steps[sidx]? with
    | none => b
    | some r =>
      let pos := stepPos p v.ce s r
      let base := r.inLine - r.remote.length
      let gone := min r.remote.length (lineFor p (formIn s) pos - base)
      let b := (r.remote.take gone).foldl (fun b l => if l.flits = 0 then b else giveFlits s.exec l.vc l.flits b) b
      updRun k sidx (fun r => { r with remote := r.remote.drop gone, loc := r.loc.filter (fun e => decide (lineFor p (formLoc s) pos ≤ e.1)) }) b

/-- A plan packet of gathered lines (R214, Table 7.7). -/
def planPkt (b : Block) (p : Plan) (v : Inv) (s : Step) (r : StepRun) : Pkt :=
  let inex := (r.packet.zipIdx.map (fun e => if e.1.inex then 2 ^ e.2 else 0)).foldl (· + ·) 0
  { vc := 0, ce := false, op := 0x1C, cls := clsRdx, dst := s.outPkg, dstLcs := s.outPeer, src := b.trust.dom.pkg,
    srcLcs := s.outLcs, origin := 0, poison := 0, lines := r.packet.map (fun l => (l.data, sorrelOf l.data)),
    txn := BitVec.ofNat 96 (p.id % 256 + ((s.outStep % 64) <<< 8) + ((if stOutXp s then 1 else 0) <<< 15) + (coll16 v <<< 16)
      + (((r.outLine - r.packet.length) % 2 ^ 32) <<< 32) + (inex <<< 72)
      + ((if !stOutXp s && stOutRes s then 1 else 0) <<< 76)) }

/-- Whether a step's gathered lines form a packet: four, or the remainder (R214). -/
def packetDue (p : Plan) (v : Inv) (s : Step) (r : StepRun) : Bool :=
  r.packet.length == 4 || (!r.packet.isEmpty && r.outLine == formLines p v.ce (formOut s))

/-- A step that has forwarded and written everything is done; steps that depend on it become active (R219). -/
def checkStep (k sidx : Nat) (b : Block) : Block :=
  match getInv b k with
  | none => b
  | some v =>
    match planById b v.plan, v.steps[sidx]? with
    | some p, some r =>
      match p.steps[sidx]? with
      | none => b
      | some s =>
        let out := !stOut s || (r.outLine == formLines p v.ce (formOut s) && r.packet.isEmpty)
        let wr := !stWr s || (r.wrLine == formLines p v.ce (formWr s) && r.writes == 0)
        if !r.active || r.done || !out || !wr then b
        else
          let b := updRun k sidx (fun r => { r with done := true }) b
          let arg := v.plan + (sidx <<< 8) + ((v.coll.toNat % 2 ^ 40) <<< 24)
          let rec' : TraceRec := { kind := 5, tag := v.tag, layer := 0xFFFE, opid := BitVec.ofNat 16 v.plan, ctx := v.ctx,
                                   unit := s.exec, arg := arg }
          let b := trace (getLcs b s.exec).inst rec' b
          let deps := (p.steps.zipIdx.filter (fun e => e.1.dep == sidx + 1)).map (·.2)
          deps.foldl (fun b j => prefetch k j (updRun k j (fun r => { r with active := true }) b)) b
    | _, _ => b

/-- Stage the packet that a step has gathered, where it fits (R219, R220); a path that is gone ends the invocation, and so does an LCS
whose peer is a Zizor-2 part (R144). -/
def stagePacket (k sidx : Nat) (b : Block) : Block :=
  match getInv b k with
  | none => b
  | some v =>
    match planById b v.plan, v.steps[sidx]? with
    | some p, some r =>
      match p.steps[sidx]? with
      | none => b
      | some s =>
        if !packetDue p v s r then b
        else if !lcsIn b s.outLcs || !pairUp b s.outLcs s.outPkg s.outPeer then endInv k .outOfService b
        else if (getLcs b s.outLcs).z2 then endInv k .badConfig b
        else
          let st : Staged := { lcs := s.outLcs, pkt := planPkt b p v s r, shared := false, entry := none, tag := v.tag, held := false }
          match stageNow (getLcs b s.outLcs).inst st (!stIn s) b with
          | none => b
          | some b => checkStep k sidx (updRun k sidx (fun r => { r with packet := [] }) b)
    | _, _ => b

/-- The output line that a step makes next: whether it is forwarded, its form and number. The two streams go in element order; a
gathered packet that waits to be staged holds the forwarded one (R219). -/
def nextOut (p : Plan) (v : Inv) (s : Step) (r : StepRun) : Option (Bool × Form × Nat) :=
  let canOut := stOut s && decide (r.outLine < formLines p v.ce (formOut s))
  let canWr := stWr s && decide (r.wrLine < formLines p v.ce (formWr s))
  let fwd := canOut && (!canWr || decide (r.outLine * formEpl p (formOut s) ≤ r.wrLine * formEpl p (formWr s)))
  if !r.active || r.done || !(canOut || canWr) || (fwd && packetDue p v s r) then none
  else some (if fwd then (true, formOut s, r.outLine) else (false, formWr s, r.wrLine))

/-- A lane produces a step's next output line (R219). -/
def produceLine (k sidx : Nat) (dual : Bool) (b : Block) : Block :=
  match getInv b k with
  | none => b
  | some v =>
    match planById b v.plan, v.steps[sidx]? with
    | some p, some r =>
      match p.steps[sidx]? with
      | none => b
      | some s =>
        match nextOut p v s r with
        | none => b
        | some (fwd, form, line) =>
          let l := getLcs b s.exec
          if !lcsIn b s.exec || !l.rlEn then endInv k .outOfService b
          else
            match makeLine p v s r form line with
            | .wait => b
            | .bad => residueFail s.exec k b
            | .line x saw =>
              let (f, b) := forced true s.exec 3 b
              if f then residueFail s.exec k b
              else if l.dual && dual then residueFail s.exec k (covLcs s.exec 5 1 b)
              else
                let b := updLcs s.exec (fun l => { l with rlSts := (v.plan, sidx, l.rlSts.2.2.1, v.coll) }) b
                let b := count { inst := l.inst, tag := some v.tag, layer := 0xFFFE, opid := BitVec.ofNat 16 v.plan } (evRed 0) b
                let b := if x.inex then count { inst := l.inst, tag := some v.tag, layer := 0xFFFE, opid := BitVec.ofNat 16 v.plan } (evRed 1) b else b
                let b := updInv k (fun v => { v with inexact := v.inexact || saw }) b
                let b :=
                  if fwd then updRun k sidx (fun r => { r with outLine := r.outLine + 1, packet := r.packet ++ [x] }) b
                  else
                    deliver s.exec [laneInb v (.stepWrite k sidx r.wrLine x.inex) false (bufLine p v s (formWr s) true r.wrLine) x.data]
                      (updRun k sidx (fun r => { r with wrLine := r.wrLine + 1, writes := r.writes + 1 }) b)
                prefetch k sidx (stagePacket k sidx (dropUsed k sidx p s b))
    | _, _ => b

/-! The turn of a lane's steps (R219, R223). -/

/-- A step's next line can be made now. -/
def canMake (b : Block) (e : Nat × Nat) : Bool :=
  (runOf b e.1 e.2).any (fun (p, v, s, r) => match nextOut p v s r with
    | some (_, f, j) => makeLine p v s r f j != .wait
    | none => false)

/-- When the remote line came that a step's next output line needs last. -/
def remoteAt (b : Block) (e : Nat × Nat) : Option Nat :=
  (runOf b e.1 e.2).bind (fun (p, v, s, r) =>
    if stIn s then (nextOut p v s r).bind (fun o => (remoteLine r (lineFor p (formIn s) ((o.2.2 + 1) * formEpl p o.2.1 - 1))).map (·.at'))
    else none)

/-- The step whose remote lines came first: no later one is consumed before it. -/
def remoteHead (b : Block) (n : Nat) : Option (Nat × Nat) :=
  ((laneRuns b n).foldl (fun a e =>
    match a, remoteAt b e with
    | some (_, t), some u => if u < t then some (e, u) else a
    | none, some u => some (e, u)
    | _, none => a) (none : Option ((Nat × Nat) × Nat))).map (·.1)

/-- A step without a remote input. -/
def freeStep (b : Block) (e : Nat × Nat) : Bool := (runOf b e.1 e.2).any (fun x => !stIn x.2.2.1)

/-- The next in round robin of the steps without a remote input that can make a line. -/
def roundNext (b : Block) (n : Nat) : Option (Nat × Nat) :=
  let l := (laneRuns b n).filter (fun e => freeStep b e && canMake b e)
  let t := (getLport b n).laneTurn
  (l.find? (fun e => decide (t.1 < e.1 ∨ (t.1 = e.1 ∧ t.2 < e.2)))).or l.head?

/-- The step that a lane serves in a cycle (R219): remote lines in order of arrival; a free cycle goes round the others. -/
def laneNext (b : Block) (n : Nat) : Option (Nat × Nat) := ((remoteHead b n).filter (canMake b)).or (roundNext b n)

/-- A step that has not asked for all the local lines of its next output line. -/
def lacksLocal (b : Block) (e : Nat × Nat) : Bool :=
  (runOf b e.1 e.2).any (fun (p, v, s, r) => stLoc s && decide (r.locAsk < min (formLines p v.ce (formLoc s)) (locNeed p v s r)))

/-- The step whose turn it is never waits for room in the operand buffer (R223): others that cannot go on give their lines up, and ask
for them again (log 125). -/
def makeRoom (n : Nat) (b : Block) : Block :=
  match (((remoteHead b n).filter (lacksLocal b)).or ((laneRuns b n).find? (fun e => freeStep b e && lacksLocal b e))) with
  | none => b
  | some e =>
    let b := prefetch e.1 e.2 b
    if lacksLocal b e then
      let b := ((laneRuns b n).filter (fun x => x != e && !canMake b x)).foldl (fun b x => match runOf b x.1 x.2 with
        | some (p, v, s, r) => updRun x.1 x.2 (fun r' => { r' with loc := [], locAsk := locUsed p v s r }) b
        | none => b) b
      prefetch e.1 e.2 b
    else b

/-- Every active step of a lane asks for what its window allows. -/
def lanePrefetch (n : Nat) (b : Block) : Block := (laneRuns b n).foldl (fun b e => prefetch e.1 e.2 b) b

/-- Invalid specials among the first partials of an XP line are counted (R198). -/
def countOdd (who : Who) (m : Nat) (l : Line) (b : Block) : Block :=
  ((List.range m).filter (fun p => xpOdd (l.toNat / 2 ^ (160 * p) % 2 ^ 160))).foldl (fun b _ => count who (evRed 29) b) b

/-! Plan packets (R221). -/

/-- An abort record of a lane for a collective on a pair (R398). -/
def abortRec (b : Block) (n pair plan coll : Nat) : Option AbortRec :=
  (getLport b n).aborts.find? (fun a => a.pair == pair && a.plan == plan && a.coll == coll)

/-- What a plan packet meets (R221): it waits for its invocation (false), or is dealt with. -/
def planPacket (n pair : Nat) (q : Pkt) (b : Block) : Bool × Block :=
  let plan := fieldNat q.txn 7 0
  let sidx := fieldNat q.txn 13 8
  let coll := fieldNat q.txn 31 16
  let first := fieldNat q.txn 63 32
  let fl := pktFlits q.lines.length
  let gone := fun (b : Block) => (true, giveFlits n q.vc fl (count (whoLcs b n) (evLink 12) b))
  match b.red.invs.find? (fun v => v.plan == plan && coll16 v == coll) with
  | none =>
    if (abortRec b n pair plan coll).isSome || b.red.ended.contains (plan, coll) then gone b else (false, b)
  | some v =>
    let finish := fun (st : Status) => (true, giveFlits n q.vc fl (endInv v.id st b))
    match planById b plan, v.steps[sidx]? with
    | some p, some r =>
      match p.steps[sidx]? with
      | none => finish .badConfig
      | some s =>
        let total := formLines p v.ce (formIn s)
        if !stIn s || s.exec != n || s.inPkg != q.src || s.inLcs != q.srcLcs then finish .badConfig
        else if r.done then gone b
        else if fieldBit q.txn 15 != stInXp s || (!stInXp s && fieldBit q.txn 76 != stInRes s) then finish .badConfig
        else if r.inLine < first then finish .replay
        else if first < r.inLine ∨ total ≤ r.inLine then gone b
        else if q.bad ≠ 0 then finish .sorrelFail
        else if q.poison ≠ 0 then finish .poison
        else if stInXp s && q.lines.any (fun l => !xpLresOk l.1) then
          (true, giveFlits n q.vc fl (residueFail n v.id b))
        else
          let m := min q.lines.length (total - r.inLine)
          let mark := fun (j : Nat) => !stInXp s && stInRes s && fieldBit q.txn (72 + j)
          let mk := fun (e : (Line × BitVec 32) × Nat) =>
            ({ data := e.1.1, inex := mark e.2, flits := if e.2 + 1 = m then fl else 0, vc := q.vc, at' := (getLport b n).laneSeq + e.2 } : StepLine)
          let ls := (q.lines.take m).zipIdx.map mk
          let b := updLport n (fun x => { x with laneSeq := x.laneSeq + m }) b
          let b := if stInXp s then ls.foldl (fun b l => countOdd (whoLcs b n) 6 l.data b) b else b
          let b := updRun v.id sidx (fun r => { r with inLine := r.inLine + m, remote := r.remote ++ ls }) b
          (true, updInv v.id (fun v => { v with inexact := v.inexact || ls.any (·.inex) }) b)
    | _, _ => finish .badConfig

/-- The held plan packets of an LCS, from the head of the VC, as far as they go (R221). -/
def drainHeld (n : Nat) : Nat → Block → Block
  | 0, b => b
  | f + 1, b =>
    match (getLport b n).held with
    | [] => b
    | h :: t =>
      match planPacket n h.pair h.pkt (updLport n (fun p => { p with held := t }) b) with
      | (true, b) => drainHeld n f b
      | (false, _) => b

/-- A plan packet arrives: behind a held one it waits with the VC (R221). -/
def takePlanPacket (n pair : Nat) (q : Pkt) (b : Block) : Block :=
  let b := updLport n (fun p => { p with held := p.held ++ [{ pair := pair, pkt := q }] }) b
  drainHeld n (getLport b n).held.length b

/-- An abort packet arrives (R225, R398). -/
def takeAbort (n pair : Nat) (q : Pkt) (b : Block) : Block :=
  let plan := fieldNat q.txn 7 0
  let coll := fieldNat q.txn 31 16
  let st := statusOf (fieldNat q.txn 71 64)
  match b.red.invs.find? (fun v => v.plan == plan && coll16 v == coll) with
  | some v => endInv v.id st b
  | none =>
    if b.red.ended.contains (plan, coll) then b
    else
      let old := (getLport b n).aborts.filter (fun a => !(a.pair == pair && a.plan == plan && a.coll == coll))
      let b := if 16 ≤ old.length then count (whoLcs b n) (evRed 28) b else b
      let keep := if 16 ≤ old.length then old.drop 1 else old
      let b := updLport n (fun p => { p with aborts := keep ++ [{ pair := pair, plan := plan, coll := coll, status := st }] }) b
      let b := dropHeld n plan coll b
      drainHeld n (getLport b n).held.length b

end Sys2Proof.Machine
end

