-- ==== Sys2Proof/Machine/Reduce.lean ====
section
/-! DEFINITION. Commands of In-Fabric Reduction (07) and of the silent-error counts (R235): installing, removing and
invoking plans, steps, ends, lane registers. -/

namespace Sys2Proof.Machine

/-- Operand bytes at the address in a command's word (R320): the read is made with the rights of its context. -/
def readAt (src : Src) (len : Nat) (rd : Status) (b : Block) : Status × Block := srcAccess src false (srcOp b src 40).toNat len rd b

/-- PLAN_INSTALL (R217): the image as it is read, and the status of that read. -/
def bodyPlanInstall (src : Src) (image : Bytes) (rd : Status) (b : Block) : Block :=
  let (rd, b) := readAt src image.length rd b
  let l := image.take (64 + 32 * ((image[5]?).getD 0).toNat)
  let p := planOf (reqOf b src).ctx l
  let bad := if statusFailing rd then [rd] else planChecks b l p
  let b := if statusFailing rd then b
    else p.steps.foldl (fun b s => (if stOut s then askBind s.outPkg else id) ((if stIn s then askBind s.inPkg else id) b)) b
  if bad.isEmpty then
    let b := newRef tyPlan p.id { b with red := { b.red with plans := b.red.plans ++ [p] } }
    cmdDone .none src .ok (handleOf b tyPlan p.id) 0 (connectPlan p b)
  else cmdDone .none src (statusWorst bad) 0 0 b

/-- PLAN_INSTALL (R217). -/
def effPlanInstall (src : Src) (image : Bytes) (rd : Status) (b : Block) : Block :=
  startLocal src 0x60 (bodyPlanInstall src image rd) b

/-- PLAN_REMOVE (R217). -/
def bodyPlanRemove (src : Src) (b : Block) : Block :=
  let id := fieldNat (srcWord b src) 7 0
  match planById b id with
  | none => cmdDone .none src .badConfig 0 0 b
  | some p =>
    let bad := (if p.dying || b.red.invs.any (fun v => v.plan == id) then [Status.badConfig] else [])
      ++ (if !(reqOf b src).kernel && p.ctx != (reqOf b src).ctx then [Status.notOwner] else [])
    if bad.isEmpty then
      cmdDone .none src .ok 0 0 (freeRef tyPlan id { b with red := { b.red with plans := b.red.plans.filter (fun q => q.id != id) } })
    else cmdDone .none src (statusWorst bad) 0 0 b

/-- PLAN_REMOVE (R217). -/
def effPlanRemove (src : Src) (b : Block) : Block := startLocal src 0x61 (bodyPlanRemove src) b

/-- R218: the checks of an invocation. -/
def invokeChecks (b : Block) (r : Req) (blk : BitVec 512) : List Status :=
  let ce := fieldNat blk 63 32
  let coll := fieldNat blk 79 64
  let bases := [fieldNat blk 191 128, fieldNat blk 255 192, fieldNat blk 319 256]
  (if bases.all (fun x => x % 128 == 0) && fieldNat blk 31 8 == 0 && fieldNat blk 511 320 == 0 then [] else [Status.badConfig])
  ++ (if 16 ≤ b.red.invs.length then [Status.quota] else [])
  ++ (match planById b (fieldNat blk 7 0) with
      | none => [Status.badConfig]
      | some p =>
        (if p.dying || ce == 0 || ce % 6 != 0 || ce % epl p.ifmt != 0 || ce % epl p.ofmt != 0 then [Status.badConfig] else [])
        ++ (if !r.kernel && p.ctx != r.ctx then [Status.notOwner] else [])
        ++ (if b.red.invs.any (fun v => v.plan == p.id && coll16 v == coll) then [Status.badConfig] else [])
        ++ (if p.steps.any (fun s => (getLcs b s.exec).z2 || (stOut s && (getLcs b s.outLcs).z2)) then [Status.badConfig] else [])
        ++ (if p.steps.any (fun s => !(getLcs b s.exec).rlEn || !lcsIn b s.exec || (stIn s && !pairUp b s.exec s.inPkg s.inLcs)
              || (stOut s && !pairUp b s.outLcs s.outPkg s.outPeer)) then [Status.outOfService] else []))

/-- A new invocation of a plan, from its block (R218): the steps without DEP are active. -/
def newInv (b : Block) (src : Src) (blk : BitVec 512) (p : Plan) : Inv :=
  { id := b.red.next, plan := p.id, ce := fieldNat blk 63 32, coll := BitVec.ofNat 64 (fieldNat blk 127 64),
    inB := fieldNat blk 191 128, outB := fieldNat blk 255 192, scrB := fieldNat blk 319 256, ctx := (reqOf b src).ctx,
    tag := (reqOf b src).tag, src := src, inexact := false, steps := p.steps.map (fun s => { active := s.dep == 0 }) }

/-- The invocation is open; an ended one of its collective is forgotten. -/
def openInv (v : Inv) (b : Block) : Block :=
  { b with red := { b.red with invs := b.red.invs ++ [v], next := b.red.next + 1,
                               ended := b.red.ended.filter (fun e => e != (v.plan, coll16 v)) } }

/-- Its steps' lines are asked for, and packets that waited for it are taken (R219, R221). -/
def feedInv (v : Inv) (b : Block) : Block :=
  let b := (List.range v.steps.length).foldl (fun b s => prefetch v.id s b) b
  b.lport.foldl (fun b e => drainHeld e.1 e.2.held.length b) b

/-- The abort records of its collective (R398). -/
def abortsOf (b : Block) (v : Inv) : List AbortRec :=
  b.lport.flatMap (fun e => e.2.aborts.filter (fun a => a.plan == v.plan && a.coll == coll16 v))

/-- PLAN_INVOKE (R218, R219, R398): steps without DEP start, held packets are taken, an abort record ends it at once. -/
def bodyPlanInvoke (src : Src) (blk : BitVec 512) (rd : Status) (b : Block) : Block :=
  let (rd, b) := readAt src 64 rd b
  let bad := if statusFailing rd then [rd] else invokeChecks b (reqOf b src) blk
  match bad, planById b (fieldNat blk 7 0) with
  | [], some p =>
    let v := newInv b src blk p
    match abortsOf b v with
    | a :: _ => endInv v.id a.status (openInv v b)
    | [] => feedInv v (openInv v b)
  | l, _ => cmdDone .none src (statusWorst l) 0 0 b

/-- PLAN_INVOKE (R218). -/
def effPlanInvoke (src : Src) (blk : BitVec 512) (rd : Status) (b : Block) : Block :=
  startLocal src 0x62 (bodyPlanInvoke src blk rd) b

/-- HELD_PACKET_EXPIRY (R221): the packet at the head of the VC is discarded and counted; the VC moves on. -/
def effHeldPacketExpiry (n : Nat) (b : Block) : Block :=
  match (getLport b n).held with
  | [] => b
  | h :: t =>
    let b := giveFlits n h.pkt.vc (pktFlits h.pkt.lines.length) (count (whoLcs b n) (evLink 12) b)
    let b := updLport n (fun p => { p with held := t }) b
    drainHeld n t.length b

/-- STEP_LINE_PRODUCE (R219, R223): a cycle of a lane. Gathered packets that wait for room are staged, local operands are asked for, and
the step whose turn it is makes its next line. -/
def effStepLineProduce (n : Nat) (hw : HwFault) (b : Block) : Block :=
  let b := (laneRuns b n).foldl (fun b e => stagePacket e.1 e.2 b) b
  let b := lanePrefetch n (makeRoom n b)
  match laneNext b n with
  | none => b
  | some e =>
    let b := if freeStep b e then updLport n (fun x => { x with laneTurn := e }) b else b
    produceLine e.1 e.2 (hw == .dualData || hw == .dualMac) b

/-- STEP_INPUT_TIMEOUT (Table 7.12): an active step's next remote line has not come in time. -/
def effStepInputTimeout (k sidx : Nat) (b : Block) : Block :=
  match getInv b k with
  | none => b
  | some v =>
    match planById b v.plan, v.steps[sidx]? with
    | some p, some r =>
      match p.steps[sidx]? with
      | some s => if stIn s && r.active && !r.done && decide (r.inLine < formLines p v.ce (formIn s)) then endInv k .timeout b else b
      | none => b
    | _, _ => b

/-- Whether a lane of a plan is out, or a pair of it is not UP. -/
def planOut (b : Block) (p : Plan) : Bool :=
  p.steps.any (fun s => !lcsIn b s.exec || !(getLcs b s.exec).rlEn || (stOut s && !lcsIn b s.outLcs))

def planDown (b : Block) (p : Plan) : Bool :=
  p.steps.any (fun s => (stIn s && !pairUp b s.exec s.inPkg s.inLcs) || (stOut s && !pairUp b s.outLcs s.outPkg s.outPeer))

/-- INVOCATION_END (R225, Table 7.12). -/
def effInvocationEnd (k : Nat) (cause : InvCause) (b : Block) : Block :=
  match getInv b k with
  | none => b
  | some v =>
    match planById b v.plan with
    | none => b
    | some p =>
      let n := (p.steps.map (fun s => s.exec)).headD 0
      match cause with
      | .laneOut => if planOut b p then endInv k .outOfService b else b
      | .pairDown => if planDown b p then endInv k .outOfService b else b
      | .rowResidue => residueFail n k b
      | .sorrel => endInv k .sorrelFail (integrity (getLcs b n).inst v.tag .sorrel b)
      | .poison => endInv k .poison b
      | .peer st => if statusFailing st then endInv k st b else b

/-- INVOCATION_COMPLETE (R219, R226). -/
def effInvocationComplete (k : Nat) (b : Block) : Block :=
  match getInv b k with
  | none => b
  | some v =>
    if v.steps.all (fun r => r.done) then
      closeInv v (statusWorst ((if v.inexact then [Status.inexact] else []) ++ (if b.boot.debug then [Status.debugSubst] else []))) b
    else b

/-- ABORT_RECORD_EXPIRY (R398). -/
def effAbortRecordExpiry (n k : Nat) (b : Block) : Block :=
  updLport n (fun p => { p with aborts := p.aborts.eraseIdx k }) b

/-- RL_CTRL_WRITE (R227): an invocation that names a lane cleared to 0 ends. -/
def effRlCtrlWrite (z : ZReq) (n : Nat) (w : Word) (b : Block) : Block :=
  zcpDo z true (.lcs n) (fun b =>
    if z.attr = .k then
      let pf := max 1 (min 128 (fieldNat w 15 8))
      let b := updLcs n (fun l => { l with rlEn := fieldBit w 0, pfLines := pf, holdUs := max 1 (fieldNat w 31 16) }) b
      if fieldBit w 0 then b
      else
        let mine := b.red.invs.filter (fun v => match planById b v.plan with
          | some p => p.steps.any (fun s => s.exec == n)
          | none => false)
        mine.foldl (fun b v => endInv v.id .outOfService b) b
    else zcpRefuse z .notOwner b) b

/-- A silent-error report (R235). -/
def isReport : RingMsg → Bool
  | .silentError _ _ => true
  | _ => false

/-- SILENT_ERROR_REPORT (R235): the oldest report on the ring reaches the primary's instance. -/
def effSilentErrorReport (r : RingIn) (b : Block) : Block :=
  ringArrive r isReport (fun m b =>
    match m with
    | .silentError tag st => addSerr tag st b
    | _ => b) b

end Sys2Proof.Machine
end

