-- ==== Sys2Proof/Machine/Fences.lean ====
section
/-! DEFINITION. Command queues and fences (R318 to R322, R326 to R331): doorbells, starting a command, waits and
signals, fence lines to and from other packages, completion records. -/

namespace Sys2Proof.Machine

/-! Fence handles. -/

def waitHandle (c : Cmd) : Word := opWord c 8
def waitValue (c : Cmd) : Word := opWord c 16
def sigHandle (c : Cmd) : Word := opWord c 24
def sigValue (c : Cmd) : Word := opWord c 32

/-- Home package and index that a handle names (R314). -/
def handlePkg (h : Word) : Pkg := BitVec.ofNat 14 (fieldNat h 53 40)
def handleIdx (h : Word) : Nat := fieldNat h 23 4

/-- A fence of another package. -/
def handleRemote (b : Block) (h : Word) : Bool := handlePkg h != b.trust.dom.pkg

/-- A handle in a WAIT or SIG field is stale (R314, R322); a remote one is judged by its form. -/
def handleStale (b : Block) (h : Word) : Bool :=
  if handleRemote b h then fieldNat h 3 0 != tyFence || fieldNat h 63 54 != 0 else (liveIndex b tyFence h).isNone

/-- Rights on a local fence (R323, R326): its owner's, kernel rights, or a sharer entry of this package. -/
def fenceRight (b : Block) (r : Req) (f : Fence) (signal : Bool) : Bool :=
  mayAct b r f.ctx f.tag
    || (r.named && f.sharers.any (fun s => s.pkg == b.trust.dom.pkg && s.tag == r.tag && (if signal then s.signal else s.wait)))

/-! Fence lines (R330, Table 11.5). -/

/-- A fence line: VALUE, handle, KIND, STATUS, tag, FAILS. -/
def fenceMsg (kind : Nat) (value handle : Word) (st : Status) (tag : Tag) (fails : Nat) : Line :=
  BitVec.ofNat 1024 (value.toNat + (handle.toNat <<< 64) + (kind <<< 128) + (statusCode st <<< 136) + (tag.toNat <<< 144)
    + ((fails % 2 ^ 24) <<< 160))

/-- Send a fence line over an UP pair, chosen by R173 with export 0 and g the fence index. -/
def ctlSend (dst : Pkg) (g : Nat) (line : Line) (tag : Tag) (b : Block) : Block :=
  match (b.inst.map (·.1)).filterMap (fun i => (choosePath b i dst 0 g).map (fun p => (i, p))) with
  | (i, (n, home)) :: _ =>
    stageOrWait i
      { lcs := n, shared := false, entry := none, tag := tag, held := false,
        pkt := { vc := 0, ce := false, op := 0x1D, cls := clsCtl, dst := dst, dstLcs := home, src := b.trust.dom.pkg, srcLcs := n,
                 origin := 0, poison := 0, txn := 0, lines := [(line, sorrelOf line)] } } b
  | [] => b

/-! Waits (R328, R331). -/

/-- A queue's command waits on a handle in a slot. -/
def waitsOn (h : Word) (tag : Option Tag) (q : Queue) : Bool :=
  match q.cmd with
  | some c => c.phase == .wait && waitHandle c == h && (match tag with | some t => q.tag == t | none => true)
  | none => false

/-- Fence slots in use. -/
def slotsUsed (b : Block) : Nat :=
  b.cm.mirrors.length + (b.cm.fences.filter (fun f => f.2.live && (!f.2.subs.isEmpty || b.cm.queues.any (fun q => waitsOn (handleOf b tyFence f.1) none q.2)))).length

def findMirror (b : Block) (h : Word) (tag : Tag) : Option Mirror := b.cm.mirrors.find? (fun m => m.handle == h && m.tag == tag)

/-- VALUE and STATUS of a fence as this package knows them. -/
def fenceKnown (b : Block) (h : Word) (tag : Tag) : Option (Word × Status) :=
  if handleRemote b h then
    match findMirror b h tag with
    | some m => if m.heard then some (m.value, m.status) else none
    | none => none
  else some ((getFence b (handleIdx h)).value, (getFence b (handleIdx h)).status)

/-- A tensor dump on a fence holds a wait above its VALUE (R392). -/
def dumpHolds (b : Block) (h v : Word) : Bool :=
  b.cm.dumps.any (fun d => (d.2.state == 1 || d.2.state == 2) && d.2.hold && d.2.fence == h && decide (d.2.value.toNat < v.toNat))

/-- A mirror has a waiter: a queue's command, or a dump that is armed on it. -/
def mirrorWanted (b : Block) (m : Mirror) : Bool :=
  b.cm.queues.any (fun q => waitsOn m.handle (some m.tag) q.2)
    || b.cm.dumps.any (fun d => (d.2.state == 1 || d.2.state == 2) && d.2.fence == m.handle && d.2.tag == m.tag)

/-- A mirror is made and SUBSCRIBE is sent to its home (R329). -/
def subscribeTo (h : Word) (tag : Tag) (b : Block) : Block :=
  let m : Mirror := { handle := h, tag := tag, value := 0, status := .ok, fails := 0, heard := false }
  ctlSend (handlePkg h) (handleIdx h) (fenceMsg 3 0 h .ok tag 0) tag { b with cm := { b.cm with mirrors := b.cm.mirrors ++ [m] } }

/-! Operands (R399, Table 11.8). -/

/-- Operands reach slot 1. -/
def opLong (op : Nat) : Bool := [0x04, 0x10, 0x20, 0x40, 0x50, 0x51].contains op

/-- Operations of Table 11.3. -/
def opKnown (op : Nat) : Bool :=
  [0x00, 0x01, 0x02, 0x03, 0x04, 0x10, 0x11, 0x12, 0x20, 0x30, 0x31, 0x40, 0x50, 0x51, 0x60, 0x61, 0x62].contains op

/-- Bits above the width of a field are zero. -/
def opWidths (c : Cmd) : Bool :=
  let fits := fun (off w : Nat) => decide ((opWord c off).toNat < 2 ^ w)
  match c.op with
  | 0x01 => fits 40 6
  | 0x03 => fits 40 6
  | 0x04 => fits 48 6
  | 0x10 => fits 48 2 && fits 56 5
  | 0x20 => fits 48 1 && (List.range 4).all (fun k => decide (leNat ((c.bytes.drop (56 + 4 * k)).take 4) < 2 ^ 22))
  | 0x61 => fits 40 8
  | _ => true

/-- The OP of an engine's command word has no effect: the command only waits and signals. -/
def opIdle (c : Cmd) : Bool :=
  let k := fieldNat (opWord c 40) 3 0
  match c.op with
  | 0x40 => k == 0 || decide (6 < k)
  | 0x50 => k % 8 == 0 || k % 8 == 7
  | 0x51 => k % 4 == 0 || k % 4 == 3
  | _ => false

/-! A command's life (R321). -/

/-- Take the journal entry of a command, before it runs or ends unrun (R360). -/
def journalCmd (src : Src) (b : Block) : Block :=
  match srcCmd b src with
  | none => b
  | some c =>
    if c.jseq ≠ 0 then b
    else
      let r := reqOf b src
      let j := match src with
        | .queue q => jnlAccept 0 r.tag q c.op r.ctx c.token c.first.toNat b
        | _ => jnlAccept 1 0 0 c.op (if r.named then r.ctx else 0) c.token 0 b
      match j with
      | some (n, b) => updCmd src (fun c => { c with jseq := n }) b
      | none => raisePrimary 15 b

/-- A command ends without having run. -/
def endUnrun (src : Src) (st : Status) (b : Block) : Block := cmdEnd src st 0 (journalCmd src b)

/-- A command is ready to run: journalled, its own checks made (R320, R360, R399); a stalled journal holds it. -/
def makeReady (src : Src) (b : Block) : Block :=
  let b := journalCmd src b
  match srcCmd b src with
  | none => b
  | some c =>
    if c.jseq = 0 then b
    else
      let bad := (c.op != 0x00 && (!b.jnl.lock || !b.cm.storeLock)) || !opKnown c.op || (opLong c.op && !c.long) || !opWidths c
      if bad then cmdEnd src .badConfig 0 b
      else if opIdle c then cmdEnd src (substOk b .ok) 0 b
      else updCmd src (fun c => { c with phase := .ready }) b

/-- Take a fence slot for a wait, or hold the command at its head (R331); a remote wait subscribes (R329). -/
def takeSlot (q : Nat) (b : Block) : Block :=
  match (getQueue b q).cmd with
  | none => b
  | some c =>
    let h := waitHandle c
    let tag := (getQueue b q).tag
    let has := if handleRemote b h then (findMirror b h tag).isSome
      else !(getFence b (handleIdx h)).subs.isEmpty || b.cm.queues.any (fun x => waitsOn h none x.2)
    if has then updCmd (.queue q) (fun c => { c with phase := .wait }) b
    else if 4096 ≤ slotsUsed b then
      let b := if c.phase = .slot then b else raisePrimary 12 (count { inst := (primaryInst b).getD 0, tag := some tag } (evCtx 1) b)
      updCmd (.queue q) (fun c => { c with phase := .slot }) b
    else
      let b := updCmd (.queue q) (fun c => { c with phase := .wait }) b
      if handleRemote b h then subscribeTo h tag b else b

/-- A satisfied wait (R328): the command runs, or completes with the fence's failing status. -/
def waitOver (q : Nat) (st : Status) (b : Block) : Block :=
  match (getQueue b q).cmd with
  | none => b
  | some c => if statusFailing st && !cmdAny c then endUnrun (.queue q) st b else makeReady (.queue q) b

/-- A started command's wait (R328). -/
def beginWait (q : Nat) (b : Block) : Block :=
  match (getQueue b q).cmd with
  | none => b
  | some c =>
    let h := waitHandle c
    let r := reqOf b (.queue q)
    if !handleRemote b h && !fenceRight b r (getFence b (handleIdx h)) false then endUnrun (.queue q) .notOwner b
    else if b.fab.dead.contains (handlePkg h) then endUnrun (.queue q) .outOfService b
    else
      match fenceKnown b h r.tag with
      | some (v, st) => if decide ((waitValue c).toNat ≤ v.toNat) && !dumpHolds b h (waitValue c) then waitOver q st b else takeSlot q b
      | none => takeSlot q b

/-- The command that slots hold (Table 11.4). -/
def cmdOfSlots (bytes : Bytes) (first : BitVec 32) : Cmd :=
  let n := fun (lo k : Nat) => leNat ((bytes.drop lo).take k)
  { op := n 0 2, flags := BitVec.ofNat 8 (n 3 1), token := BitVec.ofNat 32 (n 4 4), bytes := bytes, long := n 2 1 == 2, first := first,
    phase := .record, status := .ok, result := 0, jseq := 0, sends := 0 }

/-- Header faults that stop a queue (R322). -/
def headerBad (b : Block) (c : Cmd) : Bool :=
  let len := leNat ((c.bytes.drop 2).take 1)
  !(len == 1 || len == 2) || decide (16 ≤ c.flags.toNat) || (cmdWait c && handleStale b (waitHandle c)) || (cmdSig c && handleStale b (sigHandle c))

/-- A context runs: resident, its slot neither sealing nor restoring (R335, R337). -/
def ctxRuns (b : Block) (c : Ctx) : Bool :=
  let x := getCtx b c.toNat
  x.state == .resident && (getSlot b x.slot).wr.isNone

/-- A queue stops: its command is final without a signal (R322). -/
def stopQueue (q : Nat) (c : Cmd) (st : Status) (b : Block) : Block :=
  let b := updQueue q (fun x => { x with state := if x.state = .dying then .dying else .stopped, head := x.head + 1, cmd := some { c with status := st } }) b
  toRecord (.queue q) (journalCmd (.queue q) b)

/-- A queue may start its next command. -/
def queueMayStart (b : Block) (q : Nat) : Bool :=
  let x := getQueue b q
  ((x.state == .open && ctxRuns b x.ctx) || (x.state == .dying && x.drain.isSome)) && x.cmd.isNone && x.tail != x.head
    && (primaryInst b).isSome

/-- The lines of a command's slots in its ring that TAIL covers. -/
def slotLines (x : Queue) (long : Bool) : List Nat :=
  let at' := fun (k : Nat) => (x.ring + 64 * (k % 2 ^ x.log2)) / 128
  (at' x.head.toNat :: (if long && decide (2 ≤ (x.tail - x.head).toNat) then [at' (x.head.toNat + 1)] else [])).eraseDups

/-- The start of a command: its slots have been read, as the queue's context (R318). -/
def bodyQueueStart (q : Nat) (slots : Line) (rd : Status) (b : Block) : Block :=
  let x := getQueue b q
  if !queueMayStart b q then b
  else
    let c := cmdOfSlots (lineBytes slots) x.head
    let (rd, b) := linesAccess (srcReq b (.queue q)) false (slotLines x c.long) rd b
    let b := updQueue q (fun x => { x with part := none }) b
    if statusFailing rd then stopQueue q { c with op := 0, flags := 0, token := 0, bytes := [] } rd b
    else if headerBad b c then stopQueue q c .badConfig b
    else if c.long && decide ((x.tail - x.head).toNat < 2) then updQueue q (fun x => { x with part := some c }) b
    else
      let r := reqOf b (.queue q)
      let signals := cmdSig c && (handleRemote b (sigHandle c) || fenceRight b r (getFence b (handleIdx (sigHandle c))) true)
      let c' := if cmdSig c && !signals then { c with flags := c.flags &&& ~~~ 2 } else c
      let b := updQueue q (fun x => { x with head := x.head + (if c.long then 2 else 1), cmd := some c' }) b
      match x.drain with
      | some st => endUnrun (.queue q) st b
      | none =>
        if (getTInst b r.tag.toNat).state = .frozen then endUnrun (.queue q) .outOfService b
        else if cmdSig c && !signals then endUnrun (.queue q) .notOwner b
        else if cmdWait c then beginWait q b
        else makeReady (.queue q) b

/-- QUEUE_COMMAND_START (R318, R319, R321, R322): the next covered command is read, verify-before-use; its slots and the
status of their read come with the event. -/
def effQueueCommandStart (q : Nat) (slots : Line) (rd : Status) (b : Block) : Block :=
  if queueMayStart b q then mutate (.qstart q slots rd) (bodyQueueStart q slots rd) b else b

/-- The wait of a queue's command is satisfied (R328) and no dump holds it (R392): the status its fence shows. -/
def waitMet (b : Block) (q : Nat) : Option Status :=
  match (getQueue b q).cmd with
  | none => none
  | some c =>
    if c.phase = .wait then
      match fenceKnown b (waitHandle c) (getQueue b q).tag with
      | some (v, st) => if decide ((waitValue c).toNat ≤ v.toNat) && !dumpHolds b (waitHandle c) (waitValue c) then some st else none
      | none => none
    else none

/-- The mutation of a satisfied wait. -/
def bodyFenceWait (q : Nat) (b : Block) : Block :=
  match waitMet b q with
  | some st => waitOver q st b
  | none => b

/-- FENCE_WAIT_SATISFIED (R328). -/
def effFenceWaitSatisfied (q : Nat) (b : Block) : Block :=
  if (waitMet b q).isSome then mutate (.qwait q) (bodyFenceWait q) b else b

/-- CTX_QTAIL_WRITE (R318, R323): written with K, or with T and the queue's tag. -/
def effCtxQtailWrite (z : ZReq) (q : Nat) (w : Word) (b : Block) : Block :=
  zcpDo z true .ctx (fun b =>
    let x := getQueue b q
    let t : BitVec 32 := BitVec.ofNat 32 (fieldNat w 31 0)
    if !(z.attr == .k || z.tag == x.tag) then zcpRefuse z .notOwner b
    else if x.state = .free ∨ x.state = .dying then b
    else if 2 ^ x.log2 < (t - x.head).toNat ∨ (t - x.head).toNat < (x.tail - x.head).toNat then zcpRefuse z .badConfig b
    else mutate (.qtail q t) (updQueue q (fun x => { x with tail := t })) b) b

/-- The mutation of a completion record: the record, then CDONE; a failing write stops the queue. -/
def bodyCompletionRecord (q : Nat) (wr : Status) (b : Block) : Block :=
  let x := getQueue b q
  match x.cmd with
  | none => b
  | some c =>
    if c.phase ≠ .record then b
    else
    let at' := x.comp + 16 * (x.cdone.toNat % 2 ^ x.log2)
    let (wr, b) := lineAccess (srcReq b (.queue q) (at' / 128)) true wr b
    if statusFailing wr then
      portError { inst := (primaryInst b).getD 0, tag := some x.tag } 0x32
        (updQueue q (fun x => { x with cmd := none, state := if x.state = .dying then .dying else .stopped }) b)
    else
      let w0 : Word := BitVec.ofNat 64 (c.first.toNat + (statusCode c.status <<< 32))
      let b := updQueue q (fun x => { x with cmd := none, cdone := x.cdone + 1, lastRec := some (at', w0, c.result) }) b
      let b := trace ((primaryInst b).getD 0) { kind := 2, status := c.status, tag := x.tag, ctx := x.ctx, unit := q, arg := c.token.toNat } b
      if cmdNotify c then raisePrimary 2 b else b

/-- COMPLETION_RECORD_WRITE (R321). -/
def effCompletionRecordWrite (q : Nat) (wr : Status) (b : Block) : Block :=
  match (getQueue b q).cmd with
  | some c => if c.phase = .record then mutate (.qrecord q wr) (bodyCompletionRecord q wr) b else b
  | none => b

/-! Signals (R327, R329). -/

/-- What is due to every subscriber of a fence (R329). -/
def tellSubs (k : Nat) (st : Status) (fails : Nat) (b : Block) : Block :=
  let f := getFence b k
  f.subs.foldl (fun b s => ctlSend s.1 k (fenceMsg 5 f.value (handleOf b tyFence k) st s.2 fails) s.2 b) b

/-- A fence that a signal has reached (R327): VALUE rises, STATUS is set, a failing status is counted. -/
def signalled (f : Fence) (v : Word) (st : Status) : Fence :=
  { f with value := if f.value.toNat < v.toNat then v else f.value, status := st,
           fails := if statusFailing st then min (f.fails + 1) (2 ^ 24 - 1) else f.fails }

/-- An update at the home (R327), and what it tells (R329). -/
def fenceUpdate (k : Nat) (v : Word) (st : Status) (b : Block) : Block :=
  let f := getFence b k
  let f' := signalled f v st
  let b := updFence k (fun _ => f') b
  let b := if f.notify ∧ (f'.value ≠ f.value ∨ f'.status ≠ f.status) then raisePrimary 3 b else b
  tellSubs k f'.status f'.fails b

/-- The status a signal carries (R25, R327), and the tally cleared. -/
def takeSignal (b : Block) (ctx : Ctx) (st : Status) : Status × Block :=
  (statusWorst (st :: (Sparse.get [] b.fab.tally ctx.toNat).filter statusFailing),
   { b with fab := { b.fab with tally := Sparse.set [] b.fab.tally ctx.toNat [] } })

/-- The mutation of a local signal. -/
def bodyFenceSignalApply (src : Src) (st : Status) (b : Block) : Block :=
  match srcCmd b src with
  | none => b
  | some c =>
    match liveIndex b tyFence (sigHandle c) with
    | some k => toRecord src (fenceUpdate k (sigValue c) st b)
    | none => toRecord src (updCmd src (fun c => { c with status := statusMin c.status .badConfig }) b)

/-- Send, or send again, the SIGNAL of a command. -/
def sendSignal (src : Src) (st : Status) (b : Block) : Block :=
  match srcCmd b src with
  | none => b
  | some c =>
    let tag := (reqOf b src).tag
    ctlSend (handlePkg (sigHandle c)) (handleIdx (sigHandle c)) (fenceMsg 1 (sigValue c) (sigHandle c) st tag 0) tag
      (updCmd src (fun c => { c with sends := c.sends + 1 }) b)

/-- FENCE_SIGNAL_APPLY (R190, R327): once the writes issued before it are acknowledged, the signal leaves with the
lowest-ranked status; at another package as a SIGNAL. -/
def effFenceSignalApply (src : Src) (b : Block) : Block :=
  match srcCmd b src with
  | none => b
  | some c =>
    let ctx := (reqOf b src).ctx
    if c.phase ≠ .signal ∨ (openWrites b ctx).any c.before.contains then b
    else
      let (st, b) := takeSignal b ctx c.status
      let b := updCmd src (fun c => { c with phase := .remote }) b
      if !handleRemote b (sigHandle c) then mutate (.fenceSignalApply src st) (bodyFenceSignalApply src st) b
      else if b.fab.dead.contains (handlePkg (sigHandle c)) then toRecord src (updCmd src (fun c => { c with status := statusMin c.status .outOfService }) b)
      else sendSignal src st (updCmd src (fun c => { c with kill := some st }) b)

/-- SIGNAL_RESEND_TIMER (R329): three sends, then TIMEOUT. -/
def effSignalResendTimer (src : Src) (b : Block) : Block :=
  match srcCmd b src with
  | none => b
  | some c =>
    if c.phase ≠ .remote ∨ c.sends = 0 then b
    else if c.sends < 3 then sendSignal src (c.kill.getD c.status) b
    else toRecord src (updCmd src (fun c => { c with status := statusMin c.status .timeout }) b)

/-- A sharer entry of a fence that a package and tag use (R329). -/
def sharerRight (f : Fence) (p : Pkg) (tag : Tag) (signal : Bool) : Bool :=
  f.sharers.any (fun s => s.pkg == p && s.tag == tag && (if signal then s.signal else s.wait))

/-- A fence line that R330 discards. -/
def fenceDrop (b : Block) : Block := count { inst := (primaryInst b).getD 0 } (evCtx 2) b

/-- The fence that a line names at this home, where its handle is live. -/
def homeFence (b : Block) (f : FenceLine) : Option Nat := if handleRemote b f.handle then none else liveIndex b tyFence f.handle

/-- The mutation of a SIGNAL, and its acknowledgement. -/
def bodySignal (f : FenceLine) (b : Block) : Block :=
  match homeFence b f with
  | none => fenceDrop b
  | some k => ctlSend f.src k (fenceMsg 2 f.value f.handle f.status f.tag 0) f.tag (fenceUpdate k f.value f.status b)

/-- SIGNAL (R329, R330). -/
def effSignal (f : FenceLine) (b : Block) : Block :=
  match homeFence b f with
  | none => fenceDrop b
  | some k => if sharerRight (getFence b k) f.src f.tag true then mutate (.signal f) (bodySignal f) b else fenceDrop b

/-- A source's command awaits this acknowledgement. -/
def awaitsAck (b : Block) (f : FenceLine) (src : Src) : Bool :=
  match srcCmd b src with
  | some c => c.phase == .remote && c.sends != 0 && sigHandle c == f.handle && sigValue c == f.value && (reqOf b src).tag == f.tag
  | none => false

/-- SIGNAL_ACK (R329): the commands that signalled so complete. -/
def effSignalAck (f : FenceLine) (b : Block) : Block :=
  let l := (Src.kport :: (b.cm.queues.map (fun q => Src.queue q.1))).filter (awaitsAck b f)
  if l.isEmpty ∨ handlePkg f.handle ≠ f.src then fenceDrop b else l.foldl (fun b s => toRecord s b) b

/-- SUBSCRIBE (R329): answered with an UPDATE, or with NOT_OWNER. -/
def effSubscribe (f : FenceLine) (b : Block) : Block :=
  let refuse := ctlSend f.src (handleIdx f.handle) (fenceMsg 5 0 f.handle .notOwner f.tag 0) f.tag b
  match homeFence b f with
  | none => refuse
  | some k =>
    let x := getFence b k
    if !sharerRight x f.src f.tag false then refuse
    else if x.subs.isEmpty && !b.cm.queues.any (fun q => waitsOn f.handle none q.2) && decide (4096 ≤ slotsUsed b) then
      raisePrimary 12 (count { inst := (primaryInst b).getD 0 } (evCtx 1) b)
    else
      let b := updFence k (fun x => { x with subs := x.subs.filter (fun s => s != (f.src, f.tag)) ++ [(f.src, f.tag)] }) b
      ctlSend f.src k (fenceMsg 5 x.value f.handle x.status f.tag x.fails) f.tag b

/-- UNSUBSCRIBE (R330). -/
def effUnsubscribe (f : FenceLine) (b : Block) : Block :=
  match homeFence b f with
  | some k =>
    if (getFence b k).subs.contains (f.src, f.tag) then updFence k (fun x => { x with subs := x.subs.filter (fun s => s != (f.src, f.tag)) }) b
    else fenceDrop b
  | none => fenceDrop b

/-- QUERY (R329). -/
def effQuery (f : FenceLine) (b : Block) : Block :=
  match homeFence b f with
  | some k =>
    let x := getFence b k
    if sharerRight x f.src f.tag false then ctlSend f.src k (fenceMsg 5 x.value f.handle x.status f.tag x.fails) f.tag b else fenceDrop b
  | none => fenceDrop b

/-- End the waits on a mirror with a status. -/
def endMirrorWaits (h : Word) (tag : Tag) (st : Status) (b : Block) : Block :=
  let qs := (b.cm.queues.filter (fun q => waitsOn h (some tag) q.2)).map (·.1)
  qs.foldl (fun b q => endUnrun (.queue q) st b) { b with cm := { b.cm with mirrors := b.cm.mirrors.filter (fun m => !(m.handle == h && m.tag == tag)) } }

/-- UPDATE (R329): the mirror follows its home. A failing status that no update has counted is the home's own: NOT_OWNER
refuses the wait, ABORTED says that the fence is torn down. -/
def effUpdateFence (f : FenceLine) (b : Block) : Block :=
  match findMirror b f.handle f.tag with
  | none => fenceDrop b
  | some _ =>
    if handlePkg f.handle ≠ f.src then fenceDrop b
    else if f.fails = 0 ∧ (f.status = .notOwner ∨ f.status = .aborted) then endMirrorWaits f.handle f.tag f.status b
    else
      let keep := fun (m : Mirror) => { m with value := if m.value.toNat < f.value.toNat then f.value else m.value, status := f.status, fails := f.fails, heard := true }
      { b with cm := { b.cm with mirrors := updateWhere (fun m => m.handle == f.handle && m.tag == f.tag) keep b.cm.mirrors } }

/-- QUERY_TIMER (R329): a mirror with a waiter asks its home. -/
def effQueryTimer (k : Nat) (b : Block) : Block :=
  match b.cm.mirrors[k]? with
  | none => b
  | some m =>
    if mirrorWanted b m then
      ctlSend (handlePkg m.handle) (handleIdx m.handle) (fenceMsg 6 m.value m.handle m.status m.tag 0) m.tag b
    else b

/-- The lowest queue whose wait is held for want of a slot. -/
def slotWaiter (b : Block) : Option Nat :=
  (b.cm.queues.find? (fun q => match q.2.cmd with | some c => c.phase == .slot | none => false)).map (·.1)

/-- FENCE_SLOT_FREE (R331): a mirror without a waiter gives up its slot with UNSUBSCRIBE; a wait held for want of a slot
proceeds where one is free. -/
def effFenceSlotFree (k : Nat) (b : Block) : Block :=
  let b := match b.cm.mirrors[k]? with
    | none => b
    | some m =>
      if mirrorWanted b m then b
      else
        ctlSend (handlePkg m.handle) (handleIdx m.handle) (fenceMsg 4 0 m.handle .ok m.tag 0) m.tag
          { b with cm := { b.cm with mirrors := b.cm.mirrors.filter (fun x => x != m) } }
  match slotWaiter b with
  | some q => takeSlot q b
  | none => b

/-! Teardown of a fence (Table 11.2) and of a peer (R329). -/

/-- A fence is torn down: local waiters complete with ABORTED, subscribers are told. -/
def dieFence (k : Nat) (b : Block) : Block :=
  let h := handleOf b tyFence k
  let qs := (b.cm.queues.filter (fun q => waitsOn h none q.2 || (match q.2.cmd with | some c => c.phase == .slot && waitHandle c == h | none => false))).map (·.1)
  let b := qs.foldl (fun b q => endUnrun (.queue q) .aborted b) b
  let b := tellSubs k .aborted 0 b
  updFence k (fun f => { f with dying := true, subs := [] }) b

/-- Waiters and signallers of a dead home complete with OUT_OF_SERVICE (R329). -/
def endFencesOf (peer : Pkg) (b : Block) : Block :=
  let b := (b.cm.mirrors.filter (fun m => handlePkg m.handle == peer)).foldl (fun b m => endMirrorWaits m.handle m.tag .outOfService b) b
  let l := (Src.kport :: (b.cm.queues.map (fun q => Src.queue q.1))).filter (fun s =>
    match srcCmd b s with
    | some c => c.phase == .remote && c.sends != 0 && handlePkg (sigHandle c) == peer
    | none => false)
  let b := l.foldl (fun b s => toRecord s (updCmd s (fun c => { c with status := statusMin c.status .outOfService }) b)) b
  { b with cm := { b.cm with fences := Sparse.mapAll {} b.cm.fences (fun _ f => { f with subs := f.subs.filter (fun s => s.1 != peer) }) } }

/-- A peer dies (R179, R329, R354). -/
def declareDead (peer : Pkg) (b : Block) : Block := endFencesOf peer (peerDead peer b)

/-- PEER_DEAD (R354): every pair with the peer is DOWN, or its last mask is empty. -/
def effPeerDead (peer : Pkg) (b : Block) : Block :=
  let pairs := b.lport.flatMap (fun e => (e.2.pairs.filter (fun x => x.2.valid && x.2.peer == peer)).map (·.2))
  let empty := Sparse.get none b.fab.peerMask peer.toNat == some 0
  if (!pairs.isEmpty && pairs.all (fun x => !x.up)) || empty then declareDead peer b else b

end Sys2Proof.Machine
end

