-- ==== Sys2Proof/Machine/KeyRing.lean ====
section
/-! DEFINITION. Key messages on the package ring and the key caches (R54 to R56, R255 to R260, R275). Each command is
the arrival of the first message of its kind at an instance. -/

namespace Sys2Proof.Machine

def updKc (i : Nat) (f : List KcEntry → List KcEntry) (b : Block) : Block := updInst i (fun s => { s with kc := f s.kc }) b

/-- An operation in progress at an instance uses a key (R256). -/
def kcInUse (b : Block) (i k : Nat) : Bool :=
  b.mport.any (fun e => (getMcs b e.1).inst == i &&
    (e.2.reads.any (fun r => r.ready.isNone && (r.rgn.key == k || r.rgn.prevKey == k))
      || e.2.haz.any (fun h => h.phase == .waiting && (h.rgn.key == k || h.rgn.prevKey == k))
      || e.2.pages.any (fun w => w.stage != .done && (w.rgn.key == k || w.rgn.prevKey == k))))
    || b.mcs.any (fun e => e.2.inst == i && e.2.sweeps.any (fun s => !s.done && !s.stopped
        && ((getRgn b s.region).key == k || (getRgn b s.region).prevKey == k)))

/-- The least recently used entry that no operation uses. -/
def kcVictim (b : Block) (i : Nat) : Option KcEntry :=
  ((getInst b i).kc.filter (fun e => !kcInUse b i e.index)).foldl (fun a e =>
    match a with
    | none => some e
    | some x => if e.used < x.used then some e else a) none

/-- An entry leaves a key cache, and EVICT returns its grant (R256, R258). -/
def kcEvict (i : Nat) (v : KcEntry) (b : Block) : Block :=
  toPrimary i (.evict i v.index v.gen v.grant) (count { inst := i } (evKey 2) (updKc i (fun l => l.filter (fun e => e.index != v.index)) b))

/-- Install a pushed entry; a copy already held gives its grant to the new one. A full cache of 512 entries evicts the least recently
used one that no operation uses; where all are in use the pushed entry is not kept and its grant goes back, a later miss asking for it
again (log 106, DESIGN CHOICE: R256 is silent). -/
def kcInstall (i : Nat) (e : KcEntry) (b : Block) : Block :=
  let old := (getInst b i).kc.find? (fun x => x.index == e.index && x.gen == e.gen)
  let b := updKc i (fun l => l.filter (fun x => x.index != e.index)) b
  let grant := if e.grant = unlimited then unlimited else (old.map (·.grant)).getD 0 + e.grant
  let e := { e with grant := grant, asked := false, dry := false }
  let put := fun (b : Block) => updInst i (fun s => { s with kc := s.kc ++ [{ e with used := s.kcStamp }], kcStamp := s.kcStamp + 1 }) b
  if (getInst b i).kc.length < 512 then put b
  else
    match kcVictim b i with
    | some v => put (kcEvict i v b)
    | none => kcEvict i e b

/-- The ports of an instance. -/
def portsOf (b : Block) (i : Nat) : List Nat := (b.mport.map (·.1)).filter (fun n => (getMcs b n).inst == i)

/-- PUSH (R256): the tree checks that waited for the entry go on; the requests that wait for it are released by KEY_WAIT_RELEASE. -/
def effPush (r : RingIn) (b : Block) : Block :=
  ringArrive r (fun m => match m with | .push _ => true | _ => false) (fun m b =>
    match m with
    | .push e => (portsOf b r.inst).foldl (fun b n => progress n b) (kcInstall r.inst e b)
    | _ => b) b

/-- FILL_REQ (R257, R259): answered with PUSH, or FILL_NEG where the entry's chain is invalid. -/
def effFillReq (r : RingIn) (b : Block) : Block :=
  ringArrive r (fun m => match m with | .fillReq _ _ => true | _ => false) (fun m b =>
    match m with
    | .fillReq src k =>
      if keyUsable (getKey b k) && !b.keys.mint.zeroed then pushKey src k b else fromPrimary src (.fillNeg k) b
    | _ => b) b

/-- The tree checks, write-backs and sweep step of a share that wait for a key end with it (R72, R126). -/
def endTreeWaits (n k : Nat) (st : Status) (b : Block) : Block :=
  let mine := fun (b : Block) (i : Item) => (if treeKeyNew b (getRgn b i.region) i then (getRgn b i.region).key else (getRgn b i.region).prevKey) == k
  let b := (getPort b n).fetch.foldl (fun b f =>
    match f.phase with
    | .arrived _ => if mine b f.item then failItem f.item st false b else b
    | _ => b) b
  let b := updPort n (fun p => { p with back := p.back.filter (fun x => !(x.phase == .parent && mine b x.item)) }) b
  match (getPort b n).pages.find? (fun w => w.sweep && w.stage == .begin && (w.rgn.key == k || w.rgn.prevKey == k)) with
  | some w => stopSweep n w.region (updPort n (fun p => { p with pages := p.pages.filter (fun x => !x.sweep) }) b)
  | none => b

/-- The requests of an MCS that wait for a key end with KEY_ORPHANED (R72, R257). -/
def endKeyWaits (n k : Nat) (b : Block) : Block :=
  let mine := fun (g : Rgn) => g.key == k || (g.state == .rekey && g.prevKey == k)
  let st : Status := if b.keys.mint.zeroed then .tamper else .keyOrphaned
  let b := ((getPort b n).reads.filter (fun r => r.hold == .key && mine r.rgn)).foldl (fun b r => readFail n r [st] b) b
  let b := ((getPort b n).haz.filter (fun h => h.hold == .key && mine h.rgn)).foldl (fun b h => writeFail n h st b) b
  progress n (endTreeWaits n k st b)

/-- FILL_NEG (R257). -/
def effFillNeg (r : RingIn) (b : Block) : Block :=
  ringArrive r (fun m => match m with | .fillNeg _ => true | _ => false) (fun m b =>
    match m with
    | .fillNeg k => (portsOf b r.inst).foldl (fun b n => endKeyWaits n k b) b
    | _ => b) b

/-- A returned grant is added to BUDGET, or forfeited where the message is stale (R258, R259). -/
def returnGrant (k : Nat) (gen : BitVec 16) (grant : Nat) (b : Block) : Block :=
  let e := getKey b k
  if e.gen = gen ∧ e.cv ∧ e.budget ≠ unlimited ∧ grant ≠ unlimited then updKey k (fun e => { e with budget := e.budget + grant }) b
  else count { inst := (primaryInst b).getD 0 } (evKey 3) b

/-- EVICT (R259). -/
def effEvict (r : RingIn) (b : Block) : Block :=
  ringArrive r (fun m => match m with | .evict _ _ _ _ => true | _ => false) (fun m b =>
    match m with
    | .evict _ k gen grant => returnGrant k gen grant b
    | _ => b) b

/-- INVAL (R259): every copy of the entry or of a descendant goes, and the instance acknowledges. -/
def effInval (r : RingIn) (b : Block) : Block :=
  ringArrive r (fun m => match m with | .inval _ _ => true | _ => false) (fun m b =>
    match m with
    | .inval k _ => toPrimary r.inst (.invalAck r.inst k) (updKc r.inst (fun l => l.filter (fun e => e.index != k && !e.ancestors.contains k)) b)
    | _ => b) b

/-- The oldest INVALIDATE of an entry that awaits an instance awaits it no longer. -/
def ackInval (src k : Nat) : List MintJob → List MintJob
  | [] => []
  | j :: t => if j.target = k ∧ j.waits.contains src then { j with waits := j.waits.filter (· != src) } :: t else j :: ackInval src k t

/-- INVAL_ACK (R252). -/
def effInvalAck (r : RingIn) (b : Block) : Block :=
  ringArrive r (fun m => match m with | .invalAck _ _ => true | _ => false) (fun m b =>
    match m with
    | .invalAck src k => updMint (fun m => { m with jobs := ackInval src k m.jobs }) b
    | _ => b) b

/-- Grant what BUDGET has to an instance. -/
def sendGrant (dst k : Nat) (b : Block) : Block :=
  let (g, b) := takeGrant k b
  fromPrimary dst (.grant k g) b

/-- GRANT_REQ (R258): with BUDGET at 0 the other holders are recalled first. An entry that is no longer valid is not
granted: its INVAL is on the way (R259). -/
def effGrantReq (r : RingIn) (b : Block) : Block :=
  ringArrive r (fun m => match m with | .grantReq _ _ => true | _ => false) (fun m b =>
    match m with
    | .grantReq src k =>
      if !keyUsable (getKey b k) then b
      else if (getKey b k).budget = 0 ∧ b.inst.any (fun s => s.2.kc.any (fun x => x.index == k && x.grant != 0 && x.grant != unlimited))
      then startRecall src k b
      else sendGrant src k b
    | _ => b) b

/-- GRANT (R258): a grant of nothing says that BUDGET is used up and every other grant recalled. -/
def effGrant (r : RingIn) (b : Block) : Block :=
  ringArrive r (fun m => match m with | .grant _ _ => true | _ => false) (fun m b =>
    match m with
    | .grant k g => updKc r.inst (updateWhere (fun e => e.index == k) (fun e =>
        { e with grant := if g = unlimited then unlimited else e.grant + g, asked := false, dry := decide (g = 0) })) b
    | _ => b) b

/-- RECALL (R258): the holder returns what it has not used. -/
def effRecall (r : RingIn) (b : Block) : Block :=
  ringArrive r (fun m => match m with | .recall _ => true | _ => false) (fun m b =>
    match m with
    | .recall k =>
      let e := (getInst b r.inst).kc.find? (fun e => e.index == k)
      toPrimary r.inst (.recallAck r.inst k ((e.map (·.gen)).getD 0) ((e.map (·.grant)).getD 0))
        (updKc r.inst (updateWhere (fun e => e.index == k) (fun e => { e with grant := 0 })) b)
    | _ => b) b

/-- A holder has answered a recall: with the last answer the request that started it is served (R258). -/
def endRecall (src k : Nat) (b : Block) : Block :=
  match b.keys.recalls.find? (fun r => r.index == k) with
  | none => b
  | some rc =>
    let left := rc.waits.filter (· != src)
    if left.isEmpty then
      let b := { b with keys := { b.keys with recalls := b.keys.recalls.filter (fun r => r.index != k) } }
      if isPrimary b rc.dst then b else sendGrant rc.dst k b
    else { b with keys := { b.keys with recalls := updateWhere (fun r => r.index == k) (fun r => { r with waits := left }) b.keys.recalls } }

/-- RECALL_ACK (R258, R259). -/
def effRecallAck (r : RingIn) (b : Block) : Block :=
  ringArrive r (fun m => match m with | .recallAck _ _ _ _ => true | _ => false) (fun m b =>
    match m with
    | .recallAck src k gen grant => endRecall src k (returnGrant k gen grant b)
    | _ => b) b

/-- Clear the key cache of an instance and the pair tables of its LCSs (R275). -/
def clearKeysAt (i : Nat) (b : Block) : Block :=
  let b := updKc i (fun _ => []) b
  { b with lport := Sparse.mapAll {} b.lport (fun n p => if (getLcs b n).inst = i then { p with pairs := [], kBay := none } else p) }

/-- ZEROIZE (R275). -/
def effZeroize (r : RingIn) (b : Block) : Block :=
  ringArrive r (fun m => m == .zeroize) (fun _ b => clearKeysAt r.inst b) b

/-- RING_HOP_BROKEN (R56): reported on INT[15]. -/
def effRingHopBroken (i : Nat) (east : Bool) (b : Block) : Block :=
  if (getInst b i).built then
    raise i 15 (updInst i (fun s => if east then { s with eastBroken := true } else { s with westBroken := true }) b)
  else b

/-- RING_HOP_RESTORED (R56). -/
def effRingHopRestored (i : Nat) (east : Bool) (b : Block) : Block :=
  updInst i (fun s => if east then { s with eastBroken := false } else { s with westBroken := false }) b

end Sys2Proof.Machine
end

