-- ==== Sys2Proof/Machine/Mint.lean ====
section
/-! DEFINITION. The Mint: DERIVE, GENERATE, IMPORT, DECAPS, INVALIDATE, EXPORT, their completion, and the Rue
sweeper (R245 to R254, R261, R262). -/

namespace Sys2Proof.Machine

/-! Tables 9.2, 9.3. -/

/-- Usage bits that a type permits (Table 9.2); none for a reserved code. -/
def usagePermitted : Nat → Option (BitVec 8)
  | 0 => some 0x01 | 1 => some 0x41 | 2 => some 0x04 | 3 => some 0x88 | 4 => some 0x82 | 5 => some 0x81
  | 6 => some 0x90 | 7 => some 0x10 | 8 => some 0x90 | 9 => some 0x20 | 10 => some 0xC0 | 11 => some 0xC0
  | 12 => some 0xC0 | _ => none

/-- Types a command makes (Table 9.2, column "Made by"); for DERIVE by label code. -/
def typesMade (op label : Nat) : List Nat :=
  match op with
  | 1 => if label = 0x30 then [6] else if label = 0x31 then [5] else if label = 0x42 then [10] else []
  | 2 => [4, 5, 7, 8, 10, 11, 12]
  | 3 => [3, 4, 5, 6, 8, 10, 11, 12]
  | 4 => [4]
  | _ => []

/-- Whether a context fits a label code of Table 9.3; none where the code names no label. -/
def labelFits (label : Nat) (ctx : Bytes) : Option Bool :=
  let n := ctx.length
  let is := fun (k : Nat) => some (n == k)
  match label with
  | 0x01 | 0x02 | 0x10 => is 0
  | 0x03 => is 8
  | 0x11 | 0x51 | 0x60 => is 1
  | 0x12 => is 5
  | 0x13 | 0x14 => is 32
  | 0x15 => some (n == 32 || n == 10)
  | 0x16 => is 16
  | 0x20 => is 3
  | 0x30 => some ((n == 1 && decide (1 ≤ (ctx.headD 0).toNat ∧ (ctx.headD 0).toNat ≤ 4)) || (n == 10 && ctx.headD 0 == 0x10))
  | 0x31 => some (decide (1 ≤ n ∧ n ≤ 32))
  | 0x40 | 0x41 | 0x50 => is 48
  | 0x42 => is 8
  | _ => none

/-- Labels that driver software and queues may use (R247). -/
def labelOpen (label : Nat) (ctx : Bytes) : Bool := label == 0x31 || (label == 0x30 && ctx.headD 0 == 0x10)

/-- Text of the labels that DERIVE can use. -/
def labelText (label : Nat) : String := if label = 0x30 then "region" else "tensor"

/-! Checks of Table 9.6. -/

/-- Who owns an entry, as a tag: its owner's. -/
def keyTag (b : Block) (e : KEntry) : Tag := (getCtx b e.owner.toNat).tag

/-- Rights on a named entry (R244, R302, R323). -/
def mayName (b : Block) (r : Req) (op i : Nat) : Bool :=
  let e := getKey b i
  if e.sys || decide (i < 16) then (op == 4 && i == 4) || (op == 2 && decide (i ≤ 1))
  else mayAct b r e.owner (keyTag b e)

/-- A named entry that needs a usage bit. -/
def namedChecks (b : Block) (r : Req) (op i bit : Nat) : List Status :=
  let e := getKey b i
  (if e.state == .free || !(bit == 8 || fieldBit e.usage bit) then [.badConfig] else [])
    ++ (if mayName b r op i then [] else [.notOwner])
    ++ (if e.state != .free && !keyUsable e && !(op == 5 && e.state == .invalid) then [.keyOrphaned] else [])

/-- Usage bit that an OP needs of the entry it names: DERIVE, WRAP, KEM, MIGRATE; 8 for none. -/
def opNeeds : Nat → Nat
  | 1 | 2 => 0 | 3 => 1 | 4 => 2 | 6 => 7 | _ => 8

/-- Owner of the new entry (Table 9.5, R250, R320). -/
def newOwner (b : Block) (src : Src) (op idx : Nat) (arg : Word) : Ctx :=
  let p := getKey b idx
  if op = 1 ∨ (op = 2 ∧ p.sys = false) then p.owner
  else
    match src with
    | .queue q => (getQueue b q).ctx
    | _ => BitVec.ofNat 16 (fieldNat arg 47 32)

/-- Every condition of Table 9.6 that a command meets. -/
def mintChecks (b : Block) (src : Src) (w arg : Word) (data : Bytes) : List Status :=
  let op := fieldNat w 3 0
  let type := fieldNat w 7 4
  let idx := fieldNat w 28 16
  let label := fieldNat w 39 32
  let usage : BitVec 8 := if op = 4 then 2 else BitVec.ofNat 8 (fieldNat arg 7 0)
  let r := reqOf b src
  let p := getKey b idx
  let makes := op == 1 || op == 2 || op == 3 || op == 4
  (if b.otp.lc = .blank ∨ (op = 1 ∧ label = 0x01 ∧ (b.otp.lc = .eol ∨ b.otp.intent = .eol)) then [.lifecycle] else [])
    ++ (if b.keys.mint.zeroed then [.tamper] else [])
    ++ namedChecks b r op idx (opNeeds op)
    ++ (if op = 6 then
          namedChecks b r op (fieldNat arg 25 13) 7 ++ (if (getKey b (fieldNat arg 25 13)).type = 4 then [] else [.badConfig])
        else [])
    ++ (if op = 1 then
          (match labelFits label data with
            | some true => []
            | _ => [Status.badConfig])
          ++ (if (labelFits label data).isSome && !labelOpen label data then [.notOwner] else [])
          ++ (if usage &&& 0x81 &&& ~~~ p.usage = 0 then [] else [.badConfig])
        else [])
    ++ (if makes then
          (match usagePermitted type with
            | some m => if usage &&& ~~~ m = 0 then [] else [Status.badConfig]
            | none => [.badConfig])
          ++ (if (typesMade op label).contains type then [] else [.badConfig])
          ++ (if 6 ≤ p.depth then [.badConfig] else [])
          ++ (if fieldBit w 8 && !(p.persist || decide (idx ≤ 4)) then [.badConfig] else [])
          ++ (if (freeKey b).isNone || (fieldBit w 8 && decide (4000 ≤ persistCount b)) then [.quota] else [])
          ++ (if r.kernel && kClosed b (getCtx b (newOwner b src op idx arg).toNat).tag then [.notOwner] else [])
        else [])
    ++ (if op = 2 ∧ b.keys.mint.drbgOk = false then [.outOfService] else [])
    ++ (if op = 3 ∧ (kwpUnwrap (keyBytes p.key) data).isNone then [.tagFail] else [])

/-! The commands. -/

/-- Material of the new entry, with the counter of free values moved where a draw is made (R246, R251, R261, R262). -/
def mintMaterial (op label : Nat) (p : KEntry) (data : Bytes) (b : Block) : Key × Block :=
  match op with
  | 1 => (kdfKey p.key (labelText label) data, b)
  | 2 => (Config.draw b.freeCtr, (fresh b).2)
  | 3 => (keyOf ((kwpUnwrap (keyBytes p.key) data).getD []), b)
  | _ => (importKek (kemDecaps p.key data) data, b)

/-- A command that has acted waits for MINT_COMPLETE. -/
def mintJob (j : MintJob) (b : Block) : Block := updMint (fun m => { m with jobs := m.jobs ++ [j] }) b

/-- The outcome of a command that awaits nothing and makes no entry. -/
def plainJob (b : Block) (src : Src) (op : Nat) (st : Status) : MintJob :=
  { src := src, op := op, status := st, result := 0, index := b.keys.mint.sts.index, blob := [], target := 0, waits := [],
    store := .none }

/-- A command fails: nothing else changes. -/
def mintFail (src : Src) (op : Nat) (st : Status) (b : Block) : Block :=
  mintJob (plainJob b src op st) b

/-- Mint commands that make an entry (Table 9.5). -/
def mintMake (src : Src) (w arg budget : Word) (data : Bytes) (i : Nat) (b : Block) : Block :=
  let op := fieldNat w 3 0
  let idx := fieldNat w 28 16
  let p := getKey b idx
  let owner := newOwner b src op idx arg
  let (key, b) := mintMaterial op (fieldNat w 39 32) p data b
  let usage : BitVec 8 := if op = 4 then 2 else BitVec.ofNat 8 (fieldNat arg 7 0)
  let e : KEntry :=
    { type := fieldNat w 7 4, depth := p.depth + 1, sys := false, persist := fieldBit w 8, usage := usage, owner := owner,
      parent := idx, budget := fieldNat budget 47 0, key := key }
  let b := newRef tyKey i (writeKey i e b)
  let b := if op = 3 ∨ op = 4 then raisePrimary 6 b else b
  let store : StoreWait := if e.persist then .next else .none
  mintJob { plainJob b src op (substOk b .ok) with result := handleOf b tyKey i, index := i, store := store } b

/-- INVALIDATE (R252). -/
def mintInvalidate (src : Src) (idx : Nat) (b : Block) : Block :=
  let was := (getKey b idx).state
  let waits := if was = .active then (b.inst.filter (fun e => e.2.released && !isPrimary b e.1)).map (·.1) else []
  let store := if was = .active && (getKey b idx).persist then StoreWait.next else .none
  let b := if was = .active then dyingRef tyKey idx (invalidateKey idx b) else b
  mintJob { plainJob b src 5 (substOk b .ok) with target := idx, waits := waits, store := store } b

/-- EXPORT (Table 9.5). -/
def mintExport (src : Src) (idx aux : Nat) (b : Block) : Block :=
  let blob := kwpWrap (keyBytes (getKey b aux).key) (keyBytes (getKey b idx).key)
  mintJob { plainJob b src 6 (substOk b .ok) with blob := blob } b

/-- A Mint command acts (R251); `rd` is the status with which a data address was read (R320). -/
def bodyMint (src : Src) (w arg budget : Word) (data : Bytes) (rd : Status) (b : Block) : Block :=
  let op := fieldNat w 3 0
  let st := statusWorst ((if statusFailing rd then [rd] else []) ++ mintChecks b src w arg data)
  if st ≠ .ok then mintFail src op st b
  else if op = 5 then mintInvalidate src (fieldNat w 28 16) b
  else if op = 6 then mintExport src (fieldNat w 28 16) (fieldNat arg 25 13) b
  else
    match freeKey b with
    | some i => mintMake src w arg budget data i b
    | none => mintFail src op .quota b

/-- The first bytes of MINT_DATA. -/
def mintData (b : Block) (n : Nat) : Bytes :=
  ((List.range 256).flatMap (fun k => leBytes 8 (Sparse.get 0 b.keys.mint.data k).toNat)).take n

/-- Bytes of data that a command takes (Table 9.5). -/
def mintNeeds (w : Word) : Nat :=
  match fieldNat w 3 0 with
  | 1 => fieldNat w 47 40
  | 3 => 40
  | 4 => 1568
  | _ => 0

/-- A MINT_CMD write clears what is left of an EXPORT result (R250). -/
def clearExport (src : Src) (b : Block) : Block :=
  match src with
  | .reg _ _ => updMint (fun m => { m with data := Sparse.keep m.data (fun k _ => !m.exported.contains k), exported := [] }) b
  | _ => b

/-- The command word of a Mint command, its OP the row's. -/
def mintWord (src : Src) (op : Nat) (b : Block) : Word := (srcWord b src &&& ~~~ 0xF) ||| BitVec.ofNat 64 op

/-- What a Mint command takes at its acceptance: MINT_ARG, MINT_BUDGET and its data, with the status of their read. -/
def mintArgs (src : Src) (op : Nat) (data : Bytes) (rd : Status) (b : Block) : Word × Word × Bytes × Status :=
  let n := mintNeeds (mintWord src op b)
  match src with
  | .reg _ _ => (b.keys.mint.arg, b.keys.mint.budget, mintData b n, .ok)
  | s =>
    (srcOp b s 48, srcOp b s 56, (data ++ List.replicate n 0).take n, if n = 0 then .ok else rd)

/-- Start a Mint command: its words and data are taken as they stand at acceptance. -/
def startMint (op : Nat) (src : Src) (data : Bytes) (rd : Status) (b : Block) : Block :=
  let w := mintWord src op b
  let (arg, budget, data, rd) := mintArgs src op data rd b
  startCmd .mint src 0x40 op (fun b =>
    let (rd, b) := srcAccess src false (srcOp b src 64).toNat (mintNeeds w) rd b
    mutate (.mint src w arg budget data rd) (bodyMint src w arg budget data rd) (clearExport src b)) b

def effDerive (src : Src) (data : Bytes) (rd : Status) (b : Block) : Block := startMint 1 src data rd b
def effGenerate (src : Src) (b : Block) : Block := startMint 2 src [] .ok b
def effImportKey (src : Src) (data : Bytes) (rd : Status) (b : Block) : Block := startMint 3 src data rd b
def effDecaps (src : Src) (data : Bytes) (rd : Status) (b : Block) : Block := startMint 4 src data rd b
def effInvalidate (src : Src) (b : Block) : Block := startMint 5 src [] .ok b
def effExportKey (src : Src) (b : Block) : Block := startMint 6 src [] .ok b

/-! Completion (R250, R251, R252, R272). -/

/-- MINT_DATA when a register-form command completes: cleared, but for an EXPORT result. A queue's EXPORT result goes to its data address with the
queue's rights (R320); the command ends with the status of that write where it fails. -/
def mintDataAfter (j : MintJob) (b : Block) : Status × Block :=
  match j.src with
  | .reg _ _ =>
    (j.status, if j.blob.isEmpty then updMint (fun m => { m with data := [], exported := [] }) b
    else
      let words := (chunksOf 8 5 j.blob).zipIdx
      let data : Sparse Word := words.foldl (fun d e => Sparse.set 0 d e.2 (BitVec.ofNat 64 (leNat e.1))) []
      updMint (fun m => { m with exported := words.map (·.2), data := data }) b)
  | s =>
    if j.blob.isEmpty then (j.status, b)
    else
      let (wr, b) := srcAccess s true (srcOp b s 64).toNat j.blob.length .ok b
      if statusFailing wr then (wr, b) else (j.status, updMint (fun m => { m with expOut := some (srcOp b s 64, j.blob) }) b)

/-- MINT_COMPLETE (R251): the oldest command that awaits neither an acknowledgement nor a commit. -/
def effMintComplete (b : Block) : Block :=
  match takeFirst (fun (j : MintJob) => j.waits.isEmpty && j.store == .none) b.keys.mint.jobs with
  | none => b
  | some (j, rest) =>
    let (st, b) := mintDataAfter j (updMint (fun m => { m with jobs := rest }) b)
    let b := if j.op = 5 ∧ statusFailing j.status = false then raisePrimary 6 b else b
    cmdDone .mint j.src st j.result j.index b

/-! The sweeper (R254). -/

/-- What a visit finds to do at an entry. -/
def rueActs (e : KEntry) : Bool :=
  (e.state == .active && !e.cv) || (e.state == .invalid && e.children == 0 && e.pins == 0)

/-- The mutation of a visit. -/
def bodyRueVisit (i : Nat) (b : Block) : Block :=
  let e := getKey b i
  if e.state == .active && !e.cv then
    updKey i (fun e => { e with state := .invalid, gen := e.gen + 1 }) (if e.persist then storeDirty b else b)
  else if e.state == .invalid && e.children == 0 && e.pins == 0 then
    updRef tyKey i (fun _ => {}) (eraseKey i b)
  else b

/-- RUE_SWEEP_VISIT (R254): the next entry. -/
def effRueSweepVisit (b : Block) : Block :=
  let i := b.keys.mint.rue
  let b := updMint (fun m => { m with rue := (m.rue + 1) % 8192 }) b
  if rueActs (getKey b i) then mutate (.rueSweepVisit i) (bodyRueVisit i) b else b

end Sys2Proof.Machine
end

