-- ==== Sys2Proof/Machine/Memory.lean ====
section
/-! DEFINITION. The memory-path commands (02 R31 to R37, 04): requests on MN_, transfers on MS_, verification,
metadata, pairs, slice registers. Each is the command's effect on the block; `Exec` wraps it. -/

namespace Sys2Proof.Machine

/-- READY of a kind is held low (R116, R257): the wait queue of a walk class, or the key-wait queue, is full, and a request of that
kind waits in it (log 98). -/
def mnHeld (b : Block) (n : Nat) (wr : Bool) : Bool :=
  let l := fetchesOf b n
  let kind := fun (f : FetchBy) => match f with
    | .read _ => !wr
    | .write _ => wr
    | _ => false
  let keyed := fun (p : MPort) => if wr then p.haz.any (fun h => h.hold == .key) else p.reads.any (fun r => r.hold == .key)
  (List.range 8).any (fun c => decide (8 ≤ (walkQueue l c).length) && (walkQueue l c).any kind)
    || (decide (16 ≤ keyWaiting b n) && (engPorts b n).any (fun k => keyed (getPort b k)))

/-- Table 2.10, first rows: a refused request is counted and answered; `port` says that it is an illegal input. -/
def mnRefuse (n : Nat) (rq : MnReq) (l : List Status) (port : Bool) (answer : Block → Block) (b : Block) : Block :=
  let b := if port then portError (whoMn b n rq) 0 b else b
  memFailures n rq l (answer b)

/-- A read with an identifier is outstanding (R33): its transfer or its verification is still to come. -/
def rdIdBusy (p : MPort) (id : BitVec 10) : Bool :=
  p.reads.any (fun r => r.rq.id == id && !r.own && !(r.delivered && !r.verify)) || p.rdata.any (fun e => e.2.id == id)

/-- A write with an identifier is outstanding (R33): its acknowledgement has not transferred. -/
def wrIdBusy (p : MPort) (id : BitVec 10) : Bool :=
  p.haz.any (fun h => h.rq.id == id && !h.acked) || p.wack.any (fun w => w.id == id)

/-- A clean item with an uncorrectable SRAM error is dropped, to be fetched again, and counted (Table 4.4). -/
def sramClean (n : Nat) (i : Item) (b : Block) : Block :=
  match cachedItem b i with
  | some c => if c.dirty then b else count (whoMcs b n c.tag) (evMcs 14) (dropCached i b)
  | none => b

/-- A modified item is cached. -/
def cachedDirty (b : Block) (i : Item) : Bool := (cachedItem b i).any (fun c => c.dirty)

/-- An access that meets an uncorrectable error of the cache SRAM in its counter block (Table 4.4): a clean block is dropped; with a
modified one the slice is lost, and the access ends with OUT_OF_SERVICE. -/
def meetSram (n : Nat) (i : Item) (hw : HwFault) (rw : Bool) (b : Block) : Bool × Block :=
  if rw then
    match hw with
    | .cacheClean => (false, sramClean n i b)
    | .cacheModified => if cachedDirty b i then (true, sliceFault (engOf b n) false b) else (false, b)
    | _ => (false, b)
  else (false, b)

/-- Group line of a host line. -/
def groupLine (b : Block) (host : Nat) : Nat :=
  match mapLine b host with
  | some (_, g) => g
  | none => 0

/-- A read is accepted (R107, R109, R119, R125): it begins at once as far as it can. An engine's own read (`own`) has no MN_RDATA. -/
def acceptRead (n : Nat) (rq : MnReq) (k : Nat) (r : Rgn) (own : Bool) (b : Block) : Block :=
  let g := groupLine b rq.addr.toNat
  let rd : Rd := { seq := (getPort b n).seq, rq := rq, ridx := k, rgn := r, gline := g, vbu := needsVbu b n rq r,
                   useNew := usesNew b n k r rq.addr.toNat g false, dual := (engMcs b n).dual, own := own }
  let b := updPort n (fun p => { p with reads := p.reads ++ [rd], seq := p.seq + 1 }) b
  progress n (count (whoMn b n rq) (evMcs (modeNum r.mode)) b)

/-- MN_READ_REQUEST (R32 to R34, R69, R72, R90, R101, R102, R107, R108, R119, R128). -/
def effMnReadRequest (n : Nat) (rq : MnReq) (hw : HwFault) (b : Block) : Block :=
  let m := getMcs b n
  let p := getPort b n
  let refuse := fun (l : List Status) (port : Bool) (b : Block) =>
    mnRefuse n rq l port (rdataNow n (rdOut rq.id (statusWorst l) 0 0 false)) b
  if !m.present || !(getInst b m.inst).released then b
  else if m.state = .down then refuse [.outOfService] false b
  else if p.drain || p.soft || decide (64 ≤ p.pnt.length) || mnHeld b n false then b
  else if rdIdBusy p rq.id then refuse [.badConfig] true b
  else
    match judge b n rq none with
    | .bad l port => refuse l port b
    | .ok k r =>
      let (lost, b) := meetSram n (cbItem b n k r rq.addr.toNat) hw (r.mode == .rw) b
      if lost then refuse [.outOfService] false b
      else
        acceptRead n rq k r false b

/-- A write is the delivery of a Reduction Lane result that carries the INEXACT mark (R84, R219): Table 2.2 gives the
mark no signal, so the write is known by the delivery on LT_IR that asked for it (log 19, DEDUCED). -/
def laneInexact (b : Block) (rq : MnReq) (w : MnWr) : Bool :=
  b.lport.any (fun e => e.2.inb.any (fun y => match y.use with
    | .stepWrite _ _ _ inex => inex && y.sent && y.addr == rq.addr && y.tag == rq.tag && y.ctx == rq.ctx && y.data == w.data
    | _ => false))

/-- Open hazard entries of the slice of a port, of its 256 (R118). -/
def openHaz (b : Block) (n : Nat) : Nat := ((engPorts b n).map (fun k => (getPort b k).haz.length)).foldl (· + ·) 0

/-- A write is accepted (R85, R118, R237): the producer's check value is compared; a mismatch, or two Dual copies that disagree,
makes the line poisoned. An engine's own write (`own`) has no MN_WACK. -/
def acceptWrite (n : Nat) (rq : MnReq) (w : MnWr) (hw : HwFault) (k : Nat) (r : Rgn) (own : Bool) (b : Block) : Block :=
  let i := (getMcs b n).inst
  let chk := w.svalid && !w.poison && r.mode != .ro
  let (f, b) := if chk then forced false n 2 b else (false, b)
  let bad := chk && (f || sorrelOf w.data != w.sorrel)
  let dual := (engMcs b n).dual && (hw == .dualData || hw == .dualMac)
  let b := if bad then integrity i rq.tag .sorrel (covMcs n 4 (portError (whoMn b n rq) 2 (memEvent n rq .sorrelFail b))) else b
  let b := if dual then memDual n rq b else b
  let p := getPort b n
  let h : Haz := { seq := p.seq, rq := rq, wr := w, ridx := k, rgn := r, gline := groupLine b rq.addr.toNat,
                   poison := w.poison || bad || dual, inexact := laneInexact b rq w, ack := if bad || dual then .sorrelFail else .ok, acked := own }
  let b := updPort n (fun p => { p with haz := p.haz ++ [h], seq := p.seq + 1 }) b
  progress n (count (whoMn b n rq) (evMcs (4 + modeNum r.mode)) b)

/-- MN_WRITE_REQUEST (R69, R72, R79, R85, R101, R114, R118, R128, R237). A write while a soft reset holds the slice is an illegal
input that is not accepted (Table 2.10). -/
def effMnWriteRequest (n : Nat) (rq : MnReq) (w : MnWr) (hw : HwFault) (b : Block) : Block :=
  let m := getMcs b n
  let refuse := fun (l : List Status) (port : Bool) (b : Block) => mnRefuse n rq l port (wackNow n rq.id (statusWorst l)) b
  if !m.present || !(getInst b m.inst).released then b
  else if (getPort b n).soft then portError (whoMn b n rq) 0 b
  else if m.state = .down then refuse [.outOfService] false b
  else if (getPort b n).drain || decide (256 ≤ openHaz b n) || mnHeld b n true then b
  else if wrIdBusy (getPort b n) rq.id then refuse [.badConfig] true b
  else
    match judge b n rq (some w) with
    | .bad l port => refuse l port b
    | .ok k r =>
      let (lost, b) := meetSram n (cbItem b n k r rq.addr.toNat) hw (r.mode == .rw) b
      if lost then refuse [.outOfService] false b else acceptWrite n rq w hw k r false b

/-- HAZARD_ENTRY_COMMIT (R118): an entry whose checks have passed commits, and held reads are served from it. -/
def effHazardEntryCommit (n seq : Nat) (b : Block) : Block :=
  if (getPort b n).haz.any (fun h => h.seq == seq && h.phase == .checked) then
    progress n (updPort n (mapHaz seq (fun h => { h with phase := .committed })) b)
  else b

/-- The lowest MS_ identifier that no outstanding transfer carries. -/
def freeMsId (p : MPort) : Option (BitVec 10) :=
  (lowestFrom (fun k => !p.out.any (fun o => o.id.toNat == k)) 1024 0).map (BitVec.ofNat 10)

/-- A line is free for a transfer: no write of it is outstanding, and for a write no read of it either (R37, R119). -/
def lineFree (p : MPort) (g : Nat) (wr : Bool) : Bool := !p.out.any (fun o => o.g == g && (o.wr || wr))

/-- Put a transfer on MS_: one credit of its kind, an identifier, the channel hash (R36, R106). -/
def msIssue (n g : Nat) (wr : Bool) (what : MsWhat) (seq : Nat) (data : Line) (sb : Sideband) (then' : MPort → MPort) (b : Block) : Block :=
  let p := getPort b n
  let (ch, q) := chanOf b n g
  match freeMsId p with
  | none => b
  | some id =>
    if (if wr then p.wrCrd else p.rdCrd).getD ch 0 = 0 || !lineFree p g wr then b
    else
      updPort n (fun p => then' { p with
        rdCrd := if wr then p.rdCrd else listMod p.rdCrd ch (· - 1),
        wrCrd := if wr then listMod p.wrCrd ch (· - 1) else p.wrCrd,
        out := p.out ++ [{ id := id, wr := wr, ch := ch, g := g, what := what, seq := seq, drop := false }],
        lastMs := some { wr := wr, ch := ch, addr := BitVec.ofNat 40 q, id := id, data := data, sb := sb } }) b

/-- Whether `msIssue` puts a transfer out. -/
def msReady (b : Block) (n g : Nat) (wr : Bool) : Bool :=
  let p := getPort b n
  (freeMsId p).isSome && (if wr then p.wrCrd else p.rdCrd).getD (chanOf b n g).1 0 != 0 && lineFree p g wr

/-- Data lines that a port has asked for or holds (R36): the space for them is bounded. -/
def linesHeld (p : MPort) : Nat :=
  (p.reads.filter (fun r => match r.mem with
    | .onMs => true
    | .here _ _ _ => true
    | _ => false)).length + p.rdata.length

/-- A line of a page job in a phase. -/
def pageJobOf (p : MPort) (host : Nat) (ph : LinePhase) (st : PageStage) : Option (PageWork × LineJob) :=
  p.pages.findSome? (fun w => if w.stage = st then (w.lines.find? (fun j => j.line == host && j.phase == ph)).map (fun j => (w, j)) else none)

/-- Move a line of a page job. -/
def setLine (w : PageWork) (host : Nat) (ph : LinePhase) (p : MPort) : MPort :=
  mapJob w (fun x => { x with lines := updateWhere (fun j => j.line == host) (fun j => { j with phase := ph }) x.lines }) p

/-- MS_READ_ISSUE (R36, R37, R91, R113, R126): a data read for whose line there is space, a metadata fetch that holds a slot, or a
line of a page job. -/
def effMsReadIssue (n : Nat) (what : MsWhat) (b : Block) : Block :=
  let p := getPort b n
  match what with
  | .data id =>
    match p.reads.find? (fun r => r.rq.id == id && r.mem == .toIssue && r.ready.isNone) with
    | some rd =>
      if p.haz.any (fun h => h.rq.addr == rd.rq.addr && decide (h.seq < rd.seq)) || decide (Config.lineSpace ≤ linesHeld p) then b
      else msIssue n rd.gline false what rd.seq 0 0 (mapRd rd.seq (fun r => { r with mem := .onMs })) b
    | none => b
  | .item i =>
    if p.fetch.any (fun f => f.item == i && f.phase == .slot) && !p.back.any (fun x => x.item == i) && !p.out.any (fun o => o.what == what) then
      msIssue n (itemLine b (getRgn b i.region) i) false what 0 0 0
        (fun p => { p with fetch := updateWhere (fun f => f.item == i) (fun f => { f with phase := .onMs }) p.fetch }) b
    else b
  | .line host =>
    match pageJobOf p host .toRead .reading with
    | some (w, j) => msIssue n j.g false what w.seq 0 0 (setLine w host .onRd) b
    | none => b
  | _ => b

/-- Which coverage counter a written line counts in (R234). -/
def covWrite (spol : Nat) (origin : Bool) : Nat := if spol = 2 then 2 else if origin then 0 else 1

/-- The issue of a committed write: MN_WACK follows it (R32). -/
def issueEntry (n : Nat) (h : Haz) (b : Block) : Block :=
  let b := msIssue n h.gline true (.entry h.seq) h.seq h.data h.sb (mapHaz h.seq (fun x => { x with phase := .issued, acked := true })) b
  covMcs n (covWrite h.rgn.spol h.origin) (if h.acked then b else wackNow n h.rq.id h.ack b)

/-- MS_WRITE_ISSUE (R32, R36, R91, R115, R119, R126): a committed write whose line has no earlier access outstanding, a write-back
whose parent slot holds the new MAC, a line of a page job, or a line that an engine of the block posted. -/
def effMsWriteIssue (n : Nat) (what : MsWhat) (b : Block) : Block :=
  let p := getPort b n
  match what with
  | .entry seq =>
    match p.haz.find? (fun h => h.seq == seq && h.phase == .committed) with
    | some h =>
      if p.haz.any (fun x => x.rq.addr == h.rq.addr && decide (x.seq < h.seq))
          || p.reads.any (fun r => r.rq.addr == h.rq.addr && decide (r.seq < h.seq) && r.ready.isNone)
          || !msReady b n h.gline true then b
      else progress n (issueEntry n h b)
    | none => b
  | .back i =>
    match p.back.find? (fun x => x.item == i) with
    | some x =>
      if x.phase = .ready then
        msIssue n (itemLine b (getRgn b i.region) i) true what 0 x.data 0
          (fun p => { p with back := updateFirst (fun y => y.item == i) (fun y => { y with phase := .onMs }) p.back }) b
      else b
    | none => b
  | .line host =>
    match pageJobOf p host .toWrite .writing with
    | some (w, j) =>
      if msReady b n j.g true then
        covMcs n (covWrite w.rgn.spol j.origin) (msIssue n j.g true what w.seq j.data j.sb (setLine w host .onWr) b)
      else b
    | none =>
      match p.posted.find? (fun x => x.line == host && !x.onMs) with
      | some x =>
        if msReady b n x.g true then
          let b := covMcs n 1 (msIssue n x.g true what 0 x.data x.sb
            (fun p => { p with posted := updateFirst (fun y => y.line == host && !y.onMs) (fun y => { y with onMs := true }) p.posted }) b)
          match x.ack with
          | some id => wackNow n id .ok b
          | none => b
        else b
      | none => b
  | _ => b

/-- An uncorrectable error of the cache SRAM that a return meets: in the counter block of a read, or in the parent of a fetched
item. -/
def returnSram (n : Nat) (what : MsWhat) (hw : HwFault) (b : Block) : Block :=
  let item := match what with
    | .data id => ((getPort b n).reads.find? (fun r => r.rq.id == id)).map (fun r => cbItem b n r.ridx r.rgn r.rq.addr.toNat)
    | .item i => some (parentItem i)
    | _ => none
  match item with
  | some i => (meetSram n i hw true b).2
  | none => b

/-- A returned data line joins its read; two Dual copies that disagree end it (R236, R238). -/
def returnData (n : Nat) (o : MsOut) (data : Line) (sb : Sideband) (poison : Bool) (hw : HwFault) (b : Block) : Block :=
  match (getPort b n).reads.find? (fun r => r.seq == o.seq && r.mem == .onMs) with
  | none => b
  | some rd =>
    if rd.dual && hw == .dualData then
      progress n (memDual n rd.rq (readReady n rd.seq (rdOut rd.rq.id .sorrelFail 0 0 false) false [] b))
    else
      progress n (updPort n (mapRd rd.seq (fun r => { r with mem := .here data sb poison, lateDual := r.lateDual || (rd.dual && hw == .dualMac) })) b)

/-- A returned metadata item is checked against its parent (R113); one that the controller poisoned, or whose two tree MACs
disagree, fails. -/
def returnItem (n : Nat) (i : Item) (data : Line) (poison : Bool) (hw : HwFault) (b : Block) : Block :=
  match (getPort b n).fetch.find? (fun f => f.item == i && f.phase == .onMs) with
  | none => b
  | some f =>
    let b := updPort n (fun p => { p with fetch := updateWhere (fun f => f.item == i) (fun f => { f with phase := .arrived data }) p.fetch }) b
    if poison then progress n (failItem i .tagFail false (portError (whoMcs b n f.tag) 7 b))
    else if f.dual && hw == .dualMac then progress n (failItem i .sorrelFail true b)
    else progress n b

/-- MS_RDATA_RETURN (R29, R69, R86, R91, R113, R126, R238): a data line is decrypted and checked, a metadata item is
checked against its parent, a line of a page job is checked for its new key or counters. -/
def effMsRdataReturn (n : Nat) (id : BitVec 10) (data : Line) (sb : Sideband) (poison : Bool) (hw : HwFault)
    (b : Block) : Block :=
  let m := getMcs b n
  match (getPort b n).out.find? (fun o => o.id == id && !o.wr) with
  | none => if (getInst b m.inst).released then portError { inst := m.inst } 5 b else b
  | some o =>
    let b := updPort n (fun p => { p with out := p.out.filter (fun x => !(x.id == id && !x.wr)) }) b
    if o.drop then b
    else
      let b := returnSram n o.what hw b
      match o.what with
      | .data _ => returnData n o data sb poison hw b
      | .item i => returnItem n i data poison hw b
      | .line host =>
        match pageJobOf (getPort b n) host .onRd .reading with
        | some (w, j) => if w.seq = o.seq then progress n (pageLine n w j data sb poison (w.dual && (hw == .dualData || hw == .dualMac)) b) else b
        | none => b
      | _ => b

/-- MS_WACK_RETURN (R118, R115, R91): the entry, the write-back or the line closes. -/
def effMsWackReturn (n : Nat) (id : BitVec 10) (b : Block) : Block :=
  let m := getMcs b n
  match (getPort b n).out.find? (fun o => o.id == id && o.wr) with
  | none => if (getInst b m.inst).released then portError { inst := m.inst } 6 b else b
  | some o =>
    let b := updPort n (fun p => { p with out := p.out.filter (fun x => !(x.id == id && x.wr)) }) b
    match o.what with
    | .entry seq => progress n (updPort n (fun p => { p with haz := p.haz.filter (fun h => h.seq != seq) }) b)
    | .back i => progress n (updPort n (fun p => { p with back := p.back.filter (fun x => !(x.item == i && x.phase == .onMs)) }) b)
    | .line host =>
      match pageJobOf (getPort b n) host .onWr .writing with
      | some (w, _) => progress n (updPort n (setLine w host .done) b)
      | none => progress n (updPort n (fun p => { p with posted := p.posted.filter (fun x => !(x.line == host && x.onMs)) }) b)
    | _ => b

/-- Credits of one kind, one bit per channel, clamped at 255; whether one was discarded (R36). -/
def addCredits (l : List Nat) (bits : BitVec 4) : List Nat × Bool :=
  (l.zipIdx.map (fun e => if bits.getLsbD e.2 then min 255 (e.1 + 1) else e.1),
   l.zipIdx.any (fun e => bits.getLsbD e.2 && decide (255 ≤ e.1)))

/-- MS_CREDIT_RETURN (R36). -/
def effMsCreditReturn (n : Nat) (rd wr : BitVec 4) (b : Block) : Block :=
  let m := getMcs b n
  if !m.present || !(getInst b m.inst).released then b
  else
    let p := getPort b n
    let (r, o1) := addCredits p.rdCrd rd
    let (w, o2) := addCredits p.wrCrd wr
    let b := updPort n (fun p => { p with rdCrd := r, wrCrd := w }) b
    if o1 || o2 then portError { inst := m.inst } 8 b else b

/-- DEFERRED_VERIFY_END (R34, R109, R128, R236): the read retires; a failure poisons the line still held, or raises a
notice for the line delivered. Every failing check is counted. -/
def effDeferredVerifyEnd (n : Nat) (id : BitVec 10) (hw : HwFault) (b : Block) : Block :=
  match (getPort b n).reads.find? (fun r => r.rq.id == id && r.verify && r.needs.isEmpty) with
  | none => b
  | some rd =>
    let dual := rd.lateDual || (rd.dual && hw == .dualMac)
    let all := if dual then Status.sorrelFail :: rd.late else rd.late
    if all.isEmpty then
      if rd.delivered then updPort n (fun p => { p with reads := p.reads.filter (fun r => r.seq != rd.seq) }) b
      else updPort n (mapRd rd.seq (fun r => { r with verify := false })) b
    else
      let b := verifyFails n rd (statusWorst all) b
      memFailures n rd.rq rd.late (if dual then memDual n rd.rq b else b)

/-- MN_RDATA_TRANSFER (R32, R34): the line ready earliest transfers; a read with no verification open retires. -/
def effMnRdataTransfer (n : Nat) (b : Block) : Block :=
  match (getPort b n).rdata with
  | [] => b
  | (seq, out) :: rest =>
    updPort n (fun p => { p with
      rdata := rest, lastRd := some out,
      reads := (p.reads.filter (fun r => !(r.seq == seq && !r.verify))).map (fun r => if r.seq = seq then { r with delivered := true } else r) }) b

/-- MN_PNT_TRANSFER (R34): the notice is accepted, and an owed one takes its place. -/
def effMnPntTransfer (n : Nat) (b : Block) : Block :=
  match (getPort b n).pnt with
  | [] => b
  | x :: rest => updPort n (fun p => fillNotices { p with pnt := rest, lastPnt := some x }) b

/-- MN_WACK_TRANSFER (R32). -/
def effMnWackTransfer (n : Nat) (b : Block) : Block :=
  match (getPort b n).wack with
  | [] => b
  | x :: rest => updPort n (fun p => { p with wack := rest, lastWk := some x }) b

/-- WALK_FETCH_START (R116): the oldest waiting fetch of a class takes a slot; room in the wait queue lets a request that found it
full begin. -/
def effWalkFetchStart (n cls : Nat) (b : Block) : Block :=
  if slotFree (engMcs b n) (fetchesOf b n) cls then
    match (getPort b n).fetch.find? (fun f => f.cls == cls && f.phase == .waiting) with
    | some f =>
      progress n (count (whoMcs b n f.tag) (evMcs 12) (updPort n (fun p => { p with
        fetch := updateWhere (fun x => x.item == f.item) (fun x => { x with phase := .slot }) p.fetch }) b))
    | none => b
  else b

/-- METADATA_EVICTION (R111, R115, R238): a clean item is dropped; a modified one goes to its write-back. A first Dual mismatch of
its tree MAC is counted and the MAC computed again; a second is an uncorrectable error on a modified item (Table 8.5). -/
def effMetadataEviction (n : Nat) (i : Item) (hw : HwFault) (b : Block) : Block :=
  match cachedItem b i with
  | none => b
  | some c =>
    let rq := ownReq (getRgn b i.region) 0
    let dual := c.dirty && (engMcs b n).dual && (hw == .dualMac || hw == .dualTree2)
    let b := if dual then memDual n rq b else b
    if (hw = .cacheModified ∧ c.dirty = true) ∨ (dual = true ∧ hw = .dualTree2) then
      sliceFault (engOf b n) false (if dual then memDual n rq b else b)
    else if hw = .cacheClean ∧ c.dirty = false then sramClean n i b
    else progress i.share (evictItem c b)

/-- Try the requests that wait for a key, oldest first, until one proceeds. -/
def releaseFirst (n : Nat) : List Nat → Block → Block
  | [], b => b
  | s :: rest, b =>
    let b' := progress n (updPort n (fun p => mapHaz s (fun h => { h with hold := .none }) (mapRd s (fun r => { r with hold := .none }) p)) b)
    let p := getPort b' n
    if p.reads.any (fun r => r.seq == s && r.hold == .key) || p.haz.any (fun h => h.seq == s && h.hold == .key)
    then releaseFirst n rest b else b'

/-- KEY_WAIT_RELEASE (R257, R258). -/
def effKeyWaitRelease (n : Nat) (b : Block) : Block :=
  let p := getPort b n
  let l := (p.reads.filter (fun r => r.hold == .key)).map (·.seq) ++ (p.haz.filter (fun h => h.hold == .key)).map (·.seq)
  releaseFirst n (l.mergeSort (fun a c => decide (a ≤ c))) b

/-- PAGE_REENCRYPTION_END (R91): the oldest page whose lines and counter block have reached memory is released, and the accesses
held for it go on. -/
def effPageReencryptionEnd (n : Nat) (b : Block) : Block :=
  match takeFirst (fun (w : PageWork) => !w.sweep && w.stage == .done) (getPort b n).pages with
  | some (_, rest) => progress n (updPort n (fun p => { p with pages := rest }) b)
  | none => b

/-! Pairs (R121, R122). -/

/-- A pair command is refused in the slice's own status; a HANDBACK of an MCS that carries nothing, or while BUSY, too (log 102). -/
def pairRefuse (k : Nat) (b : Block) : Block := updMcs k (fun m => { m with lastSts := .badConfig }) b

/-- R121: start carrying the partner. -/
def startTakeover (k : Nat) (b : Block) : Block :=
  let k' := partner k
  if (getMcs b k).busy || (getMcs b k').busy || (getMcs b k).state != .inService || (getMcs b k').state != .inService
      || !(getMcs b k').present then pairRefuse k b
  else
    let b := updMcs k' (fun m => { m with busy := true }) (updMcs k (fun m => { m with busy := true }) b)
    progress k' (updPort k' (fun p => { p with drain := true }) b)

/-- A port with nothing outstanding and everything of its share written back. -/
def portClean (b : Block) (n : Nat) : Bool :=
  let p := getPort b n
  p.reads.isEmpty && p.haz.isEmpty && p.back.isEmpty && p.pages.isEmpty && p.posted.isEmpty && !(shareItems b n).any (fun c => c.dirty)

/-- A port whose group has drained and been written back (Table 4.2). -/
def drained (b : Block) (n : Nat) : Bool := (getPort b n).drain && portClean b n

/-- PAIR_TAKEOVER (R121). -/
def effPairTakeover (z : ZReq) (k : Nat) (b : Block) : Block := zcpDo z true (.mcs k) (startTakeover k) b

/-- PAIR_TAKEOVER_DONE (R121, Table 4.2 step 5); it ends an online test's take-out as well (R364). -/
def effPairTakeoverDone (k : Nat) (b : Block) : Block :=
  let k' := partner k
  if (getMcs b k).busy && (getMcs b k').busy && (getMcs b k).state == .inService && (getMcs b k').state == .inService
      && drained b k' then
    let b := updMcs k (fun m => { m with state := .carrying, busy := false, lastSts := .ok }) b
    let b := updMcs k' (fun m => { m with state := .carried, busy := false }) b
    let b := updPort k' (fun p => { p with drain := false, cache := [], nodes := [] }) b
    let b := raise (getMcs b k).inst 10 b
    updUnits (getMcs b k).inst (fun u =>
      if u.olt.busy && u.olt.kind == 0 && u.olt.unit == k' then { u with olt := { u.olt with busy := false, status := .ok } } else u) b
  else b

/-- R122: drain the partner's group and test the partner; BASIL_TEST_END ends it. -/
def startHandback (k : Nat) (b : Block) : Block :=
  let k' := partner k
  if (getMcs b k).busy || (getMcs b k').busy || (getMcs b k).state != .carrying then pairRefuse k b
  else
    let b := updMcs k' (fun m => { m with busy := true }) (updMcs k (fun m => { m with busy := true }) b)
    progress k' (updPort k' (fun p => { p with drain := true }) b)

/-- PAIR_HANDBACK (R122). -/
def effPairHandback (z : ZReq) (k : Nat) (b : Block) : Block := zcpDo z true (.mcs k) (startHandback k) b

/-- MCS_FAULT_TAKEOVER (R123). -/
def effMcsFaultTakeover (n : Nat) (sramOk : Bool) (b : Block) : Block :=
  if (getMcs b n).present then sliceFault n sramOk b else b

/-! Slice registers. -/

/-- MCS_DUAL_WRITE (R236, R116, R144, R157): a write of MCS_CTRL or LCS_CTRL. LOCK stays set once set; a PAIR_OP in the
same word acts too. -/
def effMcsDualWrite (z : ZReq) (isLcs : Bool) (n : Nat) (w : Word) (b : Block) : Block :=
  if isLcs then
    let set := fun (l : Lcs) =>
      { l with dual := fieldBit w 0, z2 := fieldBit w 1, retrainMs := max 1 (fieldNat w 15 8), holdoff := fieldNat w 23 16 }
    zcpDo z true (.lcs n) (fun b => judgeMode n (updLcs n set b)) b
  else
    zcpDo z true (.mcs n) (fun b =>
      let b := updMcs n (fun m => { m with dual := fieldBit w 0, vbuAll := fieldBit w 1, lock := m.lock || fieldBit w 4 }) b
      if fieldNat w 3 2 = 1 then startTakeover n b else if fieldNat w 3 2 = 2 then startHandback n b else b) b

/-- MCS_WALK_WRITE (R117). -/
def effMcsWalkWrite (z : ZReq) (n c : Nat) (w : Word) (b : Block) : Block :=
  zcpDo z true (.mcs n) (fun b =>
    let walk := (getMcs b n).walk.set c (fieldNat w 5 0, fieldNat w 14 8)
    if 8 ≤ c ∨ 64 < (walk.map (·.1)).foldl (· + ·) 0 ∨ fieldNat w 14 8 < fieldNat w 5 0 ∨ 64 < fieldNat w 14 8
    then zcpRefuse z .badConfig b
    else updMcs n (fun m => { m with walk := walk }) b) b

/-! Tree Roof (R113, R115). -/

/-- The region, share and node of a Tree Roof node. -/
def roofItem (b : Block) (node : Nat) : Option Item :=
  match b.rgn.table.find? (fun e => e.2.mode == .rw && e.2.state != .free && decide (e.2.roofBase ≤ node ∧ node < e.2.roofBase + e.2.roofNodes)) with
  | none => none
  | some (k, r) =>
    match (shares b r).reverse.find? (fun n => decide (roofNode b r n 0 ≤ node)) with
    | some n => some { region := k, share := n, level := r.roofLevel, index := node - roofNode b r n 0 }
    | none => none

/-- ROOF_SLOT_READ_REPLY (R113): the node enters the tree-node cache; a broken seal fails what was fetched under it
(Table 4.4). -/
def effRoofSlotReadReply (n node : Nat) (sealOk : Bool) (b : Block) : Block :=
  if (getPort b n).roofAsk.contains node then
    match roofItem b node with
    | none => updPort n (fun p => { p with roofAsk := p.roofAsk.filter (· != node) }) b
    | some i =>
      if sealOk then
        progress n (fillItem i (getRgn b i.region).tag (Sparse.get 0 b.rgn.roof node) false
          (updPort n (fun p => { p with roofAsk := p.roofAsk.filter (· != node) }) b))
      else progress n (failItem i .tagFail false (sealFail (getMcs b n).inst b))
  else b

/-- Store a tree MAC in a roof node's slot, in the Tree Roof and in cached copies of the node. -/
def writeRoof (i : Item) (slot : Nat) (mac : Word) (b : Block) : Block :=
  let node := roofNode b (getRgn b i.region) i.share i.index
  let b := { b with rgn := { b.rgn with roof := Sparse.upd 0 b.rgn.roof node (fun d => setWord d slot mac) } }
  mapCached i (fun c => { c with data := setWord c.data slot mac }) b

/-- The tree MAC that a write-back has sent to the PP for its roof slot. -/
def roofMac (x : BackItem) : Option Word :=
  match x.phase with
  | .roofAsked m => some m
  | _ => none

/-- The mutation of ROOF_SLOT_WRITE: the oldest write-back of a share that waits on this roof node's slot. -/
def bodyRoofSlotWrite (n node slot : Nat) (b : Block) : Block :=
  match (getPort b n).back.find? (fun x => (roofMac x).isSome && x.item.index % 16 == slot
      && roofNode b (getRgn b x.item.region) x.item.share (x.item.index / 16) == node) with
  | none => b
  | some x => progress n (setBack x.item .ready (writeRoof (parentItem x.item) slot ((roofMac x).getD 0) b))

/-- ROOF_SLOT_WRITE (R115, R355). -/
def effRoofSlotWrite (n node slot : Nat) (b : Block) : Block :=
  mutate (.roofSlotWrite n node slot) (bodyRoofSlotWrite n node slot) b

/-- COVERAGE_COUNTER_WRITE (R234): COUNT takes the written value. -/
def effCoverageCounterWrite (z : ZReq) (isLcs : Bool) (n k : Nat) (w : Word) (b : Block) : Block :=
  if isLcs then zcpDo z true (.lcs n) (updLcs n (fun l => { l with cov := listMod l.cov k (fun _ => fieldNat w 47 0) })) b
  else zcpDo z true (.mcs n) (updMcs n (fun m => { m with cov := listMod m.cov k (fun _ => fieldNat w 47 0) })) b

end Sys2Proof.Machine
end

