-- ==== Sys2Proof/Machine/Regions.lean ====
section
/-! DEFINITION. Region commands and their sweeps (R73 to R77, R97, R101 to R103, R124 to R126). -/

namespace Sys2Proof.Machine

/-! The staged entry and the checks of Table 3.2. -/

/-- The fields "from staging" of an entry word (R73). -/
def stagedRgn (s : BitVec 512) : Rgn :=
  { mode := match fieldNat s 5 4 with | 0 => .plain | 1 => .xts | 2 => .ro | _ => .rw,
    vbu := fieldBit s 6, spol := fieldNat s 9 8, wclass := fieldNat s 12 10, tri := fieldNat s 27 16,
    owner := BitVec.ofNat 16 (fieldNat s 47 32), tag := BitVec.ofNat 6 (fieldNat s 53 48),
    base := fieldNat s 94 64, size := fieldNat s 118 96, version := fieldNat s 183 128, key := fieldNat s 204 192,
    roofLevel := fieldNat s 274 272, digest := BitVec.ofNat 64 (fieldNat s 447 384) }

/-- The entry as its register shows it (R73). -/
def rgnWord (r : Rgn) : BitVec 512 :=
  BitVec.ofNat 512 ((r.state != .free).toNat + (stateNum r.state <<< 1) + (modeNum r.mode <<< 4) + (r.vbu.toNat <<< 6)
    + (r.spol <<< 8) + (r.wclass <<< 10) + (r.tri <<< 16) + (r.owner.toNat <<< 32) + (r.tag.toNat <<< 48)
    + (r.fail <<< 56) + (r.base <<< 64) + (r.size <<< 96) + (r.version <<< 128) + (r.key <<< 192) + (r.prevKey <<< 208)
    + (r.keyGen <<< 224) + (r.prevGen <<< 232) + (r.roofBase <<< 256) + (r.roofLevel <<< 272) + (r.roofNodes <<< 276)
    + (r.metaOff <<< 320) + (r.digest.toNat <<< 384))

/-- The staged entry of a source; a queue's context and tag are forced (R320). -/
def stageOf (b : Block) (src : Src) : Rgn :=
  let q := reqOf b src
  match src with
  | .reg _ _ => stagedRgn b.rgn.stage
  | s =>
    let r := match srcCmd b s with
      | some c => stagedRgn (BitVec.ofNat 512 (leNat ((c.bytes.drop 48).take 64)))
      | none => {}
    if q.kernel then r else { r with owner := q.ctx, tag := q.tag }

/-- Type of key a mode needs (Table 9.2). -/
def modeKeyType : Mode → Nat
  | .plain => 0 | .xts => 8 | .ro => 6 | .rw => 7

/-- Checks of a key entry for a region (Table 3.2, R74). -/
def keyChecks (b : Block) (m : Mode) (owner : Ctx) (k : Nat) : List Status :=
  if m = .plain then []
  else
    let e := getKey b k
    (if e.state != .free && !keyUsable e then [.keyOrphaned] else [])
    ++ (if e.state == .free || e.type != modeKeyType m || !fieldBit e.usage 4 then [.badConfig] else [])
    ++ (if e.sys || e.owner != owner then [.notOwner] else [])
    ++ (if m = .rw ∧ e.rwUsed then [.badConfig] else [])

/-- Regions, and the object store and journal with them, that hold a range of host space (R75, R313, R360). -/
def heldRanges (b : Block) : List (Nat × Nat) :=
  (b.rgn.table.filter (fun e => e.2.state != .free)).map (fun e => (e.2.base, e.2.size))
    ++ (if b.cm.storeLock then [(b.cm.storeBase, 32)] else []) ++ (if b.jnl.lock then [(b.jnl.base, 2)] else [])

/-- Everything that holds Tree Roof nodes and carve-out lines. -/
def treeHolders (b : Block) : List Rgn :=
  (b.rgn.table.filter (fun e => e.2.state != .free && e.2.mode == .rw)).map (·.2)
    ++ (if b.cm.storeLock then [b.cm.storeRgn] else []) ++ (if b.jnl.lock then [b.jnl.rgn] else [])

/-- Lowest start at or above 0 of a free run of `len` below `cap`: 0 or the end of a run in use. That CREATE takes the lowest run
of Tree Roof nodes and the lowest META_OFF is the model's choice: R75 and R97 name none (log 103, DESIGN CHOICE). -/
def firstRun (used : List (Nat × Nat)) (len cap : Nat) : Option Nat :=
  let free := fun (a : Nat) => decide (a + len ≤ cap) && used.all (fun u => decide (a + len ≤ u.1 ∨ u.1 + u.2 ≤ a))
  ((0 :: used.map (fun u => u.1 + u.2)).mergeSort (fun x y => decide (x ≤ y))).find? free

/-- max(M_n) of a region (R96). -/
def metaNeed (b : Block) (r : Rgn) : Nat :=
  ((shares b r).map (fun n => metaLines (shareSize b r n) r.roofLevel)).foldl max 0

/-- Roof level: the staged one, or the lowest of 1 to 6 for which at most 4,096 nodes are needed (R97). -/
def chooseLevel (b : Block) (r : Rgn) : Option Nat :=
  if r.roofLevel = 0 then lowestFrom (fun k => decide (roofNeed b r k ≤ 4096)) 6 1
  else if r.roofLevel = 7 then none else some r.roofLevel

/-- Roof base and metadata offset for an RW-AUTH region at its level (R75, R96, R97). -/
def placeTree (b : Block) (r : Rgn) : Option (Nat × Nat) :=
  let held := treeHolders b
  let roof := firstRun (held.map (fun x => (x.roofBase, x.roofNodes))) (roofNeed b r r.roofLevel) 65536
  let mine := shares b r
  let lines := metaNeed b r
  let cap := (mine.map (fun n => (groupOf b n).carveLen)).foldl min (2 ^ 40)
  let used := (held.filter (fun x => (shares b x).any mine.contains)).map (fun x => (x.metaOff, metaNeed b x))
  match roof, firstRun used lines cap with
  | some a, some o => some (a, o)
  | _, _ => none

/-- Every line of the range is served by an MCS of the package (R75). -/
def allServed (b : Block) (r : Rgn) : Bool :=
  ((List.range 32).map (fun n => if (getMcs b n).present then shareSize b r n else 0)).foldl (· + ·) 0 == r.size * unitPages

/-- A group of the range has no sideband storage (R39). -/
def noSideband (b : Block) (r : Rgn) : Bool := (shares b r).any (fun n => !(groupOf b n).sideband)

/-- Table 3.2 for CREATE and ADOPT, with the tree's place where it needs one. -/
def createChecks (b : Block) (r : Rgn) (adopt : Bool) : List Status × Option (Nat × Nat × Nat) :=
  let auth := r.mode == .ro || r.mode == .rw
  let shape := decide (r.spol = 3) || (r.spol == 2 && auth) || decide (r.size = 0 ∨ 0x400000 < r.size)
    || decide (2 ^ 31 < r.base + r.size) || decide (r.roofLevel = 7) || (adopt && r.mode != .ro)
  let overlap := (heldRanges b).any (fun u => decide (r.base < u.1 + u.2 ∧ u.1 < r.base + r.size))
  let place := shape || overlap || !allServed b r || (auth && noSideband b r)
  let full := (lowestFrom (fun k => (getRgn b k).state == .free) 4096 0).isNone
  let loading := r.mode == .ro
    && decide (16 ≤ (b.rgn.table.filter (fun e => e.2.state == .loading || e.2.state == .checking)).length)
  let level := if r.mode = .rw then chooseLevel b r else some 0
  let tree := match level with
    | some l => if r.mode = .rw then (placeTree b { r with roofLevel := l }).map (fun t => (l, t.1, t.2)) else some (0, 0, 0)
    | none => none
  ((if place then [.badConfig] else []) ++ (if full || loading then [.quota] else [])
     ++ keyChecks b r.mode r.owner r.key
     ++ (if r.mode = .rw ∧ place = false then
           (if level = none then [.badConfig] else if tree = none then [.quota] else []) else []), tree)

/-- Push a region's keys to every other instance that holds an MCS serving it (R256). -/
def pushRegionKey (r : Rgn) (k : Nat) (b : Block) : Block :=
  if r.mode = .plain then b
  else
    let insts := ((shares b r).map (fun n => (getMcs b n).inst)).eraseDups.filter (fun i => !isPrimary b i)
    insts.foldl (fun b i => pushKey i k b) b

/-- Clear the roof nodes of a region (R76). -/
def clearRoof (base n : Nat) (b : Block) : Block :=
  { b with rgn := { b.rgn with roof := Sparse.keep b.rgn.roof (fun k _ => decide (k < base ∨ base + n ≤ k)) } }

/-- A new region entry (R75, R76, R103), with its place for metadata and roof. -/
def makeRgn (adopt : Bool) (r : Rgn) (tree : Option (Nat × Nat × Nat)) (i : Nat) (b : Block) : Block :=
  let (level, roof, off) := tree.getD (0, 0, 0)
  let st := if r.mode ≠ Mode.ro then RgnState.active else if adopt then .checking else .loading
  let r := { r with state := st, tri := if r.mode = Mode.ro then r.tri else i, fail := 0, keyGen := 0, prevGen := 0,
                    prevKey := 0, roofLevel := level, roofBase := roof, metaOff := off, roofNodes := 0 }
  let r := { r with roofNodes := if r.mode = Mode.rw then roofNeed b r level else 0 }
  let b := setRgn i r b
  let b := if r.mode = .plain then b
           else pushRegionKey r r.key (updKey r.key (fun e => { e with pins := e.pins + 1, rwUsed := e.rwUsed || r.mode == .rw }) b)
  let b := if r.mode = .rw then clearRoof r.roofBase r.roofNodes b else b
  newRef tyRgn i (regionState i st b)

/-- CREATE and ADOPT (R75, R76, R103). One that fails leaves RGN_STS.INDEX as the command before left it, for the spec names no
index of an entry that was not made (log 104, DESIGN CHOICE). -/
def bodyCreate (adopt : Bool) (src : Src) (b : Block) : Block :=
  let q := reqOf b src
  let r := stageOf b src
  let (bad, tree) := createChecks b r adopt
  let bad := bad ++ (if q.kernel && kClosed b r.tag then [.notOwner] else [])
  match bad, lowestFrom (fun k => (getRgn b k).state == .free) 4096 0 with
  | [], some i =>
    let b := makeRgn adopt r tree i b
    cmdDone .rgn src .ok (handleOf b tyRgn i) i b
  | l, _ => cmdDone .rgn src (statusWorst l) 0 (engSts b .rgn).index b

/-- Index named by a region command. -/
def rgnIndex (b : Block) (src : Src) : Nat := fieldNat (srcWord b src) 15 4

/-- A region command on an entry: rights and state are judged, then `f` acts. -/
def onRegion (src : Src) (states : List RgnState) (more : Rgn → List Status) (f : Nat → Rgn → Block → Block) (b : Block) : Block :=
  let i := rgnIndex b src
  let r := getRgn b i
  let bad := (if states.contains r.state then [] else [Status.badConfig])
    ++ (if r.state != .free && !mayAct b (reqOf b src) r.owner r.tag then [Status.notOwner] else [])
    ++ (if states.contains r.state then more r else [])
  if bad.isEmpty then f i r b else cmdDone .rgn src (statusWorst bad) 0 i b

/-- FINISH_LOAD (R101, R102). -/
def bodyFinishLoad (src : Src) (b : Block) : Block :=
  onRegion src [.loading] (fun _ => []) (fun i _ b => cmdDone .rgn src .ok 0 i (regionState i .checking b)) b

/-- UPDATE (R74): VBU and WCLASS from staging. -/
def bodyUpdate (src : Src) (b : Block) : Block :=
  onRegion src [.loading, .checking, .active, .rekey] (fun _ => []) (fun i r b =>
    let s := stageOf b src
    cmdDone .rgn src .ok 0 i (setRgn i { r with vbu := s.vbu, wclass := s.wclass } b)) b

/-- Start RETIRE of a region (R77, R126): new accesses find no region, its sweeps stop where their pointers stand. A sweep step whose
lines are going out is finished. -/
def startRetire (i : Nat) (src : Option Src) (b : Block) : Block :=
  let b := regionState i .retiring b
  let stop := fun (_ : Nat) (m : Mcs) => { m with sweeps := updateWhere (fun s => s.region == i) (fun s => { s with stopped := true }) m.sweeps }
  let cut := fun (_ : Nat) (p : MPort) =>
    { p with pages := p.pages.filter (fun w => !(w.sweep && w.region == i && (w.stage == .begin || w.stage == .reading))) }
  let b := { b with mcs := Sparse.mapAll {} b.mcs stop, mport := Sparse.mapAll {} b.mport cut,
                    rgn := { b.rgn with retireSrc := b.rgn.retireSrc ++ [(i, src)] } }
  dyingRef tyRgn i (endSpill i b)

/-- RETIRE (R77, R315); the outcome is recorded when the region's accesses have completed. RETIRE of an entry that is already
RETIRING ends with BAD_CONFIG, as that of a FREE one does: the spec gives it no status (log 105, DESIGN CHOICE). -/
def bodyRetire (src : Src) (b : Block) : Block :=
  onRegion src [.loading, .checking, .active, .rekey, .failed] (fun _ => []) (fun i _ b => startRetire i (some src) b) b

/-- REKEY (R74, R124, R125): the sweep starts on every MCS of the region. -/
def bodyRekey (src : Src) (b : Block) : Block :=
  let k := (stageOf b src).key
  onRegion src [.active] (fun r =>
      if r.mode = .xts ∨ r.mode = .rw then
        keyChecks b r.mode r.owner k ++ (if k = r.key then [.badConfig] else [])
      else [.badConfig]) (fun i r b =>
    let r := { r with prevKey := r.key, prevGen := r.keyGen, key := k, keyGen := (r.keyGen + 1) % 256 }
    let b := setRgn i r b
    let b := pushRegionKey r k (updKey k (fun e => { e with pins := e.pins + 1, rwUsed := e.rwUsed || r.mode == .rw }) b)
    let b := (shares b r).foldl (fun b n =>
      updMcs n (fun m => { m with sweeps := m.sweeps ++ [{ region := i, ptr := 0, done := false, stopped := false }] }) b) b
    cmdDone .rgn src .ok 0 i (regionState i .rekey b)) b

def effCreate (src : Src) (b : Block) : Block := runCmd (.create src) .rgn src 0x50 1 (bodyCreate false src) b
def effFinishLoad (src : Src) (b : Block) : Block := runCmd (.finishLoad src) .rgn src 0x50 2 (bodyFinishLoad src) b
def effAdopt (src : Src) (b : Block) : Block := runCmd (.adopt src) .rgn src 0x50 3 (bodyCreate true src) b
def effRetire (src : Src) (b : Block) : Block := runCmd (.retire src) .rgn src 0x50 4 (bodyRetire src) b
def effRekey (src : Src) (b : Block) : Block := runCmd (.rekey src) .rgn src 0x50 5 (bodyRekey src) b
def effUpdate (src : Src) (b : Block) : Block := runCmd (.update src) .rgn src 0x50 6 (bodyUpdate src) b

/-! RETIRE_COMPLETE (R77). -/

/-- No access accepted under a region's entry is open. -/
def regionIdle (b : Block) (i : Nat) : Bool :=
  b.mport.all (fun e => !e.2.reads.any (fun r => r.ridx == i) && !e.2.haz.any (fun h => h.ridx == i)
    && !e.2.back.any (fun x => x.item.region == i && x.phase == .onMs) && !e.2.pages.any (fun w => w.region == i && w.stage != .done))

/-- Drop every cached item, fetch, write-back and sweep of a region in every MCS. -/
def dropRegionItems (i : Nat) (b : Block) : Block :=
  { b with mcs := Sparse.mapAll {} b.mcs (fun _ m => { m with sweeps := m.sweeps.filter (fun s => s.region != i) })
           mport := Sparse.mapAll {} b.mport (fun _ p => { p with
      pages := p.pages.filter (fun w => w.region != i),
      cache := p.cache.filter (fun c => c.item.region != i), nodes := p.nodes.filter (fun c => c.item.region != i),
      fetch := p.fetch.filter (fun f => f.item.region != i), back := p.back.filter (fun x => x.item.region != i),
      roofAsk := p.roofAsk.filter (fun k => !(decide ((getRgn b i).roofBase ≤ k ∧ k < (getRgn b i).roofBase + (getRgn b i).roofNodes))) }) }

/-- The mutation of RETIRE_COMPLETE. -/
def bodyRetireComplete (i : Nat) (b : Block) : Block :=
  let r := getRgn b i
  let src := (b.rgn.retireSrc.find? (fun e => e.1 == i)).bind (·.2)
  let b := dropRegionItems i b
  let b := if r.mode = .plain then b else unpin r.key b
  let both := r.prevGen != r.keyGen && r.prevKey != 0
  let b := if both then unpin r.prevKey b else b
  let b := if r.mode = .rw then invalidateKey r.key b else b
  let b := if r.mode = .rw ∧ both then invalidateKey r.prevKey b else b
  let b := freeRef tyRgn i (regionState i .free b)
  let b := setRgn i {} { b with rgn := { b.rgn with retireSrc := b.rgn.retireSrc.filter (fun e => e.1 != i) } }
  match src with
  | some s => cmdDone .rgn s .ok 0 i b
  | none => b

/-- RETIRE_COMPLETE (R77). -/
def effRetireComplete (i : Nat) (b : Block) : Block :=
  if (getRgn b i).state = .retiring ∧ regionIdle b i then mutate (.retireComplete i) (bodyRetireComplete i) b else b

/-! Re-key sweep (R124 to R126). -/

/-- Host page of an XTS sweep's group page rank: the least group page with more than `k` pages up to it. -/
def groupPageAt (b : Block) (r : Rgn) (n k : Nat) : Option (Nat × Nat) :=
  let cands := b.rgn.map.filterMap (fun (m : MapEntry) =>
    if m.f ≤ n ∧ n < m.f + m.w then
      let i0 := residueCount m.w (n - m.f) (max (r.base * unitPages) m.base - m.base)
      let i1 := residueCount m.w (n - m.f) (min ((r.base + r.size) * unitPages) (m.base + m.pages) - m.base)
      let before := groupRank b r n (m.b + i0)
      if before ≤ k ∧ k < before + (i1 - i0) then
        some (m.base + (i0 + (k - before)) * m.w + (n - m.f), m.b + i0 + (k - before))
      else none
    else none)
  cands.head?

/-- Steps of a region's sweep on a share: pages of RW-AUTH, lines of XTS. -/
def sweepSize (b : Block) (r : Rgn) (n : Nat) : Nat := if r.mode = .rw then shareSize b r n else 64 * shareSize b r n

/-- The sweep that an MCS works on (R124): the first accepted one that is neither ended nor stopped and whose region is in REKEY. -/
def currentSweep (b : Block) (n : Nat) : Option Sweep :=
  (getMcs b n).sweeps.find? (fun s => !s.done && !s.stopped && (getRgn b s.region).state == .rekey)

/-- The job of a sweep's next step: a page of an RW-AUTH share, or a line of an XTS region (R124, R126). -/
def sweepJob (b : Block) (n : Nat) (s : Sweep) : Option PageWork :=
  let r := getRgn b s.region
  let it : Item := { region := s.region, share := n, level := 0, index := s.ptr }
  let w : PageWork := { region := s.region, rgn := r, page := 0, seq := (getPort b n).seq, sweep := true, item := it,
                        genOld := r.prevGen, genNew := r.keyGen, dual := (engMcs b n).dual }
  if r.mode = .rw then some { w with page := sharePage b r n s.ptr }
  else (groupPageAt b r n (s.ptr / 64)).map (fun e => { w with page := e.1, one := some (e.1 * 64 + s.ptr % 64) })

/-- Move the sweep of a region on an MCS. -/
def setSweep (n i : Nat) (f : Sweep → Sweep) (b : Block) : Block :=
  updMcs n (fun m => { m with sweeps := updateWhere (fun s => s.region == i) f m.sweeps }) b

/-- The next step of an MCS's sweep begins, where its port takes new work. -/
def beginSweepStep (n : Nat) (s : Sweep) (b : Block) : Block :=
  let p := getPort b n
  if p.drain || p.soft || (getMcs b n).state == .down then b
  else
    match sweepJob b n s with
    | some w => progress n (updPort n (fun p => { p with pages := p.pages ++ [w], seq := p.seq + 1 }) b)
    | none => setSweep n s.region (fun s => { s with done := true }) b

/-- A step that has ended: the pointer passes its page or line, and the accesses held for it go on (R126). -/
def endSweepStep (n : Nat) (w : PageWork) (b : Block) : Block :=
  let size := sweepSize b w.rgn n
  let b := setSweep n w.region (fun s => { s with ptr := s.ptr + 1, done := decide (size ≤ s.ptr + 1) }) b
  progress n (updPort n (fun p => { p with pages := p.pages.filter (fun x => !x.sweep) }) b)

/-- REKEY_SWEEP_STEP (R124, R126): the step under way ends once its lines, its counter block and the tree behind it are written; with
none under way the next one begins. -/
def effRekeySweepStep (n : Nat) (b : Block) : Block :=
  match (getPort b n).pages.find? (fun w => w.sweep) with
  | some w => if w.stage = .done then endSweepStep n w b else progress n b
  | none =>
    match currentSweep b n with
    | some s => beginSweepStep n s b
    | none => b

/-- The mutation of REKEY_SWEEP_END. -/
def bodyRekeySweepEnd (i : Nat) (b : Block) : Block :=
  let r := getRgn b i
  let b := { b with mcs := Sparse.mapAll {} b.mcs (fun _ m => { m with sweeps := m.sweeps.filter (fun s => s.region != i) }) }
  let b := invalidateKey r.prevKey (unpin r.prevKey b)
  let b := setRgn i { r with prevKey := 0, prevGen := 0 } b
  raisePrimary 2 (regionState i .active b)

/-- REKEY_SWEEP_END (R124): every MCS has finished. -/
def effRekeySweepEnd (i : Nat) (b : Block) : Block :=
  if (getRgn b i).state = .rekey ∧ b.mcs.all (fun e => e.2.sweeps.all (fun s => s.region != i || s.done))
  then mutate (.rekeySweepEnd i) (bodyRekeySweepEnd i) b else b

/-! Check sweep (R102). -/

/-- The answer for a region line; a line with no answer is an uncorrectable error of its controller. -/
def ansFor (ans : List MemAns) (o : Nat) : MemAns :=
  (ans.find? (fun a => a.line == o)).getD { line := o, data := 0, sb := 0, poison := true }

/-- One line of the check sweep: the statuses found so far, each with its line, and the digest. -/
def checkSweepLine (r : Rgn) (key : WorkKeys) (ans : List MemAns) (acc : List (Nat × Status) × Word) (o : Nat) : List (Nat × Status) × Word :=
  let a := ansFor ans o
  let host := r.base * unitLines + o
  let c : Counters := { major := 0, minor := 0 }
  let chk := checkLine r key [r.keyGen] o host c a.data (some a.sb) a.poison
  ((chk.early ++ chk.late).map (fun st => (host, st)) ++ acc.1,
   if a.poison then acc.2 else acc.2 ^^^ lineMac key.mac (tupleOf r o c) a.data)

/-- The failures of the check sweep, each counted at the slice that read its line (R128, R231). -/
def sweepFailures (r : Rgn) (l : List (Nat × Status)) (b : Block) : Block :=
  l.foldl (fun b e =>
    match mapLine b e.1 with
    | some (n, _) => memFailure n (ownReq r e.1) e.2 b
    | none => b) b

/-- What the slices of a region find for its key (R11, R72). -/
def regionKeys (b : Block) (r : Rgn) : List KeyAns := (shares b r).map (fun n => keyAt b (getMcs b n).inst r.key)

/-- Why a region's key cannot be used, where it is gone. -/
def keyGone (l : List KeyAns) : Option Status :=
  l.findSome? (fun a => match a with
    | .gone st => some st
    | _ => none)

/-- The mutation of CHECK_SWEEP_END. -/
def bodyCheckSweepEnd (i : Nat) (ans : List MemAns) (b : Block) : Block :=
  let r := getRgn b i
  let (found, dig) :=
    match keyGone (regionKeys b r) with
    | some st => ([(r.base * unitLines, st)], 0)
    | none =>
      if ans.isEmpty then ([(r.base * unitLines, Status.poison)], 0)
      else (List.range (r.size * unitLines)).foldl (checkSweepLine r (workKeys (getKey b r.key).key) ans) ([], 0)
  let b := sweepFailures r found b
  let b := if found.isEmpty && dig == r.digest then regionState i .active b
           else failRegion i (if found.isEmpty then .tagFail else statusWorst (found.map (·.2))) b
  raisePrimary 2 b

/-- CHECK_SWEEP_END (R102): the sweep ends only once every slice of the region has had its key (R257). -/
def effCheckSweepEnd (i : Nat) (ans : List MemAns) (b : Block) : Block :=
  let r := getRgn b i
  if r.state = .checking then
    if (regionKeys b r).contains .wait then
      (shares b r).foldl (fun b n => if keyAt b (getMcs b n).inst r.key = .wait then askFill (getMcs b n).inst r.key b else b) b
    else mutate (.checkSweepEnd i ans) (bodyCheckSweepEnd i ans) b
  else b

end Sys2Proof.Machine
end

