-- ==== Sys2Proof/Machine/Context.lean ====
section
/-! DEFINITION. Objects of the Context Manager (R312 to R317, R320, R322 to R326): contexts, queues and fences made and
torn down, references, the kernel command port, the object store and the journal range. -/

namespace Sys2Proof.Machine

/-- A command of no engine register ends. -/
def doneCmd (src : Src) (st : Status) (result : Word) (b : Block) : Block := cmdDone .none src st result 0 b

/-! Rights (R302, R323). -/

/-- Contexts that own an object; a context owns itself, and the context that defined it owns it. -/
def ownersOf (b : Block) (ty idx : Nat) : List Ctx :=
  match ty with
  | 1 => BitVec.ofNat 16 idx :: (getCtx b idx).by'.toList
  | 2 => [(getQueue b idx).ctx]
  | 3 => [(getRgn b idx).owner]
  | 4 => [(getWin b idx).ctx]
  | 5 => if (getKey b idx).sys then [] else [(getKey b idx).owner]
  | 6 => [(getFence b idx).ctx]
  | 7 => ((planById b idx).map (·.ctx)).toList
  | _ => []

/-- Tag of an object. -/
def tagOf (b : Block) (ty idx : Nat) : Tag :=
  match ty with
  | 1 => (getCtx b idx).tag
  | 2 => (getQueue b idx).tag
  | 3 => (getRgn b idx).tag
  | 4 => (getWin b idx).tag
  | 5 => keyTag b (getKey b idx)
  | 6 => (getFence b idx).tag
  | 7 => ((planById b idx).map (fun p => (getCtx b p.ctx.toNat).tag)).getD 0
  | _ => 0

/-- Rights on an object. -/
def mayUse (b : Block) (r : Req) (ty idx : Nat) : Bool :=
  if r.kernel then !kClosed b (tagOf b ty idx) else (ownersOf b ty idx).contains r.ctx

/-- The object that a handle names, of one of some types, and whether the requester may use it. -/
def nameObj (b : Block) (r : Req) (tys : List Nat) (h : Word) : Status × Nat × Nat :=
  let ty := fieldNat h 3 0
  match liveIndex b ty h with
  | some i => if tys.contains ty then (if mayUse b r ty i then .ok else .notOwner, ty, i) else (.badConfig, 0, 0)
  | none => (.badConfig, 0, 0)

/-! Teardown (Table 11.2). -/

/-- A queue is torn down: a command that waits ends with ABORTED, one in progress runs to its end. -/
def dieQueue (q : Nat) (b : Block) : Block :=
  let x := getQueue b q
  let b := updQueue q (fun x => { x with state := .dying, part := none }) b
  match x.cmd, x.part with
  | some c, _ => if c.phase = .wait ∨ c.phase = .slot then endUnrun (.queue q) .aborted b else b
  | none, some c =>
    if x.drain.isSome then b
    else endUnrun (.queue q) .aborted (updQueue q (fun x => { x with cmd := some { c with flags := c.flags &&& ~~~ 2 } }) b)
  | none, none => b

/-- The teardown action of an object whose REF has reached 0. -/
def objectDying (ty i : Nat) (b : Block) : Block :=
  let b := dyingRef ty i b
  match ty with
  | 1 => { b with cm := { b.cm with ended := b.cm.ended ++ [BitVec.ofNat 16 i] } }
  | 2 => dieQueue i b
  | 3 => startRetire i none b
  | 4 => startDelete i none b
  | 5 => dyingRef 5 i (invalidateKey i b)
  | 6 => dieFence i b
  | 7 => reapPlan i { b with red := { b.red with plans := updateWhere (fun p => p.id == i) (fun p => { p with dying := true }) b.red.plans } }
  | _ => b

/-- REF less one; at 0 the object becomes DYING (R315). -/
def dropRef (ty i : Nat) (b : Block) : Block :=
  if (getRef b ty i).ref ≤ 1 then objectDying ty i b else updRef ty i (fun r => { r with ref := r.ref - 1 }) b

/-! The cascade of a context (R317). -/

/-- Queues of a context that are not FREE. -/
def queuesOf (b : Block) (c : Ctx) : List (Nat × Queue) := b.cm.queues.filter (fun q => q.2.ctx == c && q.2.state != .free)

/-- Unstarted commands that must still complete (R338). -/
def queueDrains (q : Queue) : Bool := q.drain.isSome && q.tail != q.head

/-- A seal or restore of the context is in progress (Table 11.6). -/
def ctxMoving (b : Block) (c : Ctx) : Bool :=
  b.cm.slots.any (fun s => (s.2.wr.any (fun j => j.ctx == c)) || (s.2.rd.any (fun j => j.ctx == c)))

/-- Windows, regions, fences, keys and plans that a context owns and that are not yet torn down. -/
def liveWins (b : Block) (c : Ctx) : List Nat := (b.fab.table.filter (fun w => w.2.valid && w.2.ctx == c && !w.2.deleting)).map (·.1)
def liveRgns (b : Block) (c : Ctx) : List Nat :=
  (b.rgn.table.filter (fun r => r.2.state != .free && r.2.state != .retiring && r.2.owner == c)).map (·.1)
def liveFences (b : Block) (c : Ctx) : List Nat := (b.cm.fences.filter (fun f => f.2.live && f.2.ctx == c && !f.2.dying)).map (·.1)
def liveKeys (b : Block) (c : Ctx) : List Nat := (b.keys.kreg.filter (fun k => k.2.state == .active && !k.2.sys && k.2.owner == c)).map (·.1)
def livePlans (b : Block) (c : Ctx) : List Nat := (b.red.plans.filter (fun p => p.ctx == c && !p.dying)).map (·.id)

/-- The steps of R317 as far as they have come; each starts when the one before has ended. A PLAN_INVOKE in progress is
step 2's, so step 1 does not wait for it. Its plans, which R316 pins it for, go with its keys (log 133). -/
def ctxAdvance (c : Ctx) (b : Block) : Block :=
  if ctxMoving b c then b
  else
    let b := ((queuesOf b c).filter (fun q => q.2.state != .dying)).foldl (fun b q => objectDying 2 q.1 b) b
    let busy := fun (q : Nat × Queue) => match q.2.cmd with
      | some cmd => !(cmd.op == 0x62 && cmd.phase == .running)
      | none => queueDrains q.2
    if (queuesOf b c).any busy then b
    else
      let mine := fun (v : Inv) => v.ctx == c && (match v.src with | .queue _ => true | _ => false)
      let b := (b.red.invs.filter mine).foldl (fun b v => endInv v.id .aborted b) b
      if (queuesOf b c).any (fun q => q.2.cmd.isSome) then b
      else
        let b := (liveWins b c).foldl (fun b i => startDelete i none b) b
        if b.fab.table.any (fun w => w.2.valid && w.2.ctx == c) then b
        else
          let b := (liveRgns b c).foldl (fun b i => startRetire i none b) b
          if b.rgn.table.any (fun r => r.2.state != .free && r.2.owner == c) then b
          else
            let b := (liveFences b c).foldl (fun b i => objectDying 6 i b) b
            let b := (liveKeys b c).foldl (fun b i => objectDying 5 i b) b
            let b := (livePlans b c).foldl (fun b i => objectDying 7 i b) b
            updCtx c.toNat (fun x => { x with count := 0, base := 0, lines := 0, states := 0, digest := 0 }) b

/-- Nothing of a context is left (R316, R317). -/
def ctxEmpty (b : Block) (c : Ctx) : Bool :=
  !ctxMoving b c && (queuesOf b c).isEmpty && !b.fab.table.any (fun w => w.2.valid && w.2.ctx == c)
    && !b.rgn.table.any (fun r => r.2.state != .free && r.2.owner == c) && !b.cm.fences.any (fun f => f.2.live && f.2.ctx == c)
    && !b.keys.kreg.any (fun k => k.2.state != .free && !k.2.sys && k.2.owner == c) && !b.red.plans.any (fun p => p.ctx == c)

/-- A queue of the package has a command in progress that names a fence. -/
def fencePinned (b : Block) (k : Nat) : Bool :=
  let h := handleOf b tyFence k
  let names := fun (c : Cmd) => (cmdWait c && waitHandle c == h) || (cmdSig c && sigHandle c == h && c.phase != .record)
  b.cm.queues.any (fun q => q.2.cmd.any names) || b.cm.kport.cmd.any names

/-- The mutation of OBJECT_FREE: nothing where the object still has a pin. -/
def bodyObjectFree (ty i : Nat) (b : Block) : Block :=
  if !(getRef b ty i).dying then b
  else
    match ty with
    | 1 =>
      if ctxEmpty b (BitVec.ofNat 16 i) then
        let x := getCtx b i
        let b := if x.state = .resident then updSlot x.slot (fun s => { s with ctx := none }) b else b
        let b := updCtx i (fun _ => {}) { b with cm := { b.cm with ended := b.cm.ended.filter (fun c => c.toNat != i) } }
        freeRef 1 i b
      else b
    | 2 =>
      let q := getQueue b i
      if q.state == .dying && q.cmd.isNone && !queueDrains q then freeRef 2 i (updQueue i (fun _ => {}) b) else b
    | 3 => if (getRgn b i).state = .retiring ∧ regionIdle b i then bodyRetireComplete i b else b
    | 4 => if (getWin b i).deleting && winIdle b i then bodyDeleteComplete i b else b
    | 5 => bodyRueVisit i b
    | 6 => if fencePinned b i then b else freeRef 6 i (updFence i (fun _ => {}) b)
    | 7 => reapPlan i b
    | _ => b

/-- OBJECT_FREE (R316). -/
def effObjectFree (type : BitVec 4) (i : Nat) (b : Block) : Block :=
  if (getRef b type.toNat i).dying then mutate (.objectFree type i) (bodyObjectFree type.toNat i) b else b

/-! Contexts. -/

/-- A driver context asks (R323). -/
def isDriver (b : Block) (r : Req) : Bool := r.kernel || (getCtx b r.ctx.toNat).driver

/-- The mutation of CTX_DEFINE (R320, R323, R346). -/
def bodyCtxDefine (src : Src) (b : Block) : Block :=
  let r := reqOf b src
  let tag : Tag := BitVec.ofNat 6 (fieldNat (srcOp b src 40) 5 0)
  let free := lowestFrom (fun k => (getCtx b k).state == .free) 65536 0
  let bad := (if packageOos b then [Status.outOfService] else [])
    ++ (if isDriver b r then (if kClosed b tag then [Status.notOwner] else []) else if tag = r.tag then [] else [.notOwner])
    ++ (if free.isNone then [.quota] else [])
  match bad, free with
  | [], some i =>
    let rec' : CtxRec := { state := .defined, tag := tag, by' := if r.kernel then none else some r.ctx, label := srcOp b src 48,
                           driver := r.kernel && tag == 0 && !(getTInst b 0).tdisp }
    let b := newRef tyCtx i (updCtx i (fun _ => rec') b)
    doneCmd src .ok (handleOf b tyCtx i) b
  | l, _ => doneCmd src (statusWorst l) 0 b

/-- CTX_DEFINE (R320). -/
def effCtxDefine (src : Src) (b : Block) : Block := runCmd (.ctxDefine src) .none src 0x01 0 (bodyCtxDefine src) b

/-- The creator's reference is released, once (R315). -/
def releaseCreator (ty : Nat) (src : Src) (b : Block) : Block :=
  let (st, _, i) := nameObj b (reqOf b src) [ty] (srcOp b src 40)
  let st := if st = .ok ∧ (getRef b ty i).creator = false then .badConfig else st
  if st = .ok then doneCmd src .ok 0 (dropRef ty i (updRef ty i (fun r => { r with creator := false }) b)) else doneCmd src st 0 b

/-- CTX_DESTROY (R315, R317). -/
def bodyCtxDestroy (src : Src) (b : Block) : Block := releaseCreator tyCtx src b
def effCtxDestroy (src : Src) (b : Block) : Block := runCmd (.ctxDestroy src) .none src 0x02 0 (bodyCtxDestroy src) b

/-! Queues. -/

/-- The mutation of Q_CREATE (R320, R323, R324). -/
def bodyQCreate (src : Src) (b : Block) : Block :=
  let r := reqOf b src
  let (st, _, c) := nameObj b r [tyCtx] (srcOp b src 40)
  let prio := fieldNat (srcOp b src 48) 1 0
  let log2 := fieldNat (srcOp b src 56) 4 0
  let free := lowestFrom (fun k => (getQueue b k).state == .free) 256 0
  let bad := (if st = .ok then [] else [st]) ++ (if log2 < 3 ∨ 16 < log2 then [Status.badConfig] else [])
    ++ (if prio = 0 && !isDriver b r then [.notOwner] else []) ++ (if free.isNone then [.quota] else [])
  match bad, free with
  | [], some q =>
    let x : Queue := { state := .open, prio := prio, log2 := log2, tag := (getCtx b c).tag, ctx := BitVec.ofNat 16 c,
                       ring := (srcOp b src 64).toNat, comp := (srcOp b src 72).toNat }
    let b := newRef tyQueue q (updQueue q (fun _ => x) b)
    doneCmd src .ok (handleOf b tyQueue q) b
  | l, _ => doneCmd src (statusWorst l) 0 b

/-- Q_CREATE (R320). -/
def effQCreate (src : Src) (b : Block) : Block := runCmd (.qCreate src) .none src 0x10 0 (bodyQCreate src) b

/-- Q_DESTROY (R315). -/
def bodyQDestroy (src : Src) (b : Block) : Block := releaseCreator tyQueue src b
def effQDestroy (src : Src) (b : Block) : Block := runCmd (.qDestroy src) .none src 0x11 0 (bodyQDestroy src) b

/-- A die of a context's partition holds COMPUTE_RST_IND high (R344). -/
def partitionReset (b : Block) (c : Ctx) : Bool := b.inst.any (fun e => e.2.crst && (getCtx b c.toNat).mask.getLsbD e.1)

/-- The mutation of Q_RESTART (R322, R328, R344): HEAD set to TAIL, a wait ends with ABORTED, STOPPED becomes OPEN. -/
def bodyQRestart (src : Src) (b : Block) : Block :=
  let (st, _, q) := nameObj b (reqOf b src) [tyQueue] (srcOp b src 40)
  let st := if st = .ok ∧ partitionReset b (getQueue b q).ctx then .badConfig else st
  if st ≠ .ok then doneCmd src st 0 b
  else
    let waits := (getQueue b q).cmd.any (fun c => c.phase == .wait || c.phase == .slot)
    let b := if waits then endUnrun (.queue q) .aborted b else b
    doneCmd src .ok 0 (updQueue q (fun x => { x with head := x.tail, part := none, state := if x.state = .stopped then .open else x.state }) b)

/-- Q_RESTART (R322). -/
def effQRestart (src : Src) (b : Block) : Block := runCmd (.qRestart src) .none src 0x12 0 (bodyQRestart src) b

/-! Fences and references. -/

/-- A sharer operand (Table 11.8). -/
def sharerOf (n : Nat) : Sharer :=
  { pkg := BitVec.ofNat 14 n, tag := BitVec.ofNat 6 (n / 2 ^ 14), wait := n.testBit 20, signal := n.testBit 21 }

/-- The mutation of FNC_CREATE (R312, R326). -/
def bodyFncCreate (src : Src) (b : Block) : Block :=
  let r := reqOf b src
  let bytes := ((srcCmd b src).map (·.bytes)).getD []
  match lowestFrom (fun k => !(getFence b k).live) (2 ^ 20) 0 with
  | some k =>
    let all := (List.range 4).map (fun j => sharerOf (leNat ((bytes.drop (56 + 4 * j)).take 4)))
    let f : Fence := { live := true, value := srcOp b src 40, notify := fieldBit (srcOp b src 48) 0, ctx := r.ctx, tag := r.tag,
                       sharers := all.filter (fun s => s.wait || s.signal) }
    let b := newRef tyFence k (updFence k (fun _ => f) b)
    doneCmd src .ok (handleOf b tyFence k) b
  | none => doneCmd src .quota 0 b

/-- FNC_CREATE (R326). -/
def effFncCreate (src : Src) (b : Block) : Block := runCmd (.fncCreate src) .none src 0x20 0 (bodyFncCreate src) b

/-- Who takes a reference (R323). -/
def takerOf (r : Req) : Option Ctx := if r.kernel then none else some r.ctx

/-- An object for HOLD and RELEASE: a reference that the context took names it too (R323). -/
def nameHeld (b : Block) (src : Src) : Status × Nat × Nat :=
  let r := reqOf b src
  let (st, _, _) := nameObj b r [1, 2, 3, 4, 5, 6, 7] (srcOp b src 40)
  let ty := fieldNat (srcOp b src 40) 3 0
  let i := fieldNat (srcOp b src 40) 23 4
  (if st = .notOwner && !r.kernel && (getRef b ty i).takers.contains (some r.ctx) then .ok else st, ty, i)

/-- The mutation of HOLD (R315). -/
def bodyHold (src : Src) (b : Block) : Block :=
  let (st, ty, i) := nameHeld b src
  let n := (getRef b ty i).ref
  if st ≠ .ok then doneCmd src st 0 b
  else if 2 ^ 32 - 1 ≤ n then doneCmd src .quota 0 b
  else
    let b := updRef ty i (fun r => { r with ref := n + 1, takers := takerOf (reqOf b src) :: r.takers }) b
    doneCmd src .ok (BitVec.ofNat 64 (n + 1)) b

/-- HOLD (R315). -/
def effHold (src : Src) (b : Block) : Block := runCmd (.hold src) .none src 0x30 0 (bodyHold src) b

/-- The mutation of RELEASE (R315): a reference taken before, else the creator's. -/
def bodyRelease (src : Src) (b : Block) : Block :=
  let (st, ty, i) := nameHeld b src
  if st ≠ .ok then doneCmd src st 0 b
  else
    let who := takerOf (reqOf b src)
    let n := (getRef b ty i).ref
    let b := updRef ty i (fun r => if r.takers.contains who then { r with takers := r.takers.erase who } else { r with creator := false }) b
    doneCmd src .ok (BitVec.ofNat 64 (n - 1)) (dropRef ty i b)

/-- RELEASE (R315). -/
def effRelease (src : Src) (b : Block) : Block := runCmd (.release src) .none src 0x31 0 (bodyRelease src) b

/-- NOP (R320): only its wait and signal act. -/
def effNop (src : Src) (b : Block) : Block := startLocal src 0x00 (doneCmd src .ok 0) b

/-! The kernel command port (R325). -/

/-- A register of the context window that only the K attribute writes (Table 1.10). -/
def zcpKernel (z : ZReq) (w : Window) (f : Block → Block) (b : Block) : Block :=
  zcpDo z true w (fun b => if z.attr = .k then f b else zcpRefuse z .notOwner b) b

/-- Commands that act for the context in CTX_KCMD.CTX. -/
def actsForCtx (c : Cmd) : Bool :=
  let k := fieldNat (opWord c 40) 3 0
  c.op == 0x60 || c.op == 0x62 || c.op == 0x20 || (c.op == 0x40 && (0 < mintNeeds (opWord c 40) || k == 6))

/-- What stops a command of the port before it runs. -/
def kportChecks (b : Block) (c : Cmd) (named : Option Ctx) : List Status :=
  (if headerBad b { c with flags := c.flags &&& ~~~ 1 } || cmdWait c then [Status.badConfig] else [])
    ++ (if actsForCtx c then
          (match named with
            | none => [Status.badConfig]
            | some x => (if (getCtx b x.toNat).state = .free then [.badConfig] else [])
                ++ (if kClosed b (getCtx b x.toNat).tag then [.notOwner] else []))
        else [])
    ++ (if cmdSig c && !handleRemote b (sigHandle c) && kClosed b (getFence b (handleIdx (sigHandle c))).tag then [.notOwner] else [])

/-- KERNEL_COMMAND_GO (R325): the command in CTX_KSLOT starts. -/
def effKernelCommandGo (z : ZReq) (w : Word) (b : Block) : Block :=
  zcpKernel z .ctx (fun b =>
    if !fieldBit w 0 then b
    else if b.cm.kport.busy then zcpRefuse z .badConfig b
    else
      let c := cmdOfSlots ((List.range 16).flatMap (fun k => leBytes 8 (wordOf b.cm.kport.slot.toNat k).toNat)) 0
      let named : Option Ctx := if fieldBit w 1 then some (BitVec.ofNat 16 (fieldNat w 31 16)) else none
      let bad := kportChecks b c named
      let c := if headerBad b { c with flags := c.flags &&& ~~~ 1 } || bad.contains .notOwner then { c with flags := c.flags &&& ~~~ 2 } else c
      let b := { b with cm := { b.cm with kport := { b.cm.kport with busy := true, cmd := some c, ctx := if actsForCtx c then named else none } } }
      if bad.isEmpty then makeReady .kport b else endUnrun .kport (statusWorst bad) b) b

/-! The object store and the journal (R313, R360). -/

/-- A range of host space taken outside the region table, protected as RW-AUTH under a key: what forbids it, and its
place in the Tree Roof and the carve-outs. -/
def storageRange (b : Block) (base units key : Nat) : Except Status Rgn :=
  let r : Rgn := { state := .active, mode := .rw, base := base, size := units, key := key }
  let overlap := (heldRanges b).any (fun u => decide (base < u.1 + u.2 ∧ u.1 < base + units))
  if overlap || !allServed b r || noSideband b r || decide (2 ^ 31 < base + units) then .error .badConfig
  else
    match chooseLevel b r with
    | none => .error .quota
    | some l =>
      let r := { r with roofLevel := l }
      match placeTree b r with
      | none => .error .quota
      | some (roof, off) => .ok { r with roofBase := roof, metaOff := off, roofNodes := roofNeed b r l }

/-- The object store is locked at a base (R313): Sage generates its key under index 7. -/
def lockStore (base : Nat) (b : Block) : Except Status Block :=
  match freeKey b with
  | none => .error .quota
  | some k =>
    match storageRange b base 32 k with
    | .error st => .error st
    | .ok r =>
      let e : KEntry := { type := 7, depth := (getKey b 7).depth + 1, sys := true, usage := 0x10, parent := 7, budget := unlimited,
                          key := Config.draw b.freeCtr }
      let b := clearRoof r.roofBase r.roofNodes (writeKey k e (fresh b).2)
      .ok { b with cm := { b.cm with storeLock := true, storeBase := base, storeKey := k, storeRgn := r } }

/-- The journal's range is locked at a base, with the key of index 6 (R360). -/
def lockJournal (base : Nat) (b : Block) : Except Status Block :=
  match storageRange b base 2 6 with
  | .error st => .error st
  | .ok r =>
    let b := clearRoof r.roofBase r.roofNodes b
    .ok { b with jnl := { b.jnl with lock := true, base := base, rgn := r } }

/-- A write that sets a LOCK: refused with its status, or done. -/
def lockWrite (z : ZReq) (b : Block) : Except Status Block → Block
  | .ok b' => b'
  | .error st => zcpRefuse z st b

/-- CTX_STORE_LOCK (R313): a write of CTX_STORE; ignored once LOCK is set. -/
def effCtxStoreLock (z : ZReq) (w : Word) (b : Block) : Block :=
  zcpKernel z .ctx (fun b =>
    let base := fieldNat w 38 8
    if b.cm.storeLock then b
    else if fieldBit w 0 then lockWrite z b (lockStore base b)
    else { b with cm := { b.cm with storeBase := base } }) b

/-- JNL_BASE_LOCK (R360): a write of JNL_BASE; ignored once LOCK is set. -/
def effJnlBaseLock (z : ZReq) (w : Word) (b : Block) : Block :=
  zcpKernel z .jnl (fun b =>
    let base := fieldNat w 38 8
    if b.jnl.lock then b
    else if fieldBit w 0 then lockWrite z b (lockJournal base b)
    else { b with jnl := { b.jnl with base := base } }) b

end Sys2Proof.Machine
end

