-- ==== Sys2Proof/Machine/Seal.lean ====
section
/-! DEFINITION. Residency and Context Seal (R335 to R340): sealing a resident context to memory, restoring it, the two
streams of an MCS, and how either ends. -/

namespace Sys2Proof.Machine

/-! The image (R336). -/

/-- Lines of an image on an MCS in the host line range [l0, l). -/
def imageRank (b : Block) (n l0 l : Nat) : Nat :=
  let on := fun (p : Nat) => match mapPage b p with | some (m, _) => m == n | none => false
  64 * pagesOn b n (l0 / 64) (l / 64) + (if on (l / 64) then l % 64 else 0) - (if on (l0 / 64) then l0 % 64 else 0)

/-- MCSs that hold lines of an image. -/
def imageMcs (b : Block) (l0 total : Nat) : List Nat :=
  (List.range 32).filter (fun n => 0 < pagesOn b n (l0 / 64) ((l0 + total + 63) / 64))

/-- Every line of an image is served by an MCS of the package. -/
def imageServed (b : Block) (l0 total : Nat) : Bool :=
  let lo := l0 / 64
  let hi := (l0 + total + 63) / 64
  ((List.range 32).map (fun n => if (getMcs b n).present then pagesOn b n lo hi else 0)).foldl (· + ·) 0 == hi - lo

/-- The image as a region in the RO-AUTH format: TRI 0, VERSION the seal count. -/
def imageRgn (c : Ctx) (tag : Tag) (count : Nat) : Rgn :=
  { state := .active, mode := .ro, tri := 0, version := count, owner := c, tag := tag }

/-- The Context Seal key. -/
def sealKey (b : Block) (c : Ctx) (count : Nat) : Key :=
  kdfKey (getKey b 7).key "context-seal" (leBytes 2 c.toNat ++ leBytes 8 count)

/-- The streams in use on an MCS, of writes or of reads. -/
def streamsOn (b : Block) (restore : Bool) (n : Nat) : Bool :=
  b.cm.slots.any (fun s => (if restore then s.2.rd else s.2.wr).any (fun j => (imageMcs b (j.base / 128) j.lines).contains n))

/-- A stream that an image needs is held by another. -/
def streamsBusy (b : Block) (restore : Bool) (l0 total : Nat) : Bool := (imageMcs b l0 total).any (streamsOn b restore)

def setJob (k : Nat) (restore : Bool) (j : Option SealJob) (b : Block) : Block :=
  updSlot k (fun s => if restore then { s with rd := j } else { s with wr := j }) b

/-! Starting (R335, R337, R338). -/

/-- Commands that wait on a fence are put back unstarted: HEAD returns to their first slot. -/
def putBack (c : Ctx) (b : Block) : Block :=
  (queuesOf b c).foldl (fun b q =>
    match q.2.cmd with
    | some cmd =>
      if cmd.phase = .wait ∨ cmd.phase = .slot then updQueue q.1 (fun x => { x with head := cmd.first, cmd := none }) b else b
    | none => b) b

/-- The mutation of CTX_SEAL. -/
def bodyCtxSeal (src : Src) (b : Block) : Block :=
  let k := fieldNat (srcOp b src 40) 5 0
  let base := (srcOp b src 48).toNat
  let sram := (srcOp b src 56).toNat
  let states := min 512 (Config.stateLines b.freeCtr).toNat
  let (_, b) := fresh b
  let s := getSlot b k
  match s.ctx with
  | none => doneCmd src .badConfig 0 b
  | some c =>
    let total := states + sram
    let place := decide (268435456 < sram) || base % 128 != 0 || decide (2 ^ 52 < base + 128 * total) || !imageServed b (base / 128) total
    let bad := (if place || s.wr.isSome || (getRef b tyCtx c.toNat).dying then [Status.badConfig] else [])
      ++ (if mayUse b (reqOf b src) tyCtx c.toNat then [] else [.notOwner])
      ++ (if !place && streamsBusy b false (base / 128) total then [.quota] else [])
    if bad.isEmpty then
      let count := (getCtx b c.toNat).count + 1
      let j : SealJob := { restore := false, ctx := c, src := src, base := base, states := states, lines := total, started := false,
                           count := count, next := [], got := 0, digest := 0, bad := none, key := sealKey b c count }
      putBack c (setJob k false (some j) b)
    else doneCmd src (statusWorst bad) 0 b

/-- CTX_SEAL (R337). -/
def effCtxSeal (src : Src) (b : Block) : Block := runCmd (.ctxSeal src) .none src 0x03 0 (bodyCtxSeal src) b

/-- The next line expected of an open stream. -/
def streamTakes (b : Block) (j : SealJob) (n l : Nat) : Bool :=
  let l0 := j.base / 128
  let seen := ((j.next.find? (fun e => e.1 == n)).map (·.2)).getD (if j.restore then 0 else imageRank b n l0 (l0 + j.states))
  seen == imageRank b n l0 l

/-- A line has been taken: its MCS expects the one after it. -/
def streamStep (b : Block) (j : SealJob) (n l : Nat) (mac : Word) : SealJob :=
  { j with next := (n, imageRank b n (j.base / 128) l + 1) :: j.next.filter (fun e => e.1 != n), got := j.got + 1, digest := j.digest ^^^ mac }

/-- A line of the image is sealed and posted for MS_; with `ack` its MN_WACK follows the issue (R32, R337). -/
def putImageLine (j : SealJob) (tag : Tag) (off : Nat) (data : Line) (ack : Option (BitVec 10)) (acc : Word × Block) : Word × Block :=
  let b := acc.2
  let host := j.base / 128 + off
  let (d, sb) := sealLine (imageRgn j.ctx tag j.count) (workKeys j.key) 0 off host { major := 0, minor := 0 } data (sorrelOf data) false false false
  match mapLine b host with
  | some (n, g) => (acc.1 ^^^ sbMac sb, updPort n (fun p => { p with posted := p.posted ++ [{ line := host, g := g, data := d, sb := sb, ack := ack }] }) b)
  | none => acc

/-- A command of a context other than the seal's own is in progress. -/
def ctxBusy (b : Block) (c : Ctx) (src : Src) : Bool := (queuesOf b c).any (fun q => q.2.cmd.isSome && src != .queue q.1)

/-- Open the write streams of a seal whose context has come to rest; the state lines are written (R337 steps 2 to 4). -/
def openSeal (k : Nat) (b : Block) : Block :=
  match (getSlot b k).wr with
  | none => b
  | some j =>
    if j.started || ctxBusy b j.ctx j.src then b
    else
      let (i, b) := fresh b
      let (dig, b) := (List.range j.states).foldl (fun acc off =>
        putImageLine j (getCtx b j.ctx.toNat).tag off (lineOf ((List.range 128).map (fun x => Config.freeByte i (128 * off + x)))) none acc) (0, b)
      setJob k false (some { j with started := true, got := j.states, digest := dig }) b

/-- The mutation of CTX_RESTORE: a context never sealed becomes resident at once. -/
def bodyCtxRestore (src : Src) (b : Block) : Block :=
  let (st, _, c) := nameObj b (reqOf b src) [tyCtx] (srcOp b src 40)
  let k := fieldNat (srcOp b src 48) 5 0
  let bytes := ((srcCmd b src).map (·.bytes)).getD []
  let mask : BitVec 128 := BitVec.ofNat 128 (leNat ((bytes.drop 56).take 16))
  let x := getCtx b c
  let s := getSlot b k
  let held := s.rd.isSome || (if x.state = .sealed then s.ctx.isSome && s.wr.isNone else s.ctx.isSome)
  let bad := (if packageOos b then [Status.outOfService] else []) ++ (if st = .ok then [] else [st])
    ++ (if st = .ok then
          (if held || x.state == .resident || ctxMoving b (BitVec.ofNat 16 c) || decide (64 ≤ (srcOp b src 48).toNat) then [.badConfig] else [])
          ++ (if x.state = .sealed && streamsBusy b true (x.base / 128) x.lines then [.quota] else [])
        else [])
  if !bad.isEmpty then doneCmd src (statusWorst bad) 0 b
  else if x.state = .sealed then
    let j : SealJob := { restore := true, ctx := BitVec.ofNat 16 c, src := src, base := x.base, states := x.states, lines := x.lines, started := true,
                         count := x.count, next := [], got := 0, digest := 0, bad := none, key := sealKey b (BitVec.ofNat 16 c) x.count }
    setJob k true (some j) (updCtx c (fun x => { x with slot := k, mask := mask }) b)
  else
    let b := updCtx c (fun x => { x with state := .resident, slot := k, mask := mask }) b
    doneCmd src .ok 0 (updSlot k (fun s => { s with ctx := some (BitVec.ofNat 16 c) }) b)

/-- CTX_RESTORE (R335, R338). -/
def effCtxRestore (src : Src) (b : Block) : Block := runCmd (.ctxRestore src) .none src 0x04 0 (bodyCtxRestore src) b

/-! Ending (R337 to R340). -/

/-- A seal or restore ends without success (Table 11.6): a sealed context stays in its slot, a restored one stays sealed. -/
def stopSeal (k : Nat) (restore : Bool) (st : Status) (b : Block) : Block :=
  match (if restore then (getSlot b k).rd else (getSlot b k).wr) with
  | some j => doneCmd j.src st 0 (setJob k restore none b)
  | none => b

/-- A restore meets a line that fails: the context is torn down, its unstarted commands complete with TAG_FAIL (R338). -/
def spoilRestore (k : Nat) (j : SealJob) (st : Status) (b : Block) : Block :=
  let b := stopSeal k true st b
  let b := (queuesOf b j.ctx).foldl (fun b q => updQueue q.1 (fun x => { x with drain := some .tagFail }) b) b
  if (getRef b tyCtx j.ctx.toNat).dying then b else objectDying tyCtx j.ctx.toNat b

/-- The slot whose open stream covers a line. -/
def streamOf (b : Block) (restore : Bool) (l : Nat) : Option (Nat × SealJob) :=
  b.cm.slots.findSome? (fun s =>
    match (if restore then s.2.rd else s.2.wr) with
    | some j => if j.started ∧ j.base / 128 ≤ l ∧ l < j.base / 128 + j.lines then some (s.1, j) else none
    | none => none)

/-- The check of an image line that memory returned, under the key of its job (R336, R338). -/
def imageCheck (b : Block) (j : SealJob) (l : Nat) (data : Line) (sb : Sideband) : LineCheck :=
  checkLine (imageRgn j.ctx (getCtx b j.ctx.toNat).tag j.count) (workKeys j.key) [0] (l - j.base / 128) l { major := 0, minor := 0 } data (some sb) false

/-- The MAC that an image line adds to the digest (R336). -/
def imageMac (b : Block) (j : SealJob) (l : Nat) (data : Line) : Word :=
  lineMac (workKeys j.key).mac (tupleOf (imageRgn j.ctx (getCtx b j.ctx.toNat).tag j.count) (l - j.base / 128) { major := 0, minor := 0 }) data

/-- The answer of a line read back; the state lines stay inside. -/
def imageAnswer (n : Nat) (j : SealJob) (l : Nat) (o : RdOut) (b : Block) : Block := if l - j.base / 128 < j.states then b else rdataNow n o b

/-- A line of a write stream is sealed and goes out (R337). -/
def sealWriteLine (n k : Nat) (j : SealJob) (rq : MnReq) (data : Line) (b : Block) : Block :=
  let l := rq.addr.toNat
  let (mac, b) := putImageLine j (getCtx b j.ctx.toNat).tag (l - j.base / 128) data (some rq.id) (0, b)
  setJob k false (some (streamStep b j n l mac)) b

/-- A line of a read stream is checked and answered; one that fails spoils the restore (R338). -/
def sealReadLine (n k : Nat) (j : SealJob) (rq : MnReq) (data : Line) (sb : Sideband) (b : Block) : Block :=
  let l := rq.addr.toNat
  let chk := imageCheck b j l data sb
  let st := statusWorst (chk.early ++ chk.late)
  let b' := imageAnswer n j l (rdOut rq.id st (if statusFailing st then 0 else chk.data) chk.sorrel false) b
  if st = .ok then setJob k true (some (streamStep b j n l (imageMac b j l data))) b' else spoilRestore k j st (memFailure n rq st b')

/-- SEAL_STREAM_LINE (R337, R338): a line of the copy engine reaches a write stream, or is read back through a read
stream; `data` and `sb` are the plaintext written, or what memory returned. -/
def effSealStreamLine (n : Nat) (write : Bool) (rq : MnReq) (data : Line) (sb : Sideband) (b : Block) : Block :=
  let l := rq.addr.toNat
  match streamOf b (!write) l with
  | none => b
  | some (k, j) =>
    if (mapLine b l).map (·.1) ≠ some n then b
    else if rq.ctx ≠ j.ctx ∨ rq.tag ≠ (getCtx b j.ctx.toNat).tag then
      mnRefuse n rq [.notOwner] true (fun b => if write then wackNow n rq.id .notOwner b else imageAnswer n j l (rdOut rq.id .notOwner 0 0 false) b) b
    else if !streamTakes b j n l then
      stopSeal k (!write) .badConfig (if write then wackNow n rq.id .badConfig b else imageAnswer n j l (rdOut rq.id .badConfig 0 0 false) b)
    else if write then sealWriteLine n k j rq data b
    else sealReadLine n k j rq data sb b

/-- KREG entries of a context leave every key cache, and their grants return (R337 step 6). -/
def dropCtxKeys (c : Ctx) (b : Block) : Block :=
  let held := b.inst.flatMap (fun e => (e.2.kc.filter (fun x => x.owner == c)).map (fun x => (e.1, x)))
  held.foldl (fun b e => returnGrant e.2.index e.2.gen e.2.grant (updKc e.1 (fun l => l.filter (fun x => x.index != e.2.index)) b)) b

/-- The mutation of SEAL_END (R337): the digest is recorded, the context is SEALED, the slot empties. -/
def bodySealEnd (k : Nat) (b : Block) : Block :=
  match (getSlot b k).wr with
  | none => b
  | some j =>
    if !j.started || j.got < j.lines then b
    else
      let b := dropCtxKeys j.ctx b
      let b := updCtx j.ctx.toNat (fun x => { x with state := .sealed, count := j.count, base := j.base, lines := j.lines, states := j.states, digest := j.digest }) b
      doneCmd j.src .ok 0 (updSlot k (fun s => { s with ctx := none, wr := none }) b)

/-- SEAL_END (R337). -/
def effSealEnd (k : Nat) (b : Block) : Block :=
  match (getSlot b k).wr with
  | some j => if j.started && decide (j.lines ≤ j.got) then mutate (.sealEnd k) (bodySealEnd k) b else b
  | none => b

/-- The mutation of RESTORE_END (R338): the digest is checked; the queues resume, or the context is torn down. -/
def bodyRestoreEnd (k : Nat) (b : Block) : Block :=
  match (getSlot b k).rd with
  | none => b
  | some j =>
    if j.got < j.lines || (getSlot b k).wr.isSome then b
    else if j.digest = (getCtx b j.ctx.toNat).digest then
      let b := updCtx j.ctx.toNat (fun x => { x with state := .resident }) b
      doneCmd j.src .ok 0 (updSlot k (fun s => { s with ctx := some j.ctx, rd := none }) b)
    else spoilRestore k j .tagFail b

/-- RESTORE_END (R338). -/
def effRestoreEnd (k : Nat) (b : Block) : Block :=
  match (getSlot b k).rd with
  | some j => if decide (j.lines ≤ j.got) && (getSlot b k).wr.isNone then mutate (.restoreEnd k) (bodyRestoreEnd k) b else b
  | none => b

/-- SEAL_TIMEOUT (R339, R340). -/
def effSealTimeout (k : Nat) (restore : Bool) (b : Block) : Block :=
  if (if restore then (getSlot b k).rd else (getSlot b k).wr).isSome then
    mutate (.sealTimeout k restore) (stopSeal k restore .timeout) b
  else b

/-- End every seal and restore a test of the context holds of (Table 11.6). -/
def stopSeals (p : Ctx → Bool) (st : Status) (b : Block) : Block :=
  b.cm.slots.foldl (fun b s =>
    let b := if s.2.wr.any (fun j => p j.ctx) then stopSeal s.1 false st b else b
    if s.2.rd.any (fun j => p j.ctx) then stopSeal s.1 true st b else b) b

end Sys2Proof.Machine
end

