-- ==== Sys2Proof/Machine/Target.lean ====
section
/-! DEFINITION. The target's side of fabric transactions (06 R165, R175, R178, R181 to R187, R191) and the deliveries
on LT_IR and LT_IC: fabric requests, atomics at their home, messages, lanes' buffer accesses. -/

namespace Sys2Proof.Machine

/-! Arrivals. -/

/-- The export checks of a request (R165): whether it may run. -/
def exportOk (b : Block) (q : Pkt) : Bool :=
  let w := getWin b (txnExport q.txn)
  let lines := if q.op = 0x01 then q.lines.length else 1
  w.valid && w.exp && !w.deleting && opAllowed w q.op && q.src == w.peer && txnItag q.txn == w.peerTag.toNat
    && decide (txnLoff q.txn + lines ≤ w.size * 16384)

/-- Local line address of a request's line `k`. -/
def exportLine (b : Block) (q : Pkt) (k : Nat) : Nat := (getWin b (txnExport q.txn)).base * 16384 + txnLoff q.txn + k

/-- Retention entries an LCS holds (Table 1.3). -/
def arcSize : Nat := 4096

/-- Homes of a group under the masks published in the last 20 µs, the current one among them (R186). -/
def recentHomes (b : Block) (exp g : Nat) : List (Option Nat) :=
  (b.fab.mask :: (b.fab.masks.filter (fun e => decide (b.time.toNat ≤ e.1.toNat + 20000))).map (·.2)).map
    (fun m => homeOf b.trust.dom.pkg.toNat exp g m)

/-- An atomic reaches an LCS (R182 to R186): false where it must wait for room in the cache. -/
def atomicArrive (n pair : Nat) (q : Pkt) (b : Block) : Bool × Block :=
  let exp := txnExport q.txn
  let g := txnLoff q.txn / 4
  let who := whoLcs b n
  let fl := pktFlits q.lines.length
  let done := fun (b : Block) => (true, giveFlits n q.vc fl b)
  match q.lines with
  | [] => done (count who (evFab 9) b)
  | (op, _) :: _ =>
    let poisoned := q.poison ≠ 0
    let iinst := txnIinst q.txn
    let reqid := txnReqid q.txn
    if homeOf b.trust.dom.pkg.toNat exp g b.fab.mask ≠ some n then done (count who (evFab 9) b)
    else if !poisoned ∧ (thyme b (getLcs b n).inst).toNat > fieldNat op 255 192 + 8000 then done (count who (evFab 10) b)
    else
      match (getLport b n).arc.find? (fun a => a.src == q.src && a.iinst == iinst && a.reqid == reqid) with
      | some a =>
        if a.pending then done (updArc n q.src iinst reqid (fun x => { x with waiters := x.waiters ++ [(pair, q)] }) b)
        else done (count who (evFab 6) (respond n pair q true a.status a.result (sorrelOf a.result) false false b))
      | none =>
        if arcSize ≤ (getLport b n).arc.length then (false, b)
        else
          let w := getWin b exp
          let line := BitVec.ofNat 45 (exportLine b q 0)
          let ord := (getLport b n).seq
          let e : Arc := { src := q.src, iinst := iinst, reqid := reqid, pending := true, pair := pair, pkt := q, line := line,
                           tag := w.tag, ctx := w.ctx, status := .ok, result := 0, waiters := [], started := false, order := ord }
          let b := updLport n (fun p => { p with arc := p.arc ++ [e], seq := p.seq + 1 }) b
          let fail := fun (st : Status) (b : Block) => endAtomic n q.src iinst reqid st 0 b
          if txnRetry q.txn && (recentHomes b exp g).any (fun h => h != some n && h.isSome) then done (fail .indeterminate b)
          else if poisoned then done (fail (if q.bad ≠ 0 then .sorrelFail else .poison) b)
          else if !exportOk b q then done (fail .notOwner b)
          else done (startAtomic n line b)

/-- A message reaches an LCS (R187): dropped and counted, or written into its slot. -/
def messageArrive (n : Nat) (q : Pkt) (b : Block) : Block :=
  let exp := txnExport q.txn
  let w := getWin b exp
  let loff := txnLoff q.txn
  let fl := pktFlits q.lines.length
  let slot := w.base * 16384 + loff
  if !exportOk b q || loff % 5 != 0 || !decide ((loff / 5 + 1) * 640 ≤ w.size * 2097152) || q.lines.isEmpty then
    giveFlits n q.vc fl (count (whoLcs b n) (evFab 11) b)
  else
    let desc : Line := BitVec.ofNat 1024 (q.src.toNat + (txnItag q.txn <<< 16) + (q.lines.length <<< 24)
      + ((thyme b (getLcs b n).inst).toNat <<< 32))
    deliver n (q.lines.zipIdx.map (fun e =>
      inbOf (.message exp (e.2 + 1) slot desc) false w (slot + e.2 + 1) q.op (if e.2 + 1 = q.lines.length then fl else 0) q.vc
        e.1.1 e.1.2 (q.poison.getLsbD e.2))) b

/-- A request of the REQ class reaches an LCS (R165, R191): false where it must wait for the Atomic Response Cache. A write that brings no
line is answered OK, with nothing delivered: Table 6.2 gives it 1 to 4 lines and says nothing of none (log 124, DESIGN CHOICE). -/
def requestArrive (n pair : Nat) (q : Pkt) (b : Block) : Bool × Block :=
  let fl := pktFlits q.lines.length
  if opAtomic q.op then atomicArrive n pair q b
  else if 0x04 ≤ q.op then (true, giveFlits n q.vc fl (count (whoLcs b n) (evFab 9) b))
  else if !exportOk b q then (true, giveFlits n q.vc fl (respondSt n pair q .notOwner b))
  else
    let w := getWin b (txnExport q.txn)
    if q.op = 0x03 then
      let ord := (getLport b n).seq
      let b := updLport n (fun p => { p with acq := p.acq ++ [(pair, q, ord)], seq := p.seq + 1 }) b
      (true, answerAcquires n (giveFlits n q.vc fl b))
    else if q.op = 0x01 then
      if q.lines.isEmpty then (true, giveFlits n q.vc fl (respondSt n pair q .ok b))
      else
        (true, deliver n (q.lines.zipIdx.map (fun e =>
          inbOf (.write pair q e.2 (q.bad.getLsbD e.2)) false w (exportLine b q e.2) q.op
            (if e.2 + 1 = q.lines.length then fl else 0) q.vc e.1.1 e.1.2 (q.poison.getLsbD e.2))) b)
    else (true, deliver n [inbOf (.read pair q) true w (exportLine b q 0) q.op fl q.vc 0 0 false] b)

/-- The LCS's instance holds an export's entry, or has just read it (R164). -/
def exportKnown (b : Block) (n exp : Nat) : Bool :=
  (getFab b (getLcs b n).inst).tlb.contains exp || (getLport b n).expGot == some exp

/-- A request or a message is looked up by its export and goes on: false where it must wait for the TLB (R164) or the cache (R183). -/
def arrive (n pair : Nat) (q : Pkt) (b : Block) : Bool × Block :=
  let exp := txnExport q.txn
  if !exportKnown b n exp then (false, b)
  else
    let b := updFab (getLcs b n).inst (fun f => if f.tlb.contains exp then { f with tlb := tlbUse exp f.tlb } else f) b
    if q.cls = clsMsg then (true, messageArrive n q b) else requestArrive n pair q b

/-- Packets of a class that waited, in order, as far as they go (R164, R183). -/
def drainReq (n cls : Nat) : Nat → Block → Block
  | 0, b => b
  | f + 1, b =>
    match takeFirst (fun (h : HeldPkt) => h.pkt.cls == cls) (getLport b n).reqWait with
    | none => b
    | some (h, rest) =>
      match arrive n h.pair h.pkt b with
      | (true, b) => drainReq n cls f (updLport n (fun p => { p with reqWait := rest }) b)
      | (false, b) => b

/-- Requests and messages that waited go on as far as they go. -/
def drainArrivals (n : Nat) (b : Block) : Block :=
  let k := (getLport b n).reqWait.length
  drainReq n clsMsg k (drainReq n clsReq k b)

/-- A packet of the REQ or MSG class arrives: behind one that waits it waits with the VC (R164, R183). -/
def takeRequest (n pair : Nat) (q : Pkt) (b : Block) : Block :=
  let b := updLport n (fun p => { p with reqWait := p.reqWait ++ [{ pair := pair, pkt := q }] }) b
  drainReq n q.cls (getLport b n).reqWait.length b

/-- A response reaches an LCS (R176): it completes the entry it names, or is late. A reserved status code is counted, and taken as
ABORTED (R24). -/
def responseArrive (n : Nat) (q : Pkt) (b : Block) : Block :=
  let b := giveFlits n q.vc (pktFlits q.lines.length) b
  let i := rspIinst q.txn
  let reqid := rspReqid q.txn
  let e := reqid % 32768
  let o := getOut b i e
  if !(o.live && reqidOf e o == reqid) then count (whoLcs b n) (evFab 7) b
  else
    let st := statusOf (rspStatus q.txn)
    let b := if 0x14 ≤ rspStatus q.txn then count (whoLcs b n) (evFab 14) b else b
    let st := if q.bad ≠ 0 then statusMin st .sorrelFail else st
    match q.lines with
    | [] => completeReq i e st 0 false (sorrelOf 0) false b
    | (l, c) :: _ => completeReq i e st l (q.poison.getLsbD 0) c (q.origin.getLsbD 0) b

/-! LT_IR and LT_IC. -/

/-- The lowest LT_ identifier that no delivery awaiting completion carries. -/
def freeIrId (p : LPort) : Option (BitVec 12) :=
  (lowestFrom (fun k => !p.inb.any (fun x => x.sent && x.done.isNone && x.id.toNat == k)) 4096 0).map (BitVec.ofNat 12)

/-- LT_IR_TRANSFER (R40, R157): the oldest delivery transfers; its packet's flits go back with its last line. -/
def effLtIrTransfer (n : Nat) (b : Block) : Block :=
  let p := getLport b n
  match p.inb.find? (fun x => !x.sent), freeIrId p with
  | some x, some id =>
    let y := { x with sent := true, id := id }
    let b := updLport n (fun p => { p with inb := updateWhere (fun z => z == x) (fun _ => y) p.inb, lastIr := some y }) b
    if x.flits = 0 then b else giveFlits n x.vc x.flits b
  | _, _ => b

/-- Take a completed delivery away. -/
def dropInb (n : Nat) (x : Inb) (b : Block) : Block := updLport n (fun p => { p with inb := p.inb.filter (fun y => y != x) }) b

/-- A line of a packet is done; once all are, the deliveries go and the lowest-ranked status is known (R178, R187). -/
def lineDone (n : Nat) (x : Inb) (st : Status) (whole : Status → Block → Block) (b : Block) : Block :=
  let b := updLport n (fun p => { p with inb := updateWhere (fun y => y == x) (fun y => { y with done := some st }) p.inb }) b
  let mine := (getLport b n).inb.filter (fun y => y.order == x.order)
  if mine.all (fun y => y.done.isSome) then
    whole (statusWorst (mine.filterMap (fun y => y.done)))
      (updLport n (fun p => { p with inb := p.inb.filter (fun y => y.order != x.order) }) b)
  else b

/-- The home computes an atomic on the line read and writes it back (R181, R182); two copies of an exact-add that disagree end it
(R238). -/
def atomCompute (n : Nat) (a : Arc) (line : Line) (hw : HwFault) (b : Block) : Block :=
  match a.pkt.lines with
  | [] => b
  | (op, _) :: _ =>
    let put := fun (new : Line) (st : Status) (res : Line) (b : Block) =>
      let b := updArc n a.src a.iinst a.reqid (fun x => { x with status := st, result := res }) b
      let w := getWin b (txnExport a.pkt.txn)
      let x := inbOf (.atomWrite a.src a.iinst a.reqid) false w a.line.toNat a.pkt.op 0 a.pkt.vc new (sorrelOf new) false
      deliver n [{ x with tag := a.tag, ctx := a.ctx }] b
    if a.pkt.op = 0x10 then
      let (f, b) := forced true n 3 b
      let dual := (getLcs b n).dual && (hw == .dualData || hw == .dualMac)
      let b := if dual then covLcs n 5 1 b else b
      if f || dual then endAtomic n a.src a.iinst a.reqid .residueFail 0 (integrity (getLcs b n).inst a.tag .residue b)
      else
        let b := countOdd (whoLcs b n) (lineByte op 21) line b
        let r := exactAdd (BitVec.ofNat 8 (lineByte op 20)) (lineByte op 21) (BitVec.ofNat 1024 (fieldNat op 895 512)) line
        put r.1 (if r.2 then .inexact else .ok) 0 b
    else
      let r := intAtomic a.pkt.op line op
      put r.1 .ok r.2 b

/-- A local line of a step arrives (R223, Table 7.12); one that the step has given up, or holds already, is dropped. -/
def gotLocal (n k sidx j : Nat) (c : LtIc) (b : Block) : Block :=
  match getInv b k with
  | none => b
  | some v =>
    if statusFailing c.status then endInv k c.status b
    else if c.poison then endInv k .poison b
    else
      let (f, b) := forced true n 2 b
      if f || sorrelOf c.data != c.sorrel then endInv k .sorrelFail (integrity (getLcs b n).inst v.tag .sorrel (covLcs n 4 1 b))
      else
        let xp := match planById b v.plan with
          | some p => ((p.steps[sidx]?).map stLocXp).getD false
          | none => false
        if xp && !xpLresOk c.data then residueFail n k b
        else
          let b := if xp then countOdd (whoLcs b n) 6 c.data b else b
          updRun k sidx (fun r =>
            if j < r.locAsk ∧ r.loc.all (fun e => e.1 != j) then { r with loc := r.loc ++ [(j, { data := c.data, inex := false })] } else r) b

/-- A delivery completes on LT_IC (R40, R175, R178, R182, R187, R219, Table 8.2). -/
def completeInb (n : Nat) (x : Inb) (c : LtIc) (hw : HwFault) (b : Block) : Block :=
  let i := (getLcs b n).inst
  match x.use with
  | .read pair q =>
    let b := dropInb n x b
    let (f, b) := if c.poison then (false, b) else forced true n 2 b
    let bad := !c.poison && (f || sorrelOf c.data != c.sorrel)
    let b := if bad then integrity i x.tag .sorrel (covLcs n 2 1 b) else b
    let po := c.poison || bad
    let st := if bad then statusMin c.status .sorrelFail else c.status
    respond n pair q false st (if po then 0 else c.data) (if po then sorrelOf 0 else c.sorrel) c.sorigin po b
  | .write pair q _ bad =>
    lineDone n x (if bad then .sorrelFail else c.status) (fun st b => respondSt n pair q st b) b
  | .message exp _ slot desc =>
    lineDone n x c.status (fun _ b =>
      deliver n [inbOf (.descriptor exp) false (getWin b exp) slot 0x18 0 x.vc desc (sorrelOf desc) false] b) b
  | .descriptor _ => dropInb n x b
  | .atomRead src iinst reqid =>
    let b := dropInb n x b
    match (getLport b n).arc.find? (fun a => a.src == src && a.iinst == iinst && a.reqid == reqid && a.pending) with
    | none => b
    | some a =>
      if statusFailing c.status then endAtomic n src iinst reqid c.status 0 b
      else if c.poison then endAtomic n src iinst reqid .poison 0 b
      else if sorrelOf c.data != c.sorrel then
        endAtomic n src iinst reqid .sorrelFail 0 (integrity i x.tag .sorrel (covLcs n 4 1 b))
      else atomCompute n a c.data hw b
  | .atomWrite src iinst reqid =>
    let b := dropInb n x b
    match (getLport b n).arc.find? (fun a => a.src == src && a.iinst == iinst && a.reqid == reqid && a.pending) with
    | none => b
    | some a => endAtomic n src iinst reqid (if statusFailing c.status then c.status else a.status) a.result b
  | .stepWrite k sidx _ _ =>
    let b := dropInb n x b
    if (getInv b k).isNone then b
    else if statusFailing c.status then endInv k c.status b
    else checkStep k sidx (updRun k sidx (fun r => { r with writes := r.writes - 1 }) b)
  | .stepRead k sidx j => gotLocal n k sidx j c (dropInb n x b)

/-- LT_IC_COMPLETION (R40). -/
def effLtIcCompletion (n : Nat) (c : LtIc) (hw : HwFault) (b : Block) : Block :=
  match (getLport b n).inb.find? (fun x => x.sent && x.done.isNone && x.id == c.id) with
  | some x => answerAcquires n (completeInb n x c hw b)
  | none => b

/-- A delivery that asks memory for a local line of a step. -/
def asksFor (k sidx : Nat) (x : Inb) : Bool :=
  x.sent && (match x.use with
    | .stepRead k' s _ => k' == k && s == sidx
    | _ => false)

/-- OPERAND_PREFETCH_RETURN (R223): the oldest local line a step has asked for returns. -/
def effOperandPrefetchReturn (k sidx : Nat) (data : Line) (poison : Bool) (status : Status) (sorrel : BitVec 32) (b : Block) : Block :=
  match b.lport.find? (fun e => e.2.inb.any (asksFor k sidx)) with
  | some (n, p) =>
    match p.inb.find? (asksFor k sidx) with
    | some x => completeInb n x { id := x.id, data := data, poison := poison, status := status, sorrel := sorrel, sorigin := false } .none b
    | none => b
  | none => b

/-- ARC_ENTRY_EXPIRY (R183): an entry past its retention frees, and packets that waited for room go on. -/
def effArcEntryExpiry (n : Nat) (src : Pkg) (iinst : BitVec 7) (reqid : BitVec 32) (b : Block) : Block :=
  let mine := fun (a : Arc) => a.src == src && a.iinst == iinst.toNat && a.reqid == reqid.toNat && !a.pending
  if (getLport b n).arc.any mine then
    let b := updLport n (fun p => { p with arc := p.arc.filter (fun a => !mine a) }) b
    drainArrivals n b
  else b

end Sys2Proof.Machine
end

