-- ==== Sys2Proof/Machine/Fabric.lean ====
section
/-! DEFINITION. The initiator's side of fabric transactions (06): requests on LT_OR, translation, staging, path changes,
bounds, resends and Acquire. -/

namespace Sys2Proof.Machine

/-! Checks of a request (R164, R165, R167, R192). -/

/-- CONT of a transfer's ATTR (R167). -/
def contOf (x : LtOr) : Nat := fieldNat x.attr 1 0

/-- The transfers after the head follow R167: same ID, decreasing CONT, one line above. -/
def followOk : LtOr → List LtOr → Bool
  | _, [] => true
  | h, x :: t => x.id == h.id && contOf x + 1 == contOf h && x.addr.toNat == h.addr.toNat + 1 && followOk x t

/-- R167, R181: what breaks a request whatever its window. -/
def syntaxBad (xs : List LtOr) : Bool :=
  match xs with
  | [] => true
  | h :: t =>
    let op := h.op.toNat
    !opDefined op || (contOf h != 0 && op != 0x01 && op != 0x18) || !(xs.all (fun x => fieldNat x.attr 15 2 == 0))
      || !followOk h t || (opAtomic op && !operandLegal op h.data)

/-- The valid import a request hits (R164). -/
def importHit (b : Block) (k : Nat) (x : LtOr) : Bool :=
  let w := getWin b k
  let l := x.addr.toNat
  w.valid && !w.exp && !w.deleting && w.tag == x.tag && decide (w.base * 16384 ≤ l ∧ l < (w.base + w.size) * 16384)

/-- A packet's lines lie in one aligned group of four, or a message's in one slot of five (R167, R187). -/
def linesFit (op lo hi : Nat) : Bool := lo / 4 == hi / 4 || (op == 0x18 && lo / 5 == hi / 5)

/-- R165, R167, R192, R41: a translated request, R25 selecting. -/
def transBad (b : Block) (i k : Nat) (xs : List LtOr) : List Status :=
  let w := getWin b k
  match xs with
  | [] => [.badConfig]
  | h :: _ =>
    let op := h.op.toNat
    let loff := h.addr.toNat - w.base * 16384
    (if servingOf b w.base w.size = some i then [] else [Status.badConfig])
    ++ (if opAllowed w op then [] else [Status.notOwner])
    ++ (if b.fab.span && (op == 0x00 || op == 0x03) then [Status.badConfig] else [])
    ++ (if xs.all (fun x => decide (x.addr.toNat < (w.base + w.size) * 16384)) then [] else [Status.notOwner])
    ++ (if linesFit op loff (loff + xs.length - 1) then [] else [Status.badConfig])

/-- Lines of a request with their check values, the origin and poison bits and the status of the egress check
(Table 8.2). The ORIGIN bit of a line that fails its check still says how it came (R233; log 123). -/
def egressLines (i n : Nat) (xs : List LtOr) (b : Block) : List (Line × BitVec 32) × BitVec 4 × BitVec 4 × Status × Block :=
  xs.zipIdx.foldl (fun a e =>
    let (ls, og, po, st, b) := a
    let x := e.1
    let bit := BitVec.ofNat 4 (2 ^ e.2)
    if x.svalid then
      let (f, b) := forced true n 2 b
      if f || sorrelOf x.data != x.sorrel then
        (ls ++ [((0 : Line), sorrelOf 0)], og ||| bit, po ||| bit, .sorrelFail, integrity i x.tag .sorrel (covLcs n 2 1 b))
      else (ls ++ [(x.data, x.sorrel)], og ||| bit, po, st, b)
    else (ls ++ [(x.data, sorrelOf x.data)], og, po, st, b)) ([], 0, 0, Status.ok, b)

/-! Staging (R170, R174, R176). -/

/-- New requests to a destination wait for those on an earlier path, and behind those that already wait (R174). -/
def pathHolds (b : Block) (i : Nat) (d : Pkg) : Bool :=
  let sig := pathSig b i d
  (getFab b i).outst.any (fun e => e.2.live && !e.2.waiting && e.2.dst == d && e.2.path != sig)
    || (getEsb b i).staged.any (fun s => s.held && s.pkt.dst == d)

/-- What staging a request answers: done, or a wait on the port for cells or an outstanding entry. -/
inductive Launch where
  | done (b : Block)
  | wait (why : LtWait)
  deriving Repr

/-- The import that a request reaches. -/
def importOf (b : Block) (xs : List LtOr) : Option Nat :=
  xs.head?.bind (fun h => (b.fab.table.find? (fun e => importHit b e.1 h)).map (·.1))

/-- Two requests touch one line of one target package (R189). -/
def sameLine (b : Block) (xs ys : List LtOr) : Bool :=
  let place := fun (l : List LtOr) => match l, importOf b l with
    | h :: _, some k => some (getWin b k, h.addr.toNat - (getWin b k).base * 16384)
    | _, _ => none
  match place xs, place ys with
  | some (w, x), some (v, y) => w.peer == v.peer && w.peerExp == v.peerExp && decide (x < y + ys.length ∧ y < x + xs.length)
  | _, _ => false

/-- An earlier request to one of a request's lines is still held on an LT_ port (R189). -/
def lineBlocked (b : Block) (i seq : Nat) (xs : List LtOr) : Bool :=
  (getFab b i).held.any (fun h => decide (h.seq < seq) && sameLine b h.xfers xs)

/-- An earlier request of the same tag through the same import is outstanding, or held on an LT_ port (R191). -/
def acquireBlocked (b : Block) (i win : Nat) (tag : Tag) (order : Nat) : Bool :=
  (getFab b i).outst.any (fun e => e.2.live && e.2.win == win && e.2.tag == tag && decide (e.2.order < order))
    || (getFab b i).held.any (fun h => decide (h.seq < order) && h.xfers.head?.any (fun x => x.tag == tag) && importOf b h.xfers == some win)

/-- Stage an Acquire that waited, or a request, for an entry that is already taken. -/
def stageEntry (i e n home : Nat) (pkt : Pkt) (tag : Tag) (held : Bool) (b : Block) : Option Block :=
  let s : Staged := { lcs := n, pkt := pkt, shared := false, entry := some e, tag := tag, held := held }
  (stageNow i s false b).map (fun b => updOut i e (fun o =>
    { o with lcs := n, home := home, path := pathSig b i pkt.dst, sends := o.sends + 1, waiting := false, pkt := some pkt }) b)

/-- Send a translated request on its way (R165, R170 to R176, R179), once no earlier one to its line waits (R189). -/
def launch (i port : Nat) (xs : List LtOr) (k order : Nat) (b : Block) : Launch :=
  match xs with
  | [] => .done b
  | h :: _ =>
    let w := getWin b k
    let op := h.op.toNat
    let d := w.peer
    let loff := h.addr.toNat - w.base * 16384
    let g := loff / 4
    let cls := if op = 0x18 then clsMsg else clsReq
    let fin' := fun (st : Status) (b : Block) => ocPlain i port h.id op st b
    if lineBlocked b i order xs then .wait .order
    else if b.fab.dead.contains d then .done (raise i 5 (fin' .outOfService b))
    else if (esbClass (getEsb b i) cls).en = false then .done (fin' .badConfig b)
    else
      match choosePath b i d w.peerExp g with
      | none => .done (fin' .outOfService b)
      | some (n, home) =>
        let carries := op == 0x01 || op == 0x18 || opAtomic op
        let held := pathHolds b i d
        if op = 0x18 then
          let (ls, og, po, st, b) := egressLines i n xs b
          let pkt := reqPkt b i op d n home w.peerExp loff h.tag false 0 ls og po
          let (r, b) := admitMsg i { lcs := n, pkt := pkt, shared := false, entry := none, tag := h.tag, held := held } b
          .done (fin' (statusMin st r) b)
        else
          match lowestFrom (fun e => !(getOut b i e).live) 32768 0 with
          | none => .wait .table
          | some e =>
            let reqid := reqidOf e (getOut b i e)
            let take := fun (st : Status) (b : Block) =>
              updOut i e (fun o =>
                { o with live := true, port := port, id := h.id, op := op, win := k, dst := d, tag := h.tag, ctx := h.ctx,
                         layer := h.layer, opid := h.opid, group := g, order := order, st := st, sends := 0, waiting := false }) b
            if op = 0x03 ∧ acquireBlocked b i k h.tag order = true then
              let pkt := reqPkt b i op d n home w.peerExp loff h.tag false reqid [] 0 0
              .done (updOut i e (fun o => { o with waiting := true, pkt := some pkt }) (take .ok b))
            else
              let (ls, og, po, st, b') := if carries then egressLines i n xs b else ([], 0, 0, Status.ok, b)
              let pkt := reqPkt b i op d n home w.peerExp loff h.tag false reqid ls og po
              match stageEntry i e n home pkt h.tag held (take st b') with
              | none => .wait .cells
              | some b =>
                let b := count (whoOr i port h) (evFab (if op = 0x01 then 1 else if opAtomic op then 2 else 0)) b
                .done (if op = 0x01 then fin' st b else b)

/-- A request with its window known: judged and sent, or held on its port. -/
def proceed (i port : Nat) (xs : List LtOr) (k seq : Nat) (b : Block) : Block :=
  match xs with
  | [] => b
  | h :: _ =>
    match transBad b i k xs with
    | [] =>
      match launch i port xs k seq b with
      | .done b => b
      | .wait why => updFab i (fun f => { f with held := f.held ++ [{ port := port, seq := seq, xfers := xs, why := why, win := some k }] }) b
    | l =>
      let st := statusWorst l
      let b := if servingOf b (getWin b k).base (getWin b k).size = some i then b else portError (whoOr i port h) 8 b
      ocPlain i port h.id h.op.toNat st b

/-- The LCS of an LT_ port. -/
def portLcs (b : Block) (i port : Nat) : Nat := (getInst b i).lcsBase + port

/-- LT_OR_REQUEST (R165 to R170, R176, R189): the request's transfers as the port takes them, head first; READY is low while the
outstanding table is full. -/
def effLtOrRequest (i port : Nat) (xfers : List LtOr) (b : Block) : Block :=
  match xfers with
  | [] => b
  | h :: _ =>
    let xs := xfers.take (contOf h + 1)
    let f := getFab b i
    if !(getInst b i).released || !decide (port < (getInst b i).nLcs) || b.bay.state == 1 || b.bay.softDue.contains (i, false) || f.held.any (fun x => x.port == port)
        || xs.length != contOf h + 1 then b
    else if (lowestFrom (fun e => !(getOut b i e).live) 32768 0).isNone then b
    else
      let seq := f.order
      let b := updFab i (fun f => { f with order := f.order + 1 }) b
      match tagGate b h.tag with
      | some st => ocPlain i port h.id h.op.toNat st (portError (whoOr i port h) 9 b)
      | none =>
        if syntaxBad xs then ocPlain i port h.id h.op.toNat .badConfig (portError (whoOr i port h) 8 b)
        else
          match f.tlb.find? (fun k => importHit b k h) with
          | some k => proceed i port xs k seq (updFab i (fun f => { f with tlb := tlbUse k f.tlb }) b)
          | none =>
            count (whoOr i port h) (evFab 3)
              (updFab i (fun f => { f with held := f.held ++ [{ port := port, seq := seq, xfers := xs, why := .tlb, win := none }] }) b)

/-- The export that the oldest request or message of a class of an LCS waits for (R164). -/
def exportAsked (b : Block) (n : Nat) : Option Nat :=
  [clsReq, clsMsg].findSome? (fun c =>
    (((getLport b n).reqWait.find? (fun h => h.pkt.cls == c)).map (fun h => txnExport h.pkt.txn)).filter (fun e => !exportKnown b n e))

/-- The entry of an export reaches the LCS that waits for it (R164); where it is not valid, what waits is judged by that. -/
def exportFill (i n exp : Nat) (b : Block) : Block :=
  let b := if (getWin b exp).valid && (getWin b exp).exp then updFab i (fun f => { f with tlb := tlbUse exp f.tlb }) b else b
  updLport n (fun x => { x with expGot := none }) (drainArrivals n (updLport n (fun x => { x with expGot := some exp }) b))

/-- TLB_MISS_FILL (R164): the window entry read from the PP, or none, reaches the request that waits on the LT_ port, else what waits
for its export at the port's LCS. -/
def effTlbMissFill (i port : Nat) (b : Block) : Block :=
  match (getFab b i).held.find? (fun x => x.port == port && x.why == .tlb) with
  | none =>
    match exportAsked b (portLcs b i port) with
    | some e => exportFill i (portLcs b i port) e b
    | none => b
  | some w =>
    let b := updFab i (fun f => { f with held := f.held.filter (fun x => x != w) }) b
    match w.xfers with
    | [] => b
    | h :: _ =>
      match b.fab.table.find? (fun e => importHit b e.1 h) with
      | some (k, _) => proceed i port w.xfers k w.seq (updFab i (fun f => { f with tlb := tlbUse k f.tlb }) b)
      | none => ocPlain i port h.id h.op.toNat .notOwner (portError (whoOr i port h) 9 b)

/-- LT_OC_TRANSFER (R170): the oldest completion of the port. -/
def effLtOcTransfer (i port : Nat) (b : Block) : Block :=
  match takeFirst (fun e => e.1 == port) (getFab b i).oc with
  | some (e, r) => updFab i (fun f => { f with oc := r, lastOc := some e.2 }) b
  | none => b

/-- ESB_ADMISSION (R148): a request held on an LT_ port for cells or an entry, and packets of the block's own
sources, are admitted once they fit. -/
def effEsbAdmission (i port : Nat) (b : Block) : Block :=
  if b.bay.state = 1 then b
  else
    let b := stageWaiting i b
    match (getFab b i).held.find? (fun x => x.port == port && x.why != .tlb) with
    | some { xfers := xs, win := some k, seq := seq, .. } =>
      match launch i port xs k seq b with
      | .done b => updFab i (fun f => { f with held := f.held.filter (fun x => x.port != port) }) b
      | .wait _ => b
    | _ => b

/-! Path changes (R174). -/

/-- Send the packet of a request by the path now in force. -/
def repath (i : Nat) (s : Staged) (b : Block) : Block :=
  let g := txnLoff s.pkt.txn / 4
  match choosePath b i s.pkt.dst (txnExport s.pkt.txn) g with
  | none =>
    let b := updEsb i (fun e => { e with staged := e.staged.filter (fun x => x != s) }) b
    match s.entry with
    | some e => completeReq i e .outOfService 0 true 0 false b
    | none => b
  | some (n, home) =>
    let pkt := { s.pkt with srcLcs := n, dstLcs := home }
    let b := updEsb i (fun e => { e with staged := updateWhere (fun x => x == s) (fun x => { x with lcs := n, pkt := pkt, held := false }) e.staged }) b
    match s.entry with
    | some e => updOut i e (fun o => { o with lcs := n, home := home, path := pathSig b i pkt.dst, pkt := some pkt }) b
    | none => b

/-- PATH_CHANGE_RELEASE (R174): once no request to the destination is outstanding on an earlier path. -/
def effPathChangeRelease (i : Nat) (d : Pkg) (b : Block) : Block :=
  let held := (getEsb b i).staged.filter (fun s => s.held && s.pkt.dst == d)
  let mine := fun (e : Nat) => held.any (fun s => s.entry == some e)
  let sig := pathSig b i d
  if (getFab b i).outst.any (fun e => e.2.live && !e.2.waiting && e.2.dst == d && e.2.path != sig && !mine e.1) then b
  else held.foldl (fun b s => repath i s b) b

/-! Bounds and resends (R177, R178, R185). -/

/-- READ_TIMEOUT (R177). -/
def effReadTimeout (i e : Nat) (b : Block) : Block :=
  let o := getOut b i e
  if o.live && !o.waiting && (o.op == 0x00 || o.op == 0x02 || o.op == 0x03) then
    completeReq i e .timeout 0 false 0 false (count { inst := i, tag := some o.tag, layer := o.layer, opid := o.opid } (evFab 4) b)
  else b

/-- WRITE_TIMEOUT (R178). -/
def effWriteTimeout (i e : Nat) (b : Block) : Block :=
  let o := getOut b i e
  if o.live && o.op == 0x01 then
    completeReq i e .timeout 0 false 0 false (count { inst := i, tag := some o.tag, layer := o.layer, opid := o.opid } (evFab 4) b)
  else b

/-- ATOMIC_RESEND (R185): RETRY = 1, the same REQID, by the path and home in force; at most twice. -/
def effAtomicResend (i e : Nat) (b : Block) : Block :=
  let o := getOut b i e
  match o.pkt with
  | none => b
  | some q =>
    if !o.live || !opAtomic o.op || o.sends = 0 || 3 ≤ o.sends then b
    else
      match choosePath b i o.dst (txnExport q.txn) o.group with
      | none => updOut i e (fun o => { o with sends := o.sends + 1 }) b
      | some (n, home) =>
        let q := { q with srcLcs := n, dstLcs := home, txn := q.txn ||| BitVec.ofNat 96 (2 ^ 63) }
        let b := updOut i e (fun o => { o with sends := o.sends + 1, lcs := n, home := home, path := pathSig b i o.dst, pkt := some q }) b
        stageOrWait i { lcs := n, pkt := q, shared := false, entry := some e, tag := o.tag, held := false } b

/-- ATOMIC_INDETERMINATE (R185). -/
def effAtomicIndeterminate (i e : Nat) (b : Block) : Block :=
  let o := getOut b i e
  if o.live && opAtomic o.op then
    completeReq i e .indeterminate 0 false 0 false (count { inst := i, tag := some o.tag, layer := o.layer, opid := o.opid } (evFab 5) b)
  else b

/-- ACQUIRE (R191): the held Acquire is sent once every earlier request of its tag through its import has completed. -/
def effAcquire (i e : Nat) (b : Block) : Block :=
  let o := getOut b i e
  match o.pkt with
  | none => b
  | some q =>
    if !(o.live && o.waiting) || acquireBlocked b i o.win o.tag o.order then b
    else if b.fab.dead.contains o.dst then raise i 5 (completeReq i e .outOfService 0 true 0 false b)
    else
      match choosePath b i o.dst (txnExport q.txn) o.group with
      | none => completeReq i e .outOfService 0 true 0 false b
      | some (n, home) =>
        let q := { q with srcLcs := n, dstLcs := home }
        (stageEntry i e n home q o.tag (pathHolds b i o.dst) b).getD b

end Sys2Proof.Machine
end

