-- ==== Sys2Proof/Machine/Fuses.lean ====
section
/-! DEFINITION. Fuses as they are read (R365 to R367) and the package's own evidence (R279, R284). -/

namespace Sys2Proof.Machine

/-- An OTP word as sensed or last programmed. -/
def otpWord (b : Block) (w : Nat) : BitVec 32 := Sparse.get 0 b.otp.words w

/-- Whether every bit of a code is set in the low 24 bits of a word (R366). -/
def codeSet (x : BitVec 32) (code : Nat) : Bool := x.toNat % 2 ^ 24 &&& code == code

/-- The floor of a life-cycle copy (R366, Table 13.2): 0 BLANK to 3 EOL. -/
def lcFloor (x : BitVec 32) : Nat :=
  if codeSet x 0xFFFFFF then 3 else if codeSet x 0xFFFF then 2 else if codeSet x 0xFF then 1 else 0

/-- The median of three floors. -/
def median (x y z : Nat) : Nat := max (min x y) (min (max x y) z)

/-- Codes of Table 13.2. -/
def lcOf : Nat → Lc
  | 0 => .blank | 1 => .test | 2 => .prod | _ => .eol
def lcNum : Lc → Nat
  | .blank => 0 | .test => 1 | .prod => 2 | .eol => 3
def lcWord : Lc → Nat
  | .blank => 0 | .test => 0xFF | .prod => 0xFFFF | .eol => 0xFFFFFF

/-- The decoded life-cycle state and intent; an intent below the state is the state (R366). -/
def decodedLc (b : Block) : Nat := median (lcFloor (otpWord b 0)) (lcFloor (otpWord b 1)) (lcFloor (otpWord b 2))
def decodedIntent (b : Block) : Nat :=
  max (decodedLc b) (median (lcFloor (otpWord b 3)) (lcFloor (otpWord b 4)) (lcFloor (otpWord b 5)))

/-- A field written once through two banks (R367, Table 13.1): its first status word, first data word, words from bank to bank
and length. -/
structure OtpField where
  status : Nat
  data   : Nat
  stride : Nat
  len    : Nat
  deriving DecidableEq, Repr

def fSerial : OtpField := { status := 0x008, data := 0x010, stride := 2, len := 2 }
def fRoots : OtpField := { status := 0x00A, data := 0x020, stride := 16, len := 16 }
def fOpr : OtpField := { status := 0x00C, data := 0x040, stride := 16, len := 12 }
def fLkey : OtpField := { status := 0x00E, data := 0x060, stride := 16, len := 12 }

/-- The status of a bank: 0 EMPTY, 1 STARTED, 2 DONE, 3 VOID (R367). -/
def bankStatus (b : Block) (f : OtpField) (k : Nat) : Nat := lcFloor (otpWord b (f.status + k))

/-- The field's DONE bank, bank 0 preferred. -/
def doneBank (b : Block) (f : OtpField) : Option Nat := lowestFrom (fun k => bankStatus b f k == 2) 2 0

/-- The bank that a write takes: the first EMPTY one. -/
def emptyBank (b : Block) (f : OtpField) : Option Nat := lowestFrom (fun k => bankStatus b f k == 0) 2 0

/-- The field's value, word 0 lowest; 0 where it is unfused. -/
def otpField (b : Block) (f : OtpField) : Nat :=
  match doneBank b f with
  | some k => (List.range f.len).foldr (fun j a => (otpWord b (f.data + f.stride * k + j)).toNat + 2 ^ 32 * a) 0
  | none => 0

/-- The bits of consecutive words from bit 0 upward. -/
def otpBits (b : Block) (first n : Nat) : List Bool :=
  (List.range n).flatMap (fun k => (List.range 32).map (fun j => (otpWord b (first + k)).getLsbD j))

/-- A thermometer's count (R365). -/
def thermo (b : Block) (first n : Nat) : Nat := ((otpBits b first n).takeWhile id).length

/-- Anti-rollback count and scan-log count. -/
def arbCount (b : Block) : Nat := thermo b 0x080 8
def scanCount (b : Block) : Nat := thermo b 0x088 2

/-- A field as a digest. -/
def otpDigest (b : Block) (f : OtpField) : Digest := BitVec.ofNat 384 (otpField b f)

/-- Self-test result of unit `u` of an instance (BST_UNIT). -/
def bstOf (b : Block) (i u : Nat) : Bst := Sparse.get {} b.boot.bst (16 * i + u)

/-- An instance passes: neither its base, nor its primary logic, nor its ESB failed (R379). -/
def instPass (b : Block) (i : Nat) : Bool := [0, 1, 2].all (fun u => (bstOf b i u).result != 2)

/-- The running firmware's digest and the Layout Image's. -/
def fwDigest (b : Block) : Digest := match b.boot.fw with | some f => digestOf f.2.bytes | none => 0
def layoutDigest (b : Block) : Digest := match b.boot.layout with | some l => digestOf l.bytes | none => 0

/-- Block 0x07: the Sealed Store opened with a set that verified (R273). -/
def storeGood (b : Block) : Bool := b.keys.store.isOpen && !b.keys.store.failed

/-- What this package's own evidence shows (R282), with the bytes of its chains and of its signed response. -/
def ownEvidence (b : Block) (certs resp : Bytes) (nonce : Key) : Evidence :=
  { chainOk := true, ek := importKey b, nonce := nonce, fwHash := fwDigest b, arb := arbCount b, layoutHash := layoutDigest b,
    lcState := BitVec.ofNat 2 (lcNum b.otp.lc), debug := b.boot.debug,
    ppPass := (ppInst b).any (fun i => instPass b i), storeOpen := storeGood b, storeSeq := b.keys.store.seq,
    importGen := b.keys.mint.importGen, certs := certs, resp := resp }

end Sys2Proof.Machine
end

