-- ==== Sys2Proof/Machine/Measure.lean ====
section
/-! DEFINITION. Measurements (R279, Table 10.3): the blocks 0x01 to 0x0A, and a measurement response with block 0x20. -/

namespace Sys2Proof.Machine

/-- Tamper latches of the armed dies (R400). -/
def allLatches (b : Block) : BitVec 9 := (b.inst.filter (fun e => e.2.ao.armed)).foldl (fun a e => a ||| e.2.ao.latch) 0

/-- Slices of an instance that are held in reset by a failed self-test. -/
def heldSlices (b : Block) (i : Nat) : Nat :=
  (b.mcs.filter (fun m => m.2.present && m.2.inst == i && (m.2.state == .down || m.2.state == .carried))).length
    + (b.lcs.filter (fun l => l.2.present && l.2.inst == i && l.2.state == .outOfService)).length

/-- Block 0x05's line of an instance. -/
def measInst (b : Block) (i : Nat) (s : Inst) : MeasInst :=
  let mcs := (List.range 32).filter (fun n => (getMcs b n).present && (getMcs b n).inst == i && ((getMcs b n).state == .inService || (getMcs b n).state == .carrying))
  let lcs := (List.range 64).filter (fun n => lcsIn b n && (getLcs b n).inst == i)
  { num := s.num, role := s.role, nMcs := s.nMcs, nLcs := s.nLcs, mcs := BitVec.ofNat 32 (mcs.foldl (fun a n => a + 2 ^ n) 0),
    lcs := BitVec.ofNat 64 (lcs.foldl (fun a n => a + 2 ^ n) 0) }

/-- Blocks 0x01 to 0x0A. -/
def measOf (b : Block) : Meas :=
  let d := b.trust.dom
  let built := b.inst.filter (fun e => e.2.built)
  { rom := Config.romHash, fwSvn := match b.boot.fw with | some f => f.2.svn | none => 0,
    fwSlot := match b.boot.fw with | some f => f.1 | none => false, fwHash := fwDigest b, arb := arbCount b, layout := layoutDigest b,
    lc := b.otp.lc, debug := b.boot.debug, subst := b.boot.debug, latches := allLatches b,
    insts := built.map (fun e => measInst b e.1 e.2), standbyLost := b.fo.lost,
    basil := built.map (fun e => (e.2.num, instPass b e.1, heldSlices b e.1)), scan := scanCount b, storeSeq := b.keys.store.seq,
    storeOpen := storeGood b, importGen := b.keys.mint.importGen, importKey := importKey b, domain := d.id, policy := d.polHash,
    role := d.role, pkg := d.pkg, t0 := d.t0, epoch := d.epoch, domStandbyLost := d.standby.isSome && d.stdLost }

/-- The blocks of Table 10.3 in order. What a raw block's bytes are is left open but for block 0x09. -/
def measBlocks (m : Meas) : List MeasBlock :=
  let raw := fun k l => ({ index := k, raw := true, value := Config.rawBlock k l } : MeasBlock)
  [{ index := 1, raw := false, value := leBytes 48 m.rom.toNat },
   raw 2 [m.fwSvn, m.fwSlot.toNat, m.fwHash.toNat, m.arb],
   { index := 3, raw := false, value := leBytes 48 m.layout.toNat },
   raw 4 [lcNum m.lc, Bool.toNat m.debug, m.subst.toNat, m.latches.toNat],
   raw 5 (m.standbyLost.toNat :: m.insts.flatMap (fun x => [x.num, match x.role with
     | .none => 0 | .pp => 1 | .sp => 2 | .di => 3, x.nMcs, x.nLcs, x.mcs.toNat, x.lcs.toNat])),
   raw 6 (m.scan :: m.basil.flatMap (fun x => [x.1, x.2.1.toNat, x.2.2])),
   raw 7 [m.storeSeq.toNat, m.storeOpen.toNat],
   raw 8 [m.importGen.toNat, (ekDigest m.importKey).toNat],
   { index := 9, raw := true, value := leBytes 1568 m.importKey.toNat },
   raw 10 [m.domain.toNat, m.policy.toNat, match m.role with
     | .member => 0 | .dka => 1 | .standby => 2 | .fenced => 3, m.pkg.toNat, m.t0.toNat, m.epoch, m.domStandbyLost.toNat]]

/-- The blocks that an index asks for: 0 their number only, 0xFF all, else one. -/
def blocksFor (index : Nat) (m : Meas) : List MeasBlock :=
  if index = 0xFF then measBlocks m else (measBlocks m).filter (fun x => x.index == index)

/-- The bytes of a measurement response, before the signature. -/
def respBytes (index : Nat) (nonce : Key) (l : List MeasBlock) : Bytes := Config.spdmBytes 1 [index, nonce.toNat, l.length] ++ l.flatMap blockBytes

/-- A measurement response (R279). Signed, it carries block 0x20, the layout alias's ML-DSA-87 signature over the SHA-384 of the response
without it, and the alias's ECDSA signature over all of it. -/
def measResponse (index : Nat) (signed : Bool) (nonce : Key) (b : Block) : SpdmRsp × Block :=
  let m := measOf b
  let l := blocksFor index m
  if signed then
    let (n, b) := fresh b
    let (k, b) := fresh b
    let all := l ++ [{ index := 0x20, raw := true, value := leBytes 4627 (aliasDsa b (respBytes index nonce l) n).toNat }]
    (.measurements index m all (some (nonce, aliasEc b (respBytes index nonce all) k)), b)
  else (.measurements index m l none, b)

/-- The bytes of a signed response (R292). -/
def respText (r : SpdmRsp) : Bytes :=
  match r with
  | .measurements index _ l (some (nonce, sig)) => respBytes index nonce l ++ leBytes 96 sig.toNat
  | _ => []

end Sys2Proof.Machine
end

