-- ==== Sys2Proof/Machine/Domain.lean ====
section
/-! DEFINITION. The trust domain (R280 to R299): admission, bindings, pairs, authority and standby, epochs. -/

namespace Sys2Proof.Machine

/-! Messages (R283). -/

/-- A discarded domain message is counted. -/
def domDrop (b : Block) : Block := count { inst := (primaryInst b).getD 0 } (evBay 5) b

/-- An admitted binding with the identity and package of a message's sender. -/
def boundSender (b : Block) (h : DomHdr) : Bool :=
  b.trust.dom.binds.any (fun e => e.2.state == .admitted && e.2.ident == h.ident && e.2.pkg == h.sender)

/-- The sender is the authority this package follows, or its standby. -/
def fromAuth (b : Block) (h : DomHdr) : Bool := b.trust.dom.auth == some (h.sender, h.ident)
def fromStandby (b : Block) (h : DomHdr) : Bool := b.trust.dom.standby == some (h.sender, h.ident)

/-- A candidate whose handshake this DKA runs. -/
def candOf (b : Block) (ident : Digest) : Option Cand := b.trust.dom.cands.find? (fun c => c.ident == ident)

/-- A domain message is taken (R283): its signature, or the UP pair it came over, its DOMAIN_ID, its sequence number, and a
sender that `known` says is admitted or in a handshake; otherwise it is discarded and counted. -/
def domTake (h : DomHdr) (known : Block → Bool) (f : Block → Block) (b : Block) : Block :=
  if !mailUp b then b
  else
    let last := ((b.trust.dom.seen.find? (fun e => e.1 == h.ident)).map (·.2)).getD 0
    if (if h.onPair then upWith b h.sender else h.sigOk) && h.domain == b.trust.dom.id && decide (last < h.seq.toNat) && known b then
      f (updDom (fun d => { d with seen := (h.ident, h.seq.toNat) :: d.seen.filter (fun e => e.1 != h.ident) }) b)
    else domDrop b

/-- A message as the relay carries it (R283): header, what it says, signature. -/
def relayBytes (b : Block) (o : DomOut) : Bytes := domText b o.body o.seq ++ ((o.sig.map (fun x => leBytes 96 x.toNat)).getD [])

/-- RELAY_OUT (R283): the oldest message that waits for the relay, with its destination. -/
def effRelayOut (m : MbReq) (b : Block) : Block :=
  mbCommand m 0x0101 [.k] (fun j b =>
    match b.trust.dom.out with
    | o :: t => mbEnd j .ok (leBytes 2 o.dst.toNat ++ relayBytes b o) (updDom (fun d => { d with out := t }) b)
    | [] => mbEnd j .ok [] b) b

/-! Pairs with a peer. -/

/-- Every pair with a package goes DOWN, or leaves the tables. -/
def downPairs (p : Pkg) (b : Block) : Block := eachPair p pairDown b
def removePairs (p : Pkg) (b : Block) : Block := eachPair p removePair b

/-- The package is no dead target any more (R290). -/
def reviveFab (p : Pkg) (b : Block) : Block := { b with fab := { b.fab with dead := b.fab.dead.filter (· != p) } }

/-! The domain key (R282, R285, R345). -/

/-- K_BAY (R345): KMAC256 under index 8 with S = "ZZ3-BAY". -/
def bayKey (kdom : Key) : Key := keyOf (kmac256 (keyBytes kdom) [] 32 (ascii "ZZ3-BAY"))

/-- K_DOM written to index 8, and K_BAY to every LCS. -/
def installDomKey (k : Key) (b : Block) : Block :=
  let b := writeKey 8 { type := 1, depth := 2, sys := true, usage := 0x41, parent := 0, budget := unlimited, key := k } b
  b.lcs.foldl (fun b e => if e.2.present then updLport e.1 (fun p => { p with kBay := some (bayKey k) }) b else b) b

/-- Pair tables, K_BAY and index 8 are zeroized (R290, R346): what the package knew as a member goes with them. -/
def leaveDomain (b : Block) : Block :=
  let b := b.lport.foldl (fun b e => e.2.pairs.foldl (fun b q => removePair e.1 q.1 b) b) b
  let b := { b with lport := Sparse.mapAll {} b.lport (fun _ p => { p with pairs := [], kBay := none }) }
  let b := if (getKey b 8).state = .free then b else recomputeCv (eraseKey 8 (updKey 8 (fun e => { e with gen := e.gen + 1 }) b))
  let b := { b with fab := { b.fab with dead := [], span := false, peerMask := [] }, fo := { b.fo with leaseEnd := none } }
  updDom (fun d => { pkg := d.pkg, ident := d.ident, seq := d.seq, bindSel := d.bindSel }) b

/-- The package has a Domain Witness from now on: its PP's lease begins (R356). -/
def beginLease (b : Block) : Block := { b with fo := { b.fo with leaseEnd := some (b.time + 50000000) } }

/-- The package is a member of a domain, or leaves one. -/
def inDomain (b : Block) : Bool := b.trust.dom.state == .admitted || b.trust.dom.state == .leaving

/-! The DKA (R282, R284, R287, R291, R293). -/

/-- The bundle is rebuilt with SEQ one higher (R291). -/
def rebuildBundle (b : Block) : Block :=
  let (n, b) := fresh b
  updDom (fun d => { d with bundleSeq := d.bundleSeq + 1, bundleAt := b.time, bundleN := n }) b

/-- R284: what a candidate's evidence fails. -/
def evidenceBad (b : Block) (p : Policy) (pkg : Pkg) (ident : Digest) (nonce : Key) (e : Evidence) : List Status :=
  let allowDebug := p.flags.getLsbD 0
  let others := b.trust.dom.binds.filter (fun x => x.2.state == .admitted && x.2.ident != ident)
  (if e.chainOk && e.nonce == nonce then [] else [Status.badConfig])
  ++ (if p.fw.contains e.fwHash && decide (p.minRoll ≤ e.arb) then [] else [Status.badConfig])
  ++ (if p.layout.contains e.layoutHash then [] else [Status.badConfig])
  ++ (if allowDebug || (e.lcState == 2 && !e.debug) then [] else [Status.lifecycle])
  ++ (if e.ppPass && e.storeOpen then [] else [Status.badConfig])
  ++ (if others.length < p.maxMembers then [] else [Status.quota])
  ++ (if b.trust.dom.binds.any (fun x => x.2.pkg == pkg && x.2.ident != ident) then [Status.badConfig] else [])
  ++ (if p.flags.getLsbD 1 || podOf pkg == podOf b.trust.dom.pkg then [] else [Status.badConfig])

/-- The binding that a candidate's evidence makes (R286, R292). -/
def bindFrom (pkg : Pkg) (ident : Digest) (e : Evidence) : Bind :=
  { state := .admitted, pkg := pkg, ident := ident, ek := some (ekDigest e.ek), evid := some e, answered := true }

/-- What ADMIT carries to a member (R285): a ciphertext to its import key with the `n`-th draw, and K_DOM wrapped under it. -/
def admitFor (b : Block) (ek : BitVec 12544) (n : Nat) : Admit :=
  let d := b.trust.dom
  let k := sendKek ek n
  { ct := k.1, wrapped := kwpWrap (keyBytes k.2) (keyBytes (getKey b 8).key), epochN := BitVec.ofNat 5 d.epochN, t0 := d.t0,
    grant := BitVec.ofNat 24 d.grant, polHash := d.polHash, span := d.span, dka := d.ident, standby := d.standby }

/-- ADMIT goes out (R285), and HELLO after it where this package is the lower-numbered one (R289). -/
def sendAdmit (p : Pkg) (ek : BitVec 12544) (b : Block) : Block :=
  let (n, b) := fresh b
  let b := domSend p (.admitMsg (admitFor b ek n)) b
  if b.trust.dom.pkg.toNat < p.toNat then startHand p none [] b else b

/-! The domain state that the standby replicates (R293). -/

/-- Every binding that `which` names is changed. -/
def mapBinds (which : Bind → Bool) (f : Bind → Bind) (b : Block) : Block :=
  updDom (fun d => { d with binds := Sparse.mapAll {} d.binds (fun _ e => if e.state ≠ .free ∧ which e = true then f e else e) }) b

/-- A change of the domain state, as the DKA's tables and the standby's copy of them take it; none where the binding table is full. -/
def tableChange (c : DomChg) (b : Block) : Option Block :=
  match c with
  | .enrol e _ _ => (putBind e b).map (fun b => rebuildBundle
      (if b.trust.dom.policy.any (fun p => p.standby.toNat == e.pkg.toNat) then updDom (fun d => { d with standby := some (e.pkg, e.ident), stdLost := true }) b else b))
  | .drop pkg ident =>
    some (rebuildBundle (dropBind ident (updDom (fun d => { d with standby := if d.standby = some (pkg, ident) then none else d.standby }) b)))
  | .clash a =>
    let b := mapBinds (fun e => e.pkg == a.pkg) (fun e => { e with state := .quarantined, answered := false }) b
    some (rebuildBundle ((putBind { a with state := .quarantined, answered := false } b).getD b))
  | .keep pkg ident =>
    let b := (b.trust.dom.binds.filter (fun e => e.2.pkg == pkg && e.2.ident != ident)).foldl (fun b e => dropBind e.2.ident b) b
    some (rebuildBundle (mapBinds (fun e => e.ident == ident) (fun e => { e with state := .admitted }) b))
  | .evidence e => some (mapBinds (fun x => x.ident == e.ident) (fun x => { e with state := x.state, used := x.used }) b)
  | .grant m => some (updDom (fun d => { d with grant := max d.grant m }) b)

/-- The full copy that goes to the standby. -/
def domCopy (d : Dom) : DomCopy := { policy := d.policy, binds := d.binds, bundleSeq := d.bundleSeq, bundleAt := d.bundleAt, grant := d.grant }

/-- A full copy goes to a standby that is out of replication (R293). -/
def sendCopy (b : Block) : Block :=
  match b.trust.dom.standby with
  | some (p, _) => if b.trust.dom.stdLost && boundPeer b p then domSend p (.copy (domCopy b.trust.dom)) b else b
  | none => b

/-- What the DKA sends, and does about the package, once a change has taken effect. -/
def announce (c : DomChg) (gone : List (Pkg × Digest)) (b : Block) : Block :=
  match c with
  | .enrol e ek rejoin =>
    let b := if rejoin then domSendAll (.rebind e.pkg e.ident) (removePairs e.pkg b) else b
    let b := reviveFab e.pkg b
    let b := sendAdmit e.pkg ek b
    if b.trust.dom.standby = some (e.pkg, e.ident) then sendCopy (beginLease b) else b
  | .drop pkg _ => domSendAll (.release pkg) (declareDead pkg b)
  | .clash a => domSendAll (.quarantine a.pkg) (declareDead a.pkg (downPairs a.pkg b))
  | .keep pkg ident =>
    domSendAll (.rebind pkg ident) (reviveFab pkg (removePairs pkg (gone.foldl (fun b x => domSend x.1 (.refuse .badConfig) b) b)))
  | .evidence _ => b
  | .grant m => domSendAll (.epochGrant m) b

/-- The identities that a change removes beside the one it keeps. -/
def ousted (c : DomChg) (b : Block) : List (Pkg × Digest) :=
  match c with
  | .keep pkg ident => (b.trust.dom.binds.filter (fun e => e.2.pkg == pkg && e.2.ident != ident)).map (fun e => (e.2.pkg, e.2.ident))
  | _ => []

/-- A change of the domain state takes effect at the DKA (R293): an admission needs the DRBG and room in the table. -/
def applyChange (c : DomChg) (b : Block) : Block :=
  match c, b.keys.mint.drbgOk with
  | .enrol e _ _, false => domSend e.pkg (.refuse .outOfService) b
  | c, _ =>
    match tableChange c b with
    | some b' => announce c (ousted c b) b'
    | none => match c with
      | .enrol e _ _ => domSend e.pkg (.refuse .quota) b
      | _ => b

/-- A change takes effect: at the DKA with what it sends; at the standby in its copy, which it acknowledges. -/
def landChange (c : DomChg) (b : Block) : Block :=
  if b.trust.dom.role = .standby then
    let b := (tableChange c b).getD b
    match b.trust.dom.auth with
    | some (p, _) => domSend p .changeAck b
    | none => b
  else applyChange c b

/-- The change as a mutation of the binding table (R355). -/
def commitChange (c : DomChg) (b : Block) : Block := mutate (.domChg c) (landChange c) b

/-- Whether changes wait for the standby's acknowledgement (R293): there is one, admitted and in replication. -/
def standbyOn (b : Block) : Bool :=
  match b.trust.dom.standby with
  | some (p, _) => !b.trust.dom.stdLost && boundPeer b p
  | none => false

/-- A change of the domain state (R293): it goes to the standby, and waits for it where the standby is in replication; behind a full copy it
only follows the copy. -/
def domChange (c : DomChg) (b : Block) : Block :=
  let sent := match b.trust.dom.standby with
    | some (p, _) => if boundPeer b p then domSend p (.change c) b else b
    | none => b
  if standbyOn b then updDom (fun d => { d with chg := d.chg ++ [c] }) sent else commitChange c sent

/-- DOMAIN_REPLICATION_ACK (R293): the oldest change takes effect. -/
def effDomainReplicationAck (b : Block) : Block :=
  match b.trust.dom.chg with
  | c :: t => commitChange c (updDom (fun d => { d with chg := t }) b)
  | [] => b

/-- DOMAIN_REPLICATION_TIMEOUT (R293): the standby leaves replication, the changes proceed, a full copy is sent. -/
def effDomainReplicationTimeout (b : Block) : Block :=
  if b.trust.dom.chg.isEmpty then b
  else sendCopy (b.trust.dom.chg.foldl (fun b c => commitChange c b) (updDom (fun d => { d with chg := [], stdLost := true }) b))

/-- The standby of the authority that sends (R293). -/
def standbyOf (b : Block) (h : DomHdr) : Bool := b.trust.dom.state == .admitted && b.trust.dom.role == .standby && fromAuth b h

/-- A change from the DKA reaches the standby (R293). -/
def effDomChange (h : DomHdr) (c : DomChg) (b : Block) : Block := domTake h (fun b => standbyOf b h) (commitChange c) b

/-- A full copy from the DKA reaches the standby (R293). -/
def effDomCopy (h : DomHdr) (x : DomCopy) (b : Block) : Block :=
  domTake h (fun b => standbyOf b h) (fun b =>
    let (n, b) := fresh b
    updDom (fun d => { d with policy := x.policy, binds := x.binds, bundleSeq := x.bundleSeq, bundleAt := x.bundleAt, bundleN := n, grant := max d.grant x.grant }) b) b

/-- STANDBY_CATCH_UP (R293). -/
def effStandbyCatchUp (b : Block) : Block :=
  if b.trust.dom.role = .dka ∧ b.trust.dom.standby ≠ none then updDom (fun d => { d with stdLost := false }) b else b

/-- This package is a DKA that admits. -/
def isDka (b : Block) : Bool := b.trust.dom.role == .dka && b.trust.dom.state == .admitted

/-- A challenge to an identity, with a nonce from the DRBG (R284, R287): none is sent without one (R269). -/
def sendChallenge (ident : Digest) (pkg : Pkg) (again : Bool) (b : Block) : Block :=
  if b.keys.mint.drbgOk = false then b else
  let (k, b) := fresh b
  let c : Cand := { ident := ident, pkg := pkg, nonce := Config.draw k, again := again }
  domSend pkg (.challenge c.nonce) (updDom (fun d => { d with cands := c :: d.cands.filter (fun x => x.ident != ident) }) b)

/-- Two identities claim one package number (R287). -/
def startClash (pkg : Pkg) (claim : Digest) (b : Block) : Block :=
  let rivals := (b.trust.dom.binds.filter (fun e => e.2.pkg == pkg && e.2.ident != claim)).map (fun e => e.2.ident)
  let b := domChange (.clash { state := .quarantined, pkg := pkg, ident := claim }) b
  (rivals ++ [claim]).foldl (fun b i => sendChallenge i pkg true b) b

/-- JOIN (R284, R287, R288). -/
def effJoin (h : DomHdr) (b : Block) : Block :=
  domTake h isDka (fun b =>
    match b.trust.dom.binds.find? (fun e => e.2.ident == h.ident) with
    | some (_, e) =>
      if e.pkg = h.sender then sendChallenge h.ident h.sender false b
      else domSend h.sender (.refuse .badConfig) (domDrop b)
    | none =>
      if (bindOf b h.sender).isSome then startClash h.sender h.ident b
      else sendChallenge h.ident h.sender false b) b

/-- EVIDENCE (R284, R287). -/
def effEvidence (h : DomHdr) (e : Evidence) (b : Block) : Block :=
  domTake h (fun b => isDka b && (candOf b h.ident).isSome) (fun b =>
    match candOf b h.ident, b.trust.dom.policy with
    | some c, some p =>
      let b := updDom (fun d => { d with cands := d.cands.filter (fun x => x.ident != h.ident) }) b
      if c.again then
        if (evidenceBad { b with trust := { b.trust with dom := { b.trust.dom with binds := [] } } } p c.pkg c.ident c.nonce e).isEmpty then
          domChange (.evidence (bindFrom c.pkg c.ident e)) b
        else b
      else
        match evidenceBad b p h.sender c.ident c.nonce e with
        | [] => domChange (.enrol (bindFrom h.sender c.ident e) e.ek (b.trust.dom.binds.any (fun x => x.2.ident == c.ident))) b
        | l => domSend h.sender (.refuse (statusWorst l)) b
    | _, _ => b) b

/-- QUARANTINE_CHALLENGE_TIMEOUT (R287): one identity answered with valid evidence, or both stay quarantined. -/
def effQuarantineChallengeTimeout (pkg : Pkg) (b : Block) : Block :=
  if isDka b then
    let b := updDom (fun d => { d with cands := d.cands.filter (fun c => !(c.again && c.pkg == pkg)) }) b
    match b.trust.dom.binds.filter (fun e => e.2.pkg == pkg && e.2.state == .quarantined && e.2.answered) with
    | [(_, e)] => domChange (.keep pkg e.ident) b
    | _ => b
  else b

/-- LEAVE (R290): the binding is released. -/
def effLeave (h : DomHdr) (b : Block) : Block :=
  domTake h (fun b => isDka b && boundSender b h) (fun b => domChange (.drop h.sender h.ident) b) b

/-- OOS_NOTICE (R346): a member's notice raises INT[15] at the DKA. -/
def effOosNotice (h : DomHdr) (b : Block) : Block :=
  domTake h (fun b => isDka b && boundSender b h) (fun b => raisePrimary 15 b) b

/-! The candidate and the member. -/

/-- A joining package ends its attempt. -/
def endJoin (st : Status) (b : Block) : Block :=
  mbFinish 0x0110 0 st [] (updDom (fun d => { d with state := .none, id := 0, joinTo := none }) b)

/-- DOM_JOIN (R284, R346): JOIN goes to the DKA. -/
def effDomJoin (m : MbReq) (dka : Pkg) (domain : BitVec 64) (b : Block) : Block :=
  mbCommand m 0x0110 [.k] (fun j b =>
    if packageOos b then mbEnd j .outOfService [] b
    else if b.trust.dom.state = .none then
      domSend dka .join (mbHold j (updDom (fun d => { d with state := .joining, id := domain, joinTo := some (dka, b.time) }) b))
    else mbEnd j .badConfig [] b) b

/-- The sender is the DKA that this candidate asked. -/
def fromJoined (b : Block) (h : DomHdr) : Bool :=
  b.trust.dom.state == .joining && (b.trust.dom.joinTo.any (fun x => x.1 == h.sender))

/-- CHALLENGE (R284, R287): answered with EVIDENCE, the certificate chains and a signed measurement response over its nonce. -/
def effChallengeDomain (h : DomHdr) (nonce : Key) (b : Block) : Block :=
  domTake h (fun b => fromJoined b h || (b.trust.dom.state == .admitted && fromAuth b h))
    (fun b =>
      let (r, b) := measResponse 0xFF true nonce b
      domSend h.sender (.evidence b.trust.att.chain b.trust.att.own r) b) b

/-- ADMISSION_TIMEOUT (R284): the DKA abandons the attempt and counts TIMEOUT; a candidate's DOM_JOIN ends with it. -/
def effAdmissionTimeout (ident : Digest) (b : Block) : Block :=
  if ident = b.trust.dom.ident ∧ b.trust.dom.state = .joining then endJoin .timeout b
  else if b.trust.dom.cands.any (fun c => c.ident == ident && !c.again) then
    count { inst := (primaryInst b).getD 0 } (evBay 6)
      (updDom (fun d => { d with cands := d.cands.filter (fun c => !(c.ident == ident && !c.again)) }) b)
  else b

/-- REFUSE (R284, R287). -/
def effRefuse (h : DomHdr) (st : Status) (b : Block) : Block :=
  domTake h (fun b => fromJoined b h) (fun b => endJoin st b) b

/-- Thyme epoch of the package (R295). -/
def epochNow (b : Block) : Nat := (b.time.toNat - b.trust.dom.t0.toNat) / (2 ^ b.trust.dom.epochN * 1000000)

/-- A member takes what ADMIT gives it: the domain's times, authority and standby; the control pairs are started. -/
def enterDomain (p : Pkg) (a : Admit) (b : Block) : Block :=
  let me := a.standby == some (b.trust.dom.pkg, b.trust.dom.ident)
  let b := updDom (fun d =>
    { d with state := .admitted, role := if me then .standby else .member, epochN := a.epochN.toNat, t0 := a.t0, grant := a.grant.toNat,
             polHash := a.polHash, span := a.span, auth := some (p, a.dka), standby := a.standby, joinTo := none, beatAt := b.time }) b
  let b := updDom (fun d => { d with epoch := epochNow b }) { b with fab := { b.fab with span := a.span } }
  let b := (putBind { state := .admitted, pkg := p, ident := a.dka } b).getD b
  let i := (primaryInst b).getD 0
  let b := match a.standby with
    | some (q, s) => if me then b else startHand q (some i) [] ((putBind { state := .admitted, pkg := q, ident := s } b).getD b)
    | none => b
  mbFinish 0x0110 0 .ok [] (startHand p (some i) [] (beginLease b))

/-- The mutation of ADMIT: K_DOM in index 8, the DKA's binding, and membership with them. -/
def bodyAdmit (p : Pkg) (a : Admit) (kdom : Key) (b : Block) : Block := enterDomain p a (installDomKey kdom b)

/-- ADMIT (R285): Sage decapsulates with index 4 and unwraps K_DOM into index 8. Where the unwrapping fails its check there is no K_DOM,
and the attempt ends with TAG_FAIL (log 126). -/
def effAdmitMember (h : DomHdr) (a : Admit) (b : Block) : Block :=
  domTake h (fun b => fromJoined b h && h.ident == a.dka) (fun b =>
    match unwrapKey (takeKek b a.ct) a.wrapped with
    | some kdom => mutate (.admission h.sender a kdom) (bodyAdmit h.sender a kdom) b
    | none => endJoin .tagFail b) b

/-- QUARANTINE (R287). -/
def bodyQuarantine (pkg : Pkg) (b : Block) : Block :=
  declareDead pkg (downPairs pkg (mapBinds (fun e => e.pkg == pkg) (fun e => { e with state := .quarantined }) b))
def effQuarantine (h : DomHdr) (pkg : Pkg) (b : Block) : Block :=
  domTake h (fun b => fromAuth b h) (mutate (.quarantine pkg) (bodyQuarantine pkg)) b

/-- REBIND (R287, R290): the binding is restored to its identity and the pairs held with the package are discarded. -/
def bodyRebind (pkg : Pkg) (ident : Digest) (b : Block) : Block :=
  let b := match bindOf b pkg with
    | some (_, e) => (putBind { e with state := .admitted, ident := ident, ek := if e.ident = ident then e.ek else none } (dropBind e.ident b)).getD b
    | none => b
  reviveFab pkg (removePairs pkg b)
def effRebind (h : DomHdr) (pkg : Pkg) (ident : Digest) (b : Block) : Block :=
  domTake h (fun b => fromAuth b h) (fun b => if pkg = b.trust.dom.pkg then b else mutate (.rebind pkg ident) (bodyRebind pkg ident) b) b

/-- RELEASE (R290): the leaving package is a dead target. -/
def bodyReleasePeer (pkg : Pkg) (b : Block) : Block :=
  declareDead pkg (updDom (fun d => { d with binds := d.binds.filter (fun e => e.2.pkg != pkg) }) b)
def effReleasePeer (h : DomHdr) (pkg : Pkg) (b : Block) : Block :=
  domTake h (fun b => fromAuth b h) (mutate (.releasePeer pkg) (bodyReleasePeer pkg)) b

/-- Nothing of this package is outstanding with other members (R290). -/
def domRest (b : Block) : Bool :=
  b.fab.inst.all (fun e => e.2.outst.all (fun o => !o.2.live)) && b.red.invs.isEmpty
    && b.lport.all (fun e => e.2.inb.isEmpty && e.2.arc.all (fun a => !a.pending) && e.2.acq.isEmpty)
    && b.cm.queues.all (fun q => q.2.cmd.all (fun c => c.phase != .remote))

/-- The package starts to leave (R290): new requests to other members complete with OUT_OF_SERVICE; `leaveDone` ends it. -/
def startLeave (b : Block) : Block :=
  let ps := members b
  let b := { b with fab := { b.fab with dead := b.fab.dead ++ ps.filter (fun p => !b.fab.dead.contains p) } }
  updDom (fun d => { d with state := .leaving }) b

/-- DOM_LEAVE (R290). -/
def effDomLeave (m : MbReq) (b : Block) : Block :=
  mbCommand m 0x0111 [.k, .m] (fun j b =>
    if b.trust.dom.state = .admitted then mbHold j (startLeave b) else mbEnd j .badConfig [] b) b

/-- The end of DOM_LEAVE: LEAVE to the DKA, then the keys go (R290). -/
def bodyLeave (b : Block) : Block :=
  let b := match b.trust.dom.auth with
    | some (p, _) => if p = b.trust.dom.pkg then b else domSend p .leave b
    | none => b
  let (out, last) := (b.trust.dom.out, b.trust.dom.lastOut)
  mbFinish 0x0111 0 .ok [] (updDom (fun d => { d with out := out, lastOut := last }) (leaveDomain b))

/-- DOM_LEAVE ends once nothing is outstanding. -/
def leaveDone (b : Block) : Block :=
  if b.trust.dom.state = .leaving ∧ domRest b = true ∧ b.fo.repl.contains .leave = false then mutate .leave bodyLeave b else b

/-! Bindings on request (R286, R287). -/

/-- PAIR_CONNECT goes on once its peer's binding is known (R286, R289). -/
def connectNow (j : MbJob) (inst : Nat) (peer : Pkg) (b : Block) : Block :=
  match bindOf b peer with
  | some (_, e) =>
    if e.state = .admitted then startHand peer (some inst) [] (mbHold { j with arg := peer.toNat } (askBind peer b))
    else mbEnd j .badConfig [] b
  | none => mbHold { j with code := 0x10112, arg := peer.toNat + 2 ^ 14 * inst } (askBind peer b)

/-- PAIR_CONNECT (R289, R346). -/
def effPairConnect (m : MbReq) (inst : Nat) (peer : Pkg) (b : Block) : Block :=
  mbCommand m 0x0112 [.k] (fun j b =>
    if packageOos b then mbEnd j .outOfService [] b
    else if b.trust.dom.state = .admitted ∧ peer ≠ b.trust.dom.pkg ∧ (instIn b inst).isEmpty = false then connectNow j inst peer b
    else mbEnd j .badConfig [] b) b

/-- PAIR_CONNECTs that waited for a binding go on, or end where there is none. -/
def connectWaiting (peer : Pkg) (failed : Option Status) (b : Block) : Block :=
  let mine := fun (j : MbJob) => j.code == 0x10112 && j.arg % 2 ^ 14 == peer.toNat
  (b.trust.jobs.filter mine).foldl (fun b j =>
    let back := { j with code := 0x0112 }
    match failed with
    | some st => mbEnd back st [] b
    | none => connectNow back (j.arg / 2 ^ 14) peer b)
    { b with trust := { b.trust with jobs := b.trust.jobs.filter (fun j => !mine j) } }

/-- The mutation of a DKA's answer: the binding, and what waited for it; a released package whose binding
is there again was readmitted, and is no dead target (R179, R354, log 134). -/
def bodyBind (e : Bind) (b : Block) : Block :=
  match putBind e b with
  | some b' => connectWaiting e.pkg none (if e.state = .admitted ∧ bindOf b e.pkg = none then reviveFab e.pkg b' else b')
  | none => connectWaiting e.pkg (some .quota) b

/-- BIND_QUERY (R286): at the DKA the query of a member, which may report an identity that claims the number (R287); at a member
the DKA's answer. -/
def effBindQuery (h : DomHdr) (pkg : Pkg) (claim : Option Digest) (answer : Option (Digest × Digest × Bool)) (b : Block) : Block :=
  match answer with
  | none =>
    domTake h (fun b => isDka b && boundSender b h) (fun b =>
      let b := domSend h.sender (.bindAnswer pkg (((bindOf b pkg).map (·.2)).getD {})) b
      match claim, bindOf b pkg with
      | some c, some (_, e) => if e.ident = c ∨ e.state = .quarantined then b else startClash pkg c b
      | _, _ => b) b
  | some (ident, ek, ok) =>
    domTake h (fun b => fromAuth b h) (fun b =>
      let e : Bind := { state := if ok then .admitted else .quarantined, pkg := pkg, ident := ident, ek := some ek }
      mutate (.bind e) (bodyBind e) b) b

/-! The handshake (R288, R289). -/

/-- PAIR_CONNECT_TIMEOUT (R289): what was installed stays. -/
def bodyHandTimeout (peer : Pkg) (b : Block) : Block :=
  let b := match handOf b peer with
    | some h => if h.done then b else updDom (fun d => { d with hands := d.hands.filter (fun x => x.peer != peer) }) (dropHand h b)
    | none => b
  connectWaiting peer (some .timeout) (mbFinish 0x0112 peer.toNat .timeout [] b)
def effPairConnectTimeout (peer : Pkg) (b : Block) : Block := mutate (.handTimeout peer) (bodyHandTimeout peer) b

/-- LINK entries for pairs: index of each, none where KREG has no room. -/
def linkAll (l : List (Nat × Nat × Key)) (b : Block) : Option (List (Nat × Nat × Nat) × Block) :=
  l.foldl (fun a x =>
    match a with
    | some (ps, b) => (writeLink x.2.2 b).map (fun r => (ps ++ [(x.1, x.2.1, r.1)], r.2))
    | none => none) (some ([], b))

/-- A seed for each pair, from the DRBG. -/
def drawSeeds (l : List (Nat × Nat)) (b : Block) : List (Nat × Nat × Key) × Block :=
  l.foldl (fun a x => (a.1 ++ [(x.1, x.2, Config.draw (fresh a.2).1)], (fresh a.2).2)) ([], b)

/-- Seeds as HELLO_ACK carries them, unwrapped; none where one fails its check. -/
def unwrapAll (kek : Key) (l : List (Nat × Nat × Bytes)) : Option (List (Nat × Nat × Key)) :=
  l.mapM (fun x => (unwrapKey kek x.2.2).map (fun k => (x.1, x.2.1, k)))

/-- The binding of a handshake's peer, and its key digest where the binding holds one. -/
def helloKnown (b : Block) (h : DomHdr) : Bool := b.trust.dom.state == .admitted && boundSender b h
def ekMatches (b : Block) (h : DomHdr) (ek : BitVec 12544) : Bool :=
  b.trust.dom.binds.all (fun e => !(e.2.ident == h.ident) || e.2.ek.all (fun x => x == ekDigest ek))

/-- HELLO_ACK goes out (R289): pairs chosen and a seed drawn for each, kept as LINK entries and sent wrapped. -/
def answerHello (p : Pkg) (ek : BitVec 12544) (lcs : List Nat) (inst : Option Nat) (want : List (Nat × Nat)) (b : Block) : Block :=
  let chosen := match inst with
    | some i => pairsMine b i p lcs
    | none => if want.isEmpty then pairsTheirs b lcs else want
  let (n, b0) := fresh b
  let (seeds, b1) := drawSeeds chosen b0
  if !b.keys.mint.drbgOk then mbFinish 0x0112 p.toNat .outOfService [] b
  else
    match linkAll seeds b1 with
    | none => mbFinish 0x0112 p.toNat .quota [] b
    | some (ps, b) =>
      let k := sendKek ek n
      let sent := seeds.map (fun y => (y.2.1, y.1, kwpWrap (keyBytes k.2) (keyBytes y.2.2)))
      let x : Hand := { peer := p, inst := inst, want := want, started := b.time, pairs := ps, done := false, ack := some (k.1, sent) }
      domSend p (.helloAck k.1 sent) (updDom (fun d => { d with hands := x :: d.hands.filter (fun y => y.peer != p) }) b)

/-- The HELLO_ACK of a handshake in progress, or ended within the last second (R288). -/
def ackOf (b : Block) (p : Pkg) : Option (BitVec 12544 × List (Nat × Nat × Bytes)) :=
  (handOf b p).bind (fun x => if handFresh b x then x.ack else none)

/-- A HELLO that is no repetition is answered. -/
def bodyHello (p : Pkg) (ek : BitVec 12544) (lcs : List Nat) (b : Block) : Block :=
  match ackOf b p with
  | some a => domSend p (.helloAck a.1 a.2) b
  | none =>
    match handOf b p with
    | some x => answerHello p ek lcs x.inst x.want b
    | none => answerHello p ek lcs none [] b

/-- HELLO (R287 to R289): repeated, it is answered with the handshake's state; from a number bound elsewhere, it is reported to
the DKA. -/
def effHello (h : DomHdr) (ek : BitVec 12544) (lcs : List Nat) (b : Block) : Block :=
  if b.trust.dom.state == .admitted && !boundSender b h && h.sigOk && h.domain == b.trust.dom.id then
    let b := match b.trust.dom.auth with
      | some (p, _) => if p = b.trust.dom.pkg then (if isDka b then startClash h.sender h.ident b else b)
                       else domSend p (.bindQuery h.sender (some h.ident)) b
      | none => b
    domDrop b
  else
  domTake h (fun b => helloKnown b h && ekMatches b h ek) (fun b =>
    match ackOf b h.sender with
    | some a => domSend h.sender (.helloAck a.1 a.2) b
    | none => mutate (.hello h.sender ek lcs) (bodyHello h.sender ek lcs) b) b

/-- The pairs of a handshake are installed and PAIR_CONNECT ends. -/
def finishHand (x : Hand) (e : Nat) (b : Block) : Block :=
  let (full, b) := installHand x e b
  mbFinish 0x0112 x.peer.toNat (if full then .quota else .ok) []
    (updHand x.peer (fun y => { y with done := true, started := b.time, pairs := x.pairs }) b)

/-- Unwrapped seeds become LINK entries, HELLO_FIN names the installation epoch, the keys are installed (R289). -/
def linkSeeds (p : Pkg) (x : Hand) (seeds : List (Nat × Nat × Key)) (b : Block) : Block :=
  match linkAll seeds b with
  | some (ps, b) =>
    let e := epochNow b
    finishHand { x with pairs := ps } e (domSend p (.helloFin e) b)
  | none => mbFinish 0x0112 p.toNat .quota [] b

/-- A handshake that waits for HELLO_ACK, and one that waits for HELLO_FIN. -/
def ackAwaited (b : Block) (p : Pkg) : Bool := (handOf b p).any (fun x => !x.done && x.pairs.isEmpty)
def finAwaited (b : Block) (p : Pkg) : Bool := (handOf b p).any (fun x => !x.done && !x.pairs.isEmpty)

/-- The mutations of HELLO_ACK and HELLO_FIN: the LINK entries are made, and those of installed keys go. -/
def bodyHelloAck (p : Pkg) (seeds : List (Nat × Nat × Key)) (b : Block) : Block :=
  match (handOf b p).filter (fun x => !x.done && x.pairs.isEmpty) with
  | some x => linkSeeds p x seeds b
  | none => b
def bodyHelloFin (p : Pkg) (epoch : BitVec 24) (b : Block) : Block :=
  match (handOf b p).filter (fun x => !x.done && !x.pairs.isEmpty) with
  | some x => finishHand x epoch.toNat b
  | none => b

/-- HELLO_ACK (R289): Sage decapsulates with index 4 and unwraps the seeds; where one fails its check PAIR_CONNECT ends with TAG_FAIL
(log 126). -/
def effHelloAck (h : DomHdr) (ct : BitVec 12544) (pairs : List (Nat × Nat × Bytes)) (b : Block) : Block :=
  domTake h (fun b => helloKnown b h && ackAwaited b h.sender) (fun b =>
    match unwrapAll (takeKek b ct) pairs with
    | some seeds => mutate (.helloAck h.sender seeds) (bodyHelloAck h.sender seeds) b
    | none => mbFinish 0x0112 h.sender.toNat .tagFail [] b) b

/-- HELLO_FIN (R289). -/
def effHelloFin (h : DomHdr) (epoch : BitVec 24) (b : Block) : Block :=
  domTake h (fun b => helloKnown b h && finAwaited b h.sender) (mutate (.helloFin h.sender epoch) (bodyHelloFin h.sender epoch)) b

/-! Heartbeats and takeover (R294). -/

/-- More than half of the members, counting this package with those that answered it. -/
def majority (b : Block) (acks : List Pkg) : Bool :=
  decide ((members b).length + 1 < 2 * (((members b).filter (fun p => acks.contains p)).length + 1))

/-- HEARTBEAT (R294): a member answers its authority only; at the DKA a member's heartbeat is its answer. -/
def effHeartbeat (h : DomHdr) (b : Block) : Block :=
  domTake h (fun b => boundSender b h || fromAuth b h) (fun b =>
    if b.trust.dom.role == .dka || b.trust.dom.role == .fenced then
      updDom (fun d => { d with beatAcks := h.sender :: d.beatAcks.filter (· != h.sender) }) b
    else if fromAuth b h then domSend h.sender .heartbeatAck (updDom (fun d => { d with beatAt := b.time }) b)
    else b) b

/-- More than half of the members did not acknowledge. -/
def unheard (b : Block) : Bool :=
  decide ((members b).length + 1 < 2 * ((members b).filter (fun p => !b.trust.dom.beatAcks.contains p)).length)

/-- DKA_HEARTBEAT_TIMER (R294): every 10 ms; five heartbeats in a row without answers fence the DKA. -/
def effDkaHeartbeatTimer (b : Block) : Block :=
  if isDka b then
    let miss := if unheard b then b.trust.dom.beatMiss else 0
    if 5 ≤ miss then updDom (fun d => { d with role := .fenced }) b
    else domSendAll .heartbeat (updDom (fun d => { d with beatMiss := miss + 1, beatAcks := [] }) b)
  else b

/-- No heartbeat for 50 ms. -/
def beatLost (b : Block) : Bool := decide (b.trust.dom.beatAt.toNat + 50000000 ≤ b.time.toNat)

/-- STANDBY_HEARTBEAT_LOSS (R294). -/
def effStandbyHeartbeatLoss (b : Block) : Block :=
  if b.trust.dom.state = .admitted ∧ b.trust.dom.role = .standby ∧ beatLost b = true then
    domSendAll .takeover (updDom (fun d => { d with takeAcks := [] }) b)
  else b

/-- TAKEOVER (R294). -/
def effTakeover (h : DomHdr) (b : Block) : Block :=
  domTake h (fun b => fromStandby b h) (fun b =>
    if b.trust.dom.role = .member ∧ beatLost b = true then
      domSend h.sender .takeoverAck (updDom (fun d => { d with auth := some (h.sender, h.ident), standby := none, beatAt := b.time }) b)
    else b) b

/-- TAKEOVER_ACK (R294): at more than half the standby is the DKA. -/
def effTakeoverAck (h : DomHdr) (b : Block) : Block :=
  domTake h (fun b => b.trust.dom.role == .standby && boundSender b h) (fun b =>
    let b := updDom (fun d => { d with takeAcks := h.sender :: d.takeAcks.filter (· != h.sender) }) b
    if majority b b.trust.dom.takeAcks then
      let b := updDom (fun d => { d with role := .dka, auth := some (d.pkg, d.ident), standby := none, beatMiss := 1, beatAcks := [], takeAcks := [] }) b
      commitChange (.grant (min (epochNow b + 2) 0xFFFFFE)) (domSendAll .heartbeat b)
    else b) b

/-! Epochs (R295 to R297). -/

/-- Every pair of the package holds the key of an epoch. -/
def allHold (b : Block) (e : Nat) : Bool :=
  b.lport.all (fun x => x.2.pairs.all (fun q => !q.2.valid || q.2.keys.any (fun k => k.1 == e)))

/-- K(e + 2) into every pair with a free slot, while the grant covers it (R296). -/
def stageKeys (b : Block) : Block :=
  let e := b.trust.dom.epoch
  let stage := fun (q : Pair) =>
    match q.keys.find? (fun k => k.1 == e + 1) with
    | some k => if q.valid && q.keys.length < 3 && !q.keys.any (fun x => x.1 == e + 2) then { q with keys := q.keys ++ [(e + 2, epochKey k.2 (e + 2))] } else q
    | none => q
  if e + 2 ≤ b.trust.dom.grant then
    { b with lport := Sparse.mapAll {} b.lport (fun _ p => { p with pairs := Sparse.mapAll {} p.pairs (fun _ q => stage q) }) }
  else b

/-- EPOCH_BOUNDARY (R296, R297): Thyme has passed the boundary into the next epoch. The DKA grants two ahead, at most
0xFF_FFFE (R295). -/
def effEpochBoundary (b : Block) : Block :=
  if b.trust.dom.state = .admitted ∧ b.trust.dom.epoch < epochNow b then
    let e := b.trust.dom.epoch + 1
    let b := updDom (fun d => { d with epoch := e }) b
    let b := if allHold b e then b else raisePrimary 13 b
    let b := if isDka b then domChange (.grant (min (e + 2) 0xFFFFFE)) b else b
    stageKeys b
  else b

/-- PREVIOUS_EPOCH_KEY_ERASE (R296): keys of epochs before the current one go where the current one is held. -/
def effPreviousEpochKeyErase (b : Block) : Block :=
  let e := b.trust.dom.epoch
  let erase := fun (q : Pair) => if q.keys.any (fun k => k.1 == e) then { q with keys := q.keys.filter (fun k => decide (e ≤ k.1)) } else q
  stageKeys { b with lport := Sparse.mapAll {} b.lport (fun _ p => { p with pairs := Sparse.mapAll {} p.pairs (fun _ q => erase q) }) }

/-- EPOCH_GRANT (R297) from the authority. -/
def effEpochGrant (h : DomHdr) (max : BitVec 24) (b : Block) : Block :=
  domTake h (fun b => fromAuth b h) (fun b => stageKeys (updDom (fun d => { d with grant := Nat.max d.grant max.toNat }) b)) b

/-! Forming a domain (R280 to R282). -/

/-- The fields of a policy image; none where its magic, format, zero bytes or length do not fit (Table 10.4a). -/
def policyOf (image : Bytes) : Option Policy :=
  let num := fun k n => leNat ((image.drop k).take n)
  let hash := fun i => BitVec.ofNat 384 (num (64 + 48 * i) 48)
  let fw := num 22 1
  let lay := num 23 1
  if image.take 5 = [0x5A, 0x5A, 0x33, 0x44, 1] ∧ num 7 1 = 0 ∧ num 28 36 = 0 ∧ image.length = 64 + 48 * (fw + lay) then
    some { epochN := num 5 1, flags := BitVec.ofNat 8 (num 6 1), domainId := BitVec.ofNat 64 (num 8 8), dka := BitVec.ofNat 16 (num 16 2),
           standby := BitVec.ofNat 16 (num 18 2), maxMembers := num 20 2, fw := (List.range fw).map hash,
           layout := (List.range lay).map (fun i => hash (fw + i)), minRoll := num 24 4 }
  else none

/-- Table 10.4a, and the checks of DOM_POLICY (R280, R282). -/
def policyBad (b : Block) (p : Policy) (nonce : Key) (e : Evidence) : List Status :=
  let d := b.trust.dom
  (if d.state = .none then [] else [Status.badConfig])
  ++ (if decide (10 ≤ p.epochN ∧ p.epochN ≤ 22 ∧ p.flags.toNat < 4 ∧ p.domainId ≠ 0 ∧ p.dka.toNat = d.pkg.toNat
        ∧ p.standby ≠ p.dka ∧ 1 ≤ p.maxMembers ∧ p.maxMembers ≤ 16384 ∧ 1 ≤ p.fw.length ∧ p.fw.length ≤ 16
        ∧ 1 ≤ p.layout.length ∧ p.layout.length ≤ 64 ∧ (p.standby.toNat < 2 ^ 14 ∨ p.standby = 0xFFFF)) then [] else [Status.badConfig])
  ++ (if b.otp.lc = .blank ∨ b.otp.lc = .eol then [Status.lifecycle] else [])
  ++ (if b.keys.mint.drbgOk then [] else [Status.outOfService])
  ++ evidenceBad b p d.pkg d.ident nonce e

/-- The bytes of this package's own chains, as its evidence carries them. -/
def ownCerts (b : Block) : Bytes := ((b.trust.att.chain.map (fun c => c.certs)).getD []) ++ b.trust.att.own.flatMap certText

/-- The DKA forms the domain (R282): K_DOM from the DRBG, T0, itself as member 0; the first grant is 2 (log 22). -/
def formDomain (image : Bytes) (b : Block) : Status × Block :=
  match policyOf image with
  | none => (statusWorst (Status.badConfig :: if b.otp.lc = .blank ∨ b.otp.lc = .eol then [.lifecycle] else []), b)
  | some p => foundDomain p (digestOf image) b
where
  foundDomain (p : Policy) (hash : Digest) (b : Block) : Status × Block :=
  let (k, b0) := fresh b
  let (r, b1) := measResponse 0xFF true (Config.draw k) b0
  let e := ownEvidence b (ownCerts b) (respText r) (Config.draw k)
  match policyBad b p (Config.draw k) e with
  | [] =>
    let (n, b) := fresh b1
    let b := installDomKey (Config.draw n) b
    let unit := 2 ^ p.epochN * 1000000
    let d := b.trust.dom
    let me := bindFrom d.pkg d.ident e
    let b := updDom (fun d =>
      { d with state := .admitted, role := .dka, id := p.domainId, policy := some p, polHash := hash, span := p.flags.getLsbD 1, epochN := p.epochN,
               t0 := BitVec.ofNat 64 (b.time.toNat / unit * unit), epoch := 0, grant := 2, auth := some (d.pkg, d.ident), binds := [(0, me)],
               stdLost := true, beatAt := b.time }) b
    let span := p.flags.getLsbD 1
    (.ok, rebuildBundle { b with fab := { b.fab with span := span } })
  | l => (statusWorst l, b)

end Sys2Proof.Machine
end

