-- ==== Sys2Proof/Machine/Scu.lean ====
section
/-! DEFINITION. The Service Cipher Unit: tenant pages, their operations and windows (R263 to R265), and the Service
Request Queue (R266). A page is the requester's tag. -/

namespace Sys2Proof.Machine

/-! Table 9.9. -/

/-- Type of the key entry an operation names and the usage bit it needs (R263). -/
def scuKey : Nat → Option (Nat × Nat)
  | 0x01 | 0x02 => some (10, 6)
  | 0x03 | 0x04 => some (11, 6)
  | 0x09 => some (12, 6)
  | 0x12 => some (2, 2)
  | 0x19 | 0x21 => some (3, 3)
  | _ => none

/-- Operations that make a key entry: the new entry's type and usage. -/
def scuMakes : Nat → Option (Nat × BitVec 8)
  | 0x10 => some (2, 4)
  | 0x18 | 0x20 => some (3, 8)
  | _ => none

/-- Operations that need randomness (R263, R267, R269). -/
def scuRandom (op : Nat) : Bool := op == 0x10 || op == 0x11 || op == 0x18 || op == 0x19 || op == 0x20 || op == 0x21

def argTlen (a : Word) : Nat := fieldNat a 31 0
def argOlen (a : Word) : Nat := fieldNat a 39 32
def argSlen (a : Word) : Nat := fieldNat a 47 40

/-- Input bytes of an operation. -/
def scuNeed (op : Nat) (a : Word) : Nat :=
  match op with
  | 0x01 | 0x02 | 0x03 | 0x04 => 16
  | 0x08 => argTlen a
  | 0x09 => argSlen a + argTlen a
  | 0x11 | 0x12 => 1568
  | 0x19 => argTlen a
  | 0x1A => 2592 + 4627 + argTlen a
  | 0x21 => 48
  | 0x22 => 97 + 48 + 96
  | _ => 0

/-- What an operation on its inputs answers: a status and its output (Table 9.9). -/
def scuCompute (b : Block) (j : ScuJob) : Status × Bytes :=
  let k := keyBytes j.mat
  let d := fun (lo n : Nat) => (j.got.drop lo).take n
  match j.op with
  | 0x01 => (.ok, aesEnc k j.got)
  | 0x02 => (.ok, aesDec k j.got)
  | 0x03 => (.ok, aesEnc (k.take 16) j.got)
  | 0x04 => (.ok, aesDec (k.take 16) j.got)
  | 0x08 => (.ok, sha384 j.got)
  | 0x09 => (.ok, kmac256 k (j.got.drop (argSlen j.arg)) (argOlen j.arg) (j.got.take (argSlen j.arg)))
  | 0x10 => (.ok, leBytes 1568 (kemPublic j.mat).toNat)
  | 0x11 => let r := kemEncaps j.got (Config.draw b.freeCtr); (.ok, r.2 ++ keyBytes r.1)
  | 0x12 => (.ok, keyBytes (kemDecaps j.mat j.got))
  | 0x18 => (.ok, leBytes 2592 (dsaPublic j.mat).toNat)
  | 0x19 => match dsaSigning j.mat j.got (Config.draw b.freeCtr) with
    | some sig => (.ok, sig)
    | none => (.aborted, [])
  | 0x1A => (.ok, [if dsaVerify (d 0 2592) (d 2592 4627) (j.got.drop 7219) then 1 else 0])
  | 0x20 => (.ok, leBytes 97 (ecPublic j.mat).toNat)
  | 0x21 => (.ok, leBytes 96 (ecSign j.mat j.got b.freeCtr).toNat)
  | 0x22 => (.ok, [if ecVerify (d 0 97) (d 97 48) (d 145 96) then 1 else 0])
  | _ => (.badConfig, [])

/-! The window. -/

/-- Bytes of the window. -/
def winBytes (p : ScuPage) (n : Nat) : Bytes := ((List.range 256).flatMap (fun k => leBytes 8 (Sparse.get 0 p.win k).toNat)).take n

/-- A window that holds bytes from its start. -/
def winOf (l : Bytes) : Sparse Word :=
  (chunksOf 8 256 l).zipIdx.foldl (fun d e => Sparse.set 0 d e.2 (BitVec.ofNat 64 (leNat e.1))) []

/-- The next output in the window. -/
def scuOffer (j : ScuJob) (p : ScuPage) : ScuPage :=
  { p with job := some j, wantIn := false, outAvail := true, outLen := min 2048 j.out.length, win := winOf (j.out.take 2048) }

/-- An operation ends: BUSY falls and the window is zeroed (R265). -/
def scuEnd (p : Nat) (st : Status) (b : Block) : Block :=
  let k := ((getScu b p).job.bind (·.key))
  let b := match k with
    | some i => unpin i b
    | none => b
  updScu p (fun s => { s with busy := false, wantIn := false, outAvail := false, status := st, outLen := 0, win := [], job := none }) b

/-! Start (R263, R265). -/

/-- The conditions an operation must meet. -/
def scuChecks (b : Block) (p op : Nat) (w arg : Word) : List Status :=
  let ctx := getCtx b (fieldNat w 47 32)
  let e := getKey b (fieldNat w 28 16)
  (if b.keys.mint.zeroed then [.tamper] else [])
    ++ (if ctx.state != .free && ctx.tag.toNat == p then [] else [.notOwner])
    ++ (match scuKey op with
        | none => []
        | some (ty, bit) =>
          (if fieldNat w 28 16 < 16 then [.notOwner]
           else if e.state == .free then [.badConfig]
           else (if e.sys || e.owner.toNat != fieldNat w 47 32 then [.notOwner] else [])
             ++ (if e.type == ty && fieldBit e.usage bit then [] else [.badConfig])
             ++ (if keyUsable e then [] else [.keyOrphaned])))
    ++ (if op = 0x09 ∧ (argOlen arg = 0 ∨ 64 < argOlen arg ∨ 32 < argSlen arg) then [.badConfig] else [])
    ++ (if (scuMakes op).isSome then
          (if b.otp.lc = .blank then [.lifecycle] else []) ++ (if (freeKey b).isNone then [.quota] else [])
        else [])
    ++ (if scuRandom op && !b.keys.mint.drbgOk then [.outOfService] else [])

/-- An operation that meets every condition starts: its key entry is pinned, or the secret of a new entry drawn (R263, R265). -/
def scuStart (p op : Nat) (w : Word) (b : Block) : Block :=
  let arg := (getScu b p).arg
  let key := (scuKey op).map (fun _ => fieldNat w 28 16)
  let (mat, b) := match key with
    | some i => ((getKey b i).key, pin i b)
    | none => if (scuMakes op).isSome then (Config.draw b.freeCtr, (fresh b).2) else (0, b)
  let need := scuNeed op arg
  let j : ScuJob :=
    { op := op, prio := max 1 (fieldNat w 9 8), key := key, mat := mat, ctx := BitVec.ofNat 16 (fieldNat w 47 32), arg := arg,
      need := need, got := [], out := [], fin := false, sent := false }
  updScu p (fun s => { s with busy := true, wantIn := decide (0 < need), outAvail := false, job := some j }) b

/-- Start an operation on a page. -/
def scuBegin (p op : Nat) (w : Word) (b : Block) : Block :=
  let st := statusWorst (scuChecks b p op w (getScu b p).arg)
  if st ≠ .ok then scuEnd p st b else scuStart p op w b

/-- SCU_CMD with an operation: ignored while one runs (R265). -/
def scuCmd (op : Nat) (z : ZReq) (w : Word) (b : Block) : Block :=
  let p := z.tag.toNat
  zcpDo z true (.scu p) (fun b =>
    if (getScu b p).busy then zcpRefuse z .badConfig (count { inst := z.inst } (evPort 0x30) b) else scuBegin p op w b) b

def effScuAes256Encrypt (z : ZReq) (w : Word) (b : Block) : Block := scuCmd 0x01 z w b
def effScuAes256Decrypt (z : ZReq) (w : Word) (b : Block) : Block := scuCmd 0x02 z w b
def effScuAes128Encrypt (z : ZReq) (w : Word) (b : Block) : Block := scuCmd 0x03 z w b
def effScuAes128Decrypt (z : ZReq) (w : Word) (b : Block) : Block := scuCmd 0x04 z w b
def effScuSha384 (z : ZReq) (w : Word) (b : Block) : Block := scuCmd 0x08 z w b
def effScuKmac256 (z : ZReq) (w : Word) (b : Block) : Block := scuCmd 0x09 z w b
def effScuMlkemKeygen (z : ZReq) (w : Word) (b : Block) : Block := scuCmd 0x10 z w b
def effScuMlkemEncaps (z : ZReq) (w : Word) (b : Block) : Block := scuCmd 0x11 z w b
def effScuMlkemDecaps (z : ZReq) (w : Word) (b : Block) : Block := scuCmd 0x12 z w b
def effScuMldsaKeygen (z : ZReq) (w : Word) (b : Block) : Block := scuCmd 0x18 z w b
def effScuMldsaSign (z : ZReq) (w : Word) (b : Block) : Block := scuCmd 0x19 z w b
def effScuMldsaVerify (z : ZReq) (w : Word) (b : Block) : Block := scuCmd 0x1A z w b
def effScuEcdsaKeygen (z : ZReq) (w : Word) (b : Block) : Block := scuCmd 0x20 z w b
def effScuEcdsaSign (z : ZReq) (w : Word) (b : Block) : Block := scuCmd 0x21 z w b
def effScuEcdsaVerify (z : ZReq) (w : Word) (b : Block) : Block := scuCmd 0x22 z w b

/-- SCU_CMD.ABORT (R264). -/
def effScuAbort (z : ZReq) (b : Block) : Block :=
  let p := z.tag.toNat
  zcpDo z true (.scu p) (fun b => if (getScu b p).busy then scuEnd p .aborted b else b) b

/-- SCU_XFER with OUT = 0 (R265): the next LEN bytes of the inputs; bytes beyond them are not taken. -/
def effScuXferIn (z : ZReq) (len : BitVec 12) (b : Block) : Block :=
  let p := z.tag.toNat
  zcpDo z true (.scu p) (fun b =>
    let s := getScu b p
    match s.job with
    | some j =>
      if s.wantIn && decide (1 ≤ len.toNat ∧ len.toNat ≤ 2048) then
        let got := (j.got ++ winBytes s len.toNat).take j.need
        updScu p (fun s => { s with wantIn := decide (got.length < j.need), job := some { j with got := got } }) b
      else zcpRefuse z .badConfig (count { inst := z.inst } (evPort 0x31) b)
    | none => zcpRefuse z .badConfig (count { inst := z.inst } (evPort 0x31) b)) b

/-- SCU_XFER with OUT = 1 (R265): the next part, or the end after the last one. -/
def effScuXferOut (z : ZReq) (b : Block) : Block :=
  let p := z.tag.toNat
  zcpDo z true (.scu p) (fun b =>
    let s := getScu b p
    match s.job with
    | some j =>
      if s.outAvail then
        let rest := j.out.drop 2048
        if rest.isEmpty then scuEnd p s.status b else updScu p (scuOffer { j with out := rest }) b
      else zcpRefuse z .badConfig (count { inst := z.inst } (evPort 0x31) b)
    | none => zcpRefuse z .badConfig (count { inst := z.inst } (evPort 0x31) b)) b

/-- The mutation of a key generation: the new entry under index 0 (R263), then its output. -/
def bodyScuOp (p : Nat) (b : Block) : Block :=
  match (getScu b p).job with
  | none => b
  | some j =>
    let (st, out) := scuCompute b j
    let b := if scuRandom j.op then (fresh b).2 else b
    if st ≠ .ok then scuEnd p st b
    else
      let j := { j with out := out, fin := true }
      match scuMakes j.op, freeKey b with
      | none, _ => updScu p (fun s => scuOffer j { s with status := substOk b .ok }) b
      | some (ty, use), some i =>
        let e : KEntry :=
          { type := ty, depth := (getKey b 0).depth + 1, usage := use, owner := j.ctx, parent := 0, budget := unlimited, key := j.mat }
        let b := newRef tyKey i (writeKey i e b)
        updScu p (fun s => scuOffer j { s with status := substOk b .ok, newIdx := i }) b
      | some _, none => scuEnd p .quota b

/-- Teardown of a tenant instance: its operation ends, its page is zeroed (R265, R303). -/
def scuZeroPage (p : Nat) (st : Status) (b : Block) : Block :=
  let b := if (getScu b p).busy then scuEnd p st b else b
  updScu p (fun s => { status := s.status }) b

/-! The Service Request Queue (R266). -/

/-- A descriptor enters the queue of 64; its entry is pinned while it is there (R242). -/
def srqPush (d : SrqDesc) (b : Block) : Block := pin d.key { b with keys := { b.keys with srq := b.keys.srq ++ [d] } }

/-- Descriptors leave the queue unserved. -/
def srqDrop (p : SrqDesc → Bool) (b : Block) : Block :=
  (b.keys.srq.filter p).foldl (fun b d => unpin d.key b) { b with keys := { b.keys with srq := b.keys.srq.filter (fun d => !p d) } }

/-- The oldest descriptor of the highest priority. -/
def srqNext (l : List SrqDesc) : Option (SrqDesc × List SrqDesc) :=
  let best := (l.map (·.prio)).foldl min 4
  takeFirst (fun d => d.prio == best) l

/-- Whether an entry may serve a descriptor's OP (R266): only PKG entries serve AES and KMAC, with the usage SCU. -/
def srqFits (e : KEntry) : SrqOp → Bool
  | .gcm _ _ => e.type == 1 && e.usage.getLsbD 6
  | .cipher op => if op = 0x08 ∨ op = 0x1A ∨ op = 0x22 then true else e.type == 1 && e.usage.getLsbD 6 && ((1 ≤ op && op ≤ 4) || op == 9)

/-- What the SCU answers to a descriptor (R266). -/
def srqServe (b : Block) (d : SrqDesc) : SrqDone :=
  let e := getKey b d.key
  let bad := (if b.keys.mint.zeroed then [Status.tamper] else []) ++ (if e.gen = d.gen ∧ keyUsable e then [] else [.keyOrphaned])
    ++ (if srqFits e d.op then [] else [.badConfig])
  if !bad.isEmpty then { user := d.user, out := [], status := statusWorst bad }
  else
    match d.op with
    | .gcm iv aad =>
      let ct := gcmCrypt (keyBytes e.key) iv d.src
      { user := d.user, out := (ct ++ gcmTag (keyBytes e.key) iv aad ct).take d.dst, status := .ok }
    | .cipher op =>
      let (st, out) := scuCompute b { op := op, prio := d.prio, key := some d.key, mat := e.key, ctx := 0, arg := putNat 0 d.src.length ||| putNat 32 d.dst,
                                      need := d.src.length, got := d.src, out := [], fin := false, sent := false }
      { user := d.user, out := out.take d.dst, status := st }

/-! Arbitration (R264, R332, R333). -/

/-- Bound of an operation in ns (Table 9.9), by its message bytes; 4 µs for every other one. -/
def scuBound (op len : Nat) : Nat :=
  match op with
  | 0x01 | 0x02 | 0x03 | 0x04 => 100
  | 0x08 => 200 + 1300 * ((len + 1023) / 1024)
  | 0x09 => 200 + 400 * ((len + 1023) / 1024)
  | 0x10 | 0x11 => 50000
  | 0x12 => 60000
  | 0x18 => 200000
  | 0x19 => 30000000 + 1300 * ((len + 1023) / 1024)
  | 0x1A => 300000 + 1300 * ((len + 1023) / 1024)
  | 0x20 | 0x21 => 1000000
  | 0x22 => 2000000
  | _ => 4000

/-- An operation whose inputs are complete and that has not computed. -/
def scuReady (j : ScuJob) : Bool := !j.fin && !j.sent && decide (j.need ≤ j.got.length)

/-- The heads that wait for the SCU: pages whose inputs are complete, and the next descriptor of the Service Request Queue. -/
def scuHeads (b : Block) : List Head :=
  b.keys.scu.filterMap (fun p =>
    match p.2.job with
    | some j => if scuReady j then some { who := 300 + p.1, prio := j.prio, bound := scuBound j.op (argTlen j.arg) } else none
    | none => none)
  ++ (match srqNext b.keys.srq with
      | some (d, _) => [{ who := 400, prio := d.prio, bound := match d.op with | .gcm _ _ => 4000 | .cipher op => scuBound op d.src.length }]
      | none => [])

/-- SCU_OP_COMPLETE (R265, R332): the operation whose inputs are complete, its turn come at the SCU, has computed. -/
def effScuOpComplete (p : Nat) (b : Block) : Block :=
  match (getScu b p).job with
  | some j =>
    if scuReady j then
      arbStart 1 (scuHeads b) (300 + p) (fun b =>
        if (scuMakes j.op).isSome then mutate (.scuOp p) (bodyScuOp p) (updScu p (fun s => { s with job := some { j with sent := true } }) b)
        else bodyScuOp p b) b
    else b
  | none => b

end Sys2Proof.Machine
end

