-- ==== Sys2Proof/Machine/Tenants.lean ====
section
/-! DEFINITION. Tenant instances (R301 to R303): leaving RUN, creating and destroying. -/

namespace Sys2Proof.Machine

/-! Ending a queue's work (R303, R344). -/

/-- End the seal or restore that a command runs. -/
def stopSealOf (src : Src) (st : Status) (b : Block) : Block :=
  b.cm.slots.foldl (fun b s =>
    let b := if s.2.wr.any (fun j => j.src == src) then stopSeal s.1 false st b else b
    if s.2.rd.any (fun j => j.src == src) then stopSeal s.1 true st b else b) b

/-- The command in progress on a queue ends with ABORTED: at once where it has not started or can be stopped, else when its
engine finishes. -/
def killCommand (q : Nat) (b : Block) : Block :=
  match (getQueue b q).cmd with
  | some c =>
    if c.phase = .wait ∨ c.phase = .slot then endUnrun (.queue q) .aborted b
    else if c.phase = .ready then cmdEnd (.queue q) .aborted 0 b
    else if c.phase = .running then
      let b := updQueue q (fun x => { x with cmd := some { c with kill := some .aborted } }) b
      let b := (b.red.invs.filter (fun v => v.src == .queue q)).foldl (fun b v => endInv v.id .aborted b) b
      stopSealOf (.queue q) .aborted b
    else b
  | none => b

/-- A queue enters STOPPED and its command ends with ABORTED. -/
def abortQueue (q : Nat) (b : Block) : Block :=
  killCommand q (updQueue q (fun x => { x with state := if x.state = .open then .stopped else x.state, part := none }) b)

/-! Leaving RUN (R303). -/

/-- Contexts of a tag. -/
def ctxsOf (b : Block) (tag : Tag) : List Nat := (b.cm.ctxs.filter (fun c => c.2.state != .free && c.2.tag == tag)).map (·.1)

/-- R303: the recorded stream stops, the queues and their commands end, the SCU page is zeroed, the keys of the tag's contexts are
invalidated. -/
def leaveRun (tag : Tag) (b : Block) : Block :=
  let t := getTInst b tag.toNat
  let b := if t.tdisp then ideStop t.stream b else b
  let b := (b.cm.queues.filter (fun q => q.2.state != .free && q.2.tag == tag)).foldl (fun b q => abortQueue q.1 b) b
  let b := scuZeroPage tag.toNat .aborted b
  (ctxsOf b tag).foldl (fun b c => (liveKeys b (BitVec.ofNat 16 c)).foldl (fun b i => objectDying 5 i b) b) b

/-- A tenant instance leaves RUN for a state. -/
def tenantTo (tag : Tag) (st : TState) (b : Block) : Block :=
  let b := if (getTInst b tag.toNat).state = .run ∨ (getTInst b tag.toNat).state = .frozen then leaveRun tag b else b
  updTInst tag.toNat (fun t => { t with state := st }) b

/-- A destroyed instance: out of RUN, its SCU page zeroed whatever its state (R265), its contexts torn down (R303, R317). -/
def destroyTenant (tag : Tag) (b : Block) : Block :=
  let b := updTInst tag.toNat (fun t => { t with dying := true }) (scuZeroPage tag.toNat .aborted (tenantTo tag .error b))
  (ctxsOf b tag).foldl (fun b c => if (getRef b 1 c).dying then b else objectDying 1 c b) b

/-- An instance is FREE once its objects are gone (R303). -/
def reapTenants (b : Block) : Block :=
  b.trust.tinst.foldl (fun b t =>
    if t.2.dying && (ctxsOf b (BitVec.ofNat 6 t.1)).isEmpty then updTInst t.1 (fun _ => {}) b else b) b

/-- TINST_CREATE (R301, R346). -/
def effTinstCreate (m : MbReq) (tag : Tag) (pasid : BitVec 20) (tdisp : Bool) (ifid : BitVec 16) (b : Block) : Block :=
  mbCommand m 0x0120 [.k] (fun j b =>
    let used := (b.trust.tinst.filter (fun t => t.2.state != .free)).length
    let bad := (if packageOos b then [Status.outOfService] else [])
      ++ (if 64 ≤ used then [.quota] else [])
      ++ (if (getTInst b tag.toNat).state = .free then [] else [.badConfig])
    if bad.isEmpty then
      mbEnd j .ok [] (updTInst tag.toNat (fun _ => { state := if tdisp then .config else .run, tdisp := tdisp, pasid := pasid, ifid := ifid }) b)
    else mbEnd j (statusWorst bad) [] b) b

/-- TINST_DESTROY (R303). -/
def effTinstDestroy (m : MbReq) (tag : Tag) (b : Block) : Block :=
  mbCommand m 0x0121 [.k, .m] (fun j b =>
    if (getTInst b tag.toNat).state = .free ∨ (getTInst b tag.toNat).dying = true then mbEnd j .badConfig [] b
    else mbEnd j .ok [] (destroyTenant tag b)) b

end Sys2Proof.Machine
end

