-- ==== Sys2Proof/Machine/Kill.lean ====
section
/-! DEFINITION. Ending outstanding work with a status, by who issued it (R66, R306, R343, R351). -/

namespace Sys2Proof.Machine

/-- End the outstanding MN_ requests of a port that a test holds of: a read waits on MN_RDATA with the status, a write that
has not passed its checks is dropped, one that has still reaches memory; each is acknowledged with the status. A write whose
page is being re-encrypted is finished with it. -/
def killMn (n : Nat) (p : MnReq → Bool) (st : Status) (b : Block) : Block :=
  let x := getPort b n
  let b := (x.reads.filter (fun r => p r.rq && !r.delivered && r.ready.isNone)).foldl
    (fun b r => readReady n r.seq (rdOut r.rq.id st 0 0 false) false [] b) b
  (x.haz.filter (fun h => p h.rq && !h.acked)).foldl (fun b h =>
    if h.phase = .waiting ∧ !x.pages.any (fun w => !w.sweep && w.seq == h.seq && w.stage != .begin) then writeEnd n h st b
    else wackNow n h.rq.id st (updPort n (mapHaz h.seq (fun z => { z with acked := true })) b)) b

/-- End the LT_ requests of an instance that wait on its ports; atomics with a status of their own. -/
def killHeld (i : Nat) (p : LtOr → Bool) (st atom : Status) (b : Block) : Block :=
  let mine := fun (h : LtHeld) => h.xfers.head?.any p
  ((getFab b i).held.filter mine).foldl (fun b h =>
    match h.xfers with
    | x :: _ => ocPlain i h.port x.id x.op.toNat (if opAtomic x.op.toNat then atom else st) b
    | [] => b)
    (updFab i (fun f => { f with held := f.held.filter (fun h => !mine h) }) b)

/-- End the outstanding entries of one instance. -/
def killInst (i : Nat) (p : Outst → Bool) (st atom : Status) (b : Block) : Block :=
  ((getFab b i).outst.filter (fun e => e.2.live && p e.2)).foldl (fun b e =>
    raise i 5 (completeReq i e.1 (if opAtomic e.2.op then atom else st) 0 false 0 false b)) b

/-! A tag's outstanding work (R306). -/

/-- Something of a tag is outstanding. -/
def tagBusy (b : Block) (tag : Tag) : Bool :=
  b.mport.any (fun e => e.2.reads.any (fun r => r.rq.tag == tag && !r.delivered) || e.2.haz.any (fun h => h.rq.tag == tag && !h.acked))
    || b.fab.inst.any (fun e => e.2.outst.any (fun o => o.2.live && o.2.tag == tag)
        || e.2.held.any (fun h => h.xfers.head?.any (fun x => x.tag == tag)))
    || b.cm.queues.any (fun q => q.2.tag == tag && q.2.cmd.isSome)
    || (getScu b tag.toNat).busy || b.red.invs.any (fun v => v.tag == tag)

/-- Whatever of a tag is outstanding ends with a status. -/
def killTag (tag : Tag) (st : Status) (b : Block) : Block :=
  let b := b.mport.foldl (fun b e => killMn e.1 (fun r => r.tag == tag) st b) b
  let b := b.fab.inst.foldl (fun b e => killInst e.1 (fun o => o.tag == tag) st st (killHeld e.1 (fun x => x.tag == tag) st st b)) b
  let b := (b.red.invs.filter (fun v => v.tag == tag)).foldl (fun b v => endInv v.id st b) b
  let b := (b.cm.queues.filter (fun q => q.2.tag == tag && q.2.cmd.isSome)).foldl (fun b q => killCommand q.1 b) b
  if (getScu b tag.toNat).busy then scuEnd tag.toNat st b else b

end Sys2Proof.Machine
end

