-- ==== Sys2Proof/Machine/Link.lean ====
section
/-! DEFINITION. Link commands (02 R42 to R46, 05): egress selection and encryption, credits, received packets with the
checks of Table 5.4, resynchronisation, LL_UP, the registers of the Egress Staging Buffer. -/

namespace Sys2Proof.Machine

/-! Egress (R135, R136, R152). -/

/-- The VC of the control class of an LCS's instance. -/
def ctlVc (b : Block) (n : Nat) : Nat := (esbClass (getEsb b (getLcs b n).inst) clsCtl).vc

/-- Take flits' credits on a VC. -/
def takeCrd (n vc f : Nat) (b : Block) : Block := updLport n (fun p => { p with txCrd := listMod p.txCrd vc (· - f) }) b

/-- The pair in state UP a staged packet leaves on, with the key it leaves under (R135, R143). -/
def sendKey (b : Block) (n : Nat) (q : Pkt) : Option (Nat × Pair × Nat × Key) :=
  match findPair b n q.dst q.dstLcs with
  | some (k, p) => if p.up then (txKey (epochAt b n) p.keys).map (fun e => (k, p, e.1, e.2)) else none
  | none => none

/-- Flits that an LCS puts on LL_TX in a cycle (R158). -/
def txRate (b : Block) (n : Nat) : Nat := if (getLcs b n).dual then 1 else 2

/-- Give a packet to LL_TX: its credits go, and its cells stay until its last flit has left (R43, R136, R148). -/
def driveTx (n : Nat) (s : Sent) (b : Block) : Block :=
  let per := txRate b n
  updLport n (fun x => { x with sending := some s, lastTx := llBeats per s.vc s.flits }) (takeCrd n s.vc s.flits.length b)

/-- The last flit of the packet before has left: its cells return at once (R148). -/
def txLeft (n : Nat) (b : Block) : Block :=
  if (getLport b n).sending.isSome then stageWaiting (getLcs b n).inst (updLport n (fun x => { x with sending := none }) b) else b

/-- An atomic's SENT and its line's new check value, written at selection (R184). -/
def stampSent (now : BitVec 64) (q : Pkt) : Pkt :=
  if q.cls = clsReq ∧ opAtomic q.op = true ∧ q.poison = 0 then
    { q with lines := q.lines.map (fun e =>
        let l := setWord e.1 3 now
        (l, sorrelOf l)) }
  else q

/-- Encrypt and send a staged packet whole (R131 to R135); a Dual mismatch inverts its tag (Table 8.5). -/
def sendStaged (n : Nat) (s : Staged) (k : Nat) (p : Pair) (epoch : Nat) (key : Key) (dual : Bool) (b : Block) : Block :=
  let i := (getLcs b n).inst
  let l := getLcs b n
  let q := stampSent (thyme b i) s.pkt
  let seq := (p.vcs.getD q.vc {}).txNext
  let dir := dirBit q.src.toNat n q.dst.toNat q.dstLcs
  let bytes := protect key (pktIv epoch q.vc dir seq) (pktHeader (if l.z2 then 2 else 3) dir epoch seq q) (pktSegments q)
  let b := updPair n k (fun p => { p with vcs := listMod p.vcs q.vc (fun v => { v with txEpoch := epoch, txNext := v.txNext + 1 }) }) b
  let b := updEsb i (fun e => { e with staged := e.staged.erase s }) b
  let og := ((List.range q.lines.length).filter (fun j => q.origin.getLsbD j)).length
  let b := covLcs n 1 (q.lines.length - og) (covLcs n 0 og b)
  let b := if dual then integrity i s.tag .sorrel (covLcs n 5 1 b) else b
  let fl := flitsOf (if dual then invertTag bytes else bytes)
  count (whoLcs b n) (evLink (16 + q.vc)) (driveTx n { vc := q.vc, flits := fl, pair := some k, cls := some q.cls, shared := s.shared } b)

/-- A packet that is to be sent again goes first on its VC (R136). -/
def vcWaits (b : Block) (n vc : Nat) : Bool := (getLport b n).resend.any (fun s => s.vc == vc)

/-- The head of a class's VOQ that can leave an LCS: not held by a path change, its pair's key usable, credits for all
its flits, no packet of its VC to be sent again; a CTL packet leaves one credit for abort flits (R152). -/
def headOf (b : Block) (n c : Nat) : Option (Staged × Nat × Pair × Nat × Key) :=
  let ok := (getEsb b (getLcs b n).inst).staged.filter (fun s => s.lcs == n && s.pkt.cls == c && !s.held)
  match ok.filterMap (fun s => (sendKey b n s.pkt).map (fun k => (s, k))) with
  | [] => none
  | (s, k) :: _ =>
    let need := cellsOf s + (if c = clsCtl then 1 else 0)
    if need ≤ (getLport b n).txCrd.getD s.pkt.vc 0 ∧ vcWaits b n s.pkt.vc = false then some (s, k) else none

/-- The round of R152. -/
def drrRound : List Nat := [clsRsp, clsRdx, clsReq, clsMsg]

/-- Deficit round robin over {RSP, RDX, REQ, MSG}: the packet that leaves and the round's state after it. -/
def drrPick (b : Block) (n : Nat) : Nat → Nat × Bool → Sparse Nat → Option (Staged × Nat × Pair × Nat × Key) × (Nat × Bool) × Sparse Nat
  | 0, t, d => (none, t, d)
  | f + 1, (pos, used), d =>
    let c := drrRound.getD pos 0
    let at' := n * 8 + c
    match headOf b n c with
    | none =>
      let empty := !(getEsb b (getLcs b n).inst).staged.any (fun s => s.lcs == n && s.pkt.cls == c)
      drrPick b n f ((pos + 1) % 4, false) (if empty then Sparse.set 0 d at' 0 else d)
    | some h =>
      let d := if used then d else Sparse.upd 0 d at' (· + (esbClass (getEsb b (getLcs b n).inst) c).weight * 9)
      if cellsOf h.1 ≤ Sparse.get 0 d at' then (some h, (pos, true), Sparse.upd 0 d at' (· - cellsOf h.1))
      else drrPick b n f ((pos + 1) % 4, false) d

/-- A resync packet of a pair (R140 to R142). -/
def resyncPkt (b : Block) (n : Nat) (p : Pair) (ack : Option Nat) (epoch : Nat) (key : Key) : Bytes :=
  let me := b.trust.dom.pkg
  let dir := dirBit me.toNat n p.peer.toNat p.lcs
  let rseq := p.rseqTx + 1
  let broken := (p.vcs.zipIdx.map (fun e => if e.1.rx = .broken then 2 ^ e.2 else 0)).foldl (· + ·) 0
  let body := (p.vcs.map (fun v => leBytes 8 (match ack with | some _ => v.txNext | none => v.rxNext))).flatten
  protect key (pktIv epoch 0 dir rseq) (resyncHeader ack.isSome dir epoch rseq p.peer p.lcs me n (ack.getD broken)) body

/-- The oldest resync packet owed whose pair has a usable key (R135, R152). A REQ waits while LL_RETRAIN is asserted: it
leaves once LL_UP has risen again (R142 step 1, Table 5.6; DEDUCED, log 21). -/
def resyncHead (b : Block) (n : Nat) : Option ((Nat × Option Nat) × Nat × Key) :=
  (((getLport b n).resync.filter (fun e => (getPair b n e.1).up && (e.2.isSome || !(getLport b n).retrain))).filterMap
    (fun e => (txKey (epochAt b n) (getPair b n e.1).keys).map (fun k => (e, k.1, k.2)))).head?

/-- A pair in state UP that has no usable key, of a staged packet or of an owed resync packet, raises INT[6] (R135). -/
def keyless (b : Block) (n : Nat) : Bool :=
  let bare := fun (p : Pair) => p.up && (txKey (epochAt b n) p.keys).isNone
  (getEsb b (getLcs b n).inst).staged.any (fun s => s.lcs == n && (findPair b n s.pkt.dst s.pkt.dstLcs).any (fun e => bare e.2))
    || (getLport b n).resync.any (fun e => bare (getPair b n e.1))

/-- Whether an LCS may drive LL_TX. -/
def canSend (b : Block) (n : Nat) : Bool :=
  (getLcs b n).present && (getInst b (getLcs b n).inst).released && (getLport b n).up

/-- Send an owed resync packet (R140 to R142); a Dual mismatch inverts its tag (Table 8.5). -/
def sendResync (n : Nat) (e : Nat × Option Nat) (epoch : Nat) (key : Key) (dual : Bool) (b : Block) : Block :=
  let q := getPair b n e.1
  let b := updPair n e.1 (fun q => { q with rseqTx := q.rseqTx + 1, sends := if e.2.isNone then q.sends + 1 else q.sends }) b
  let bytes := resyncPkt b n q e.2 epoch key
  let b := if dual then alarm .sorrel (raise (getLcs b n).inst 4 (covLcs n 5 1 b)) else b
  let b := updLport n (fun x => { x with resync := x.resync.erase e }) b
  count (whoLcs b n) (evLink 3)
    (driveTx n { vc := ctlVc b n, flits := flitsOf (if dual then invertTag bytes else bytes), pair := none, cls := none, shared := false } b)

/-- The packet to be sent again, once its VC holds the credits (R136, R152). -/
def resendHead (b : Block) (n : Nat) : Option Sent :=
  (getLport b n).resend.filter (fun s => decide (s.flits.length ≤ (getLport b n).txCrd.getD s.vc 0))

/-- What an LCS sends next (R136, R152, R153): the packet to be sent again, a Bay abort flit, a resync packet, a CTL packet, or the
round's next. One that lacks its credits keeps no other VC waiting. -/
def selectNext (n : Nat) (dual : Bool) (b : Block) : Block :=
  let p := getLport b n
  let i := (getLcs b n).inst
  let crd := p.txCrd.getD (ctlVc b n) 0
  match resendHead b n with
  | some s => driveTx n s (updLport n (fun x => { x with resend := none }) b)
  | none =>
    match (if 1 ≤ crd then p.bayFlit else none) with
    | some f =>
      driveTx n { vc := ctlVc b n, flits := [f], pair := none, cls := none, shared := false } (updLport n (fun x => { x with bayFlit := none }) b)
    | none =>
      match (if 3 ≤ crd then resyncHead b n else none) with
      | some (e, epoch, key) => sendResync n e epoch key dual b
      | none =>
        match headOf b n clsCtl with
        | some (s, k, q, epoch, key) => sendStaged n s k q epoch key dual b
        | none =>
          let e := getEsb b i
          match drrPick b n 9 (Sparse.get (0, false) e.turn n) e.drr with
          | (none, _, _) => count (whoLcs b n) (evLink 4) b
          | (some (s, k, q, epoch, key), t, d) =>
            sendStaged n s k q epoch key dual (updEsb i (fun e => { e with turn := Sparse.set (0, false) e.turn n t, drr := d }) b)

/-- EGRESS_SELECT (R135, R136, R148, R152, R153): the datapath is free, so the packet before has left; the next is selected. -/
def effEgressSelect (n : Nat) (hw : HwFault) (b : Block) : Block :=
  if !canSend b n then b
  else
    let b := txLeft n b
    let b := if keyless b n then raise (getLcs b n).inst 6 b else b
    selectNext n ((getLcs b n).dual && (hw == .dualData || hw == .dualMac)) b

/-- LL_TX_CREDIT_RETURN (R29, R43): two bits per VC, clamped at 1,024 with a port error; none counts while the link is down, or between
a soft reset and the next rise of LL_UP. -/
def effLlTxCreditReturn (n : Nat) (crd : BitVec 16) (b : Block) : Block :=
  let p := getLport b n
  if !(getInst b (getLcs b n).inst).released || !(getLcs b n).present || !p.up || p.crdHold then b
  else
    let new := (p.txCrd.zipIdx.map (fun e => e.1 + fieldNat crd (2 * e.2 + 1) (2 * e.2)))
    let tooMany := new.any (fun c => decide (1024 < c))
    let b := updLport n (fun x => { x with txCrd := new.map (fun c => min c 1024) }) b
    if tooMany then portError (whoLcs b n) 12 b else b

/-! LL_UP and LL_RX_MODE (R43, R46, R136, R144). -/

/-- LL_UP_RISE (R43, R142, R144, R157): credits afresh, the pending mode and division in force, resync REQs owed. -/
def effLlUpRise (n : Nat) (b : Block) : Block :=
  let p := getLport b n
  let l := getLcs b n
  if !l.present || !(getInst b l.inst).released || p.up then b
  else
    let bad := !modeLegal b n p.modeNext
    let b := updLport n (fun x => { x with
      up := true, retrain := false, mode := x.modeNext, modeBad := bad, crdHold := false, txCrd := [0, 0, 0, 0, 0, 0, 0, 0], rxDiv := l.rxvc,
      rxGrant := l.rxvc.zipIdx.map (fun e => e.1 - x.rxHeld.getD e.2 0), search := x.search && x.modeNext }) b
    let b := updLcs n (fun l => { l with state := if l.state = .outOfService then .outOfService else .inService }) b
    let b := p.pairs.foldl (fun b e => oweReq n e.1 b) b
    if bad then loneFault n .badConfig b else b

/-- The flits of a partly received packet and of a stream not yet taken go, without a fault (R43). -/
def rxAbandon (n : Nat) (b : Block) : Block :=
  let p := getLport b n
  let b := match p.rxOpen with
    | some (vc, fl) => giveFlits n vc fl.length b
    | none => b
  let b := (p.rxBuf.filter (fun h => h.last)).foldl (fun b h => giveFlits n h.vc 1 b) b
  updLport n (fun x => { x with rxOpen := none, rxStray := [], rxBuf := [] }) b

/-- LL_UP_FALL (R43, R46, R136): LL_RETRAIN is released; `cut` says that the last packet's last flit had not left, and
it will be sent again whole; otherwise it has left, and its cells return. -/
def effLlUpFall (n : Nat) (cut : Bool) (b : Block) : Block :=
  let p := getLport b n
  if !(getLcs b n).present || !p.up then b
  else
    let again := p.resend.or (if cut then p.sending else none)
    let b := rxAbandon n b
    stageWaiting (getLcs b n).inst (updLport n (fun x => { x with up := false, retrain := false, sending := none, resend := again }) b)

/-- LL_RX_MODE_CHANGE (R144, Table 2.10): while LL_UP is high, a link-integrity fault; the mode applies after the
retraining. -/
def effLlRxModeChange (n : Nat) (mode : Bool) (b : Block) : Block :=
  let p := getLport b n
  if !(getLcs b n).present || p.modeNext == mode then b
  else
    let b := updLport n (fun x => { x with modeNext := mode }) b
    if p.up then loneFault n .badConfig (portError (whoLcs b n) 11 b) else b

/-- RETRAIN_LIMIT_EXPIRY (R46): LL_UP is not back in time; the LCS is out of service. -/
def effRetrainLimitExpiry (n : Nat) (b : Block) : Block :=
  let p := getLport b n
  if (getLcs b n).state = .retraining ∧ p.up = false then
    count { inst := (getLcs b n).inst } (evBay 3)
      (updLport n (fun x => { x with leftMask := some b.time }) (updLcs n (fun l => { l with state := .outOfService }) b))
  else b

/-! Ingress (R137 to R142, R146). -/

/-- The tag a received packet serves, where one is known (R235). -/
def pktTag (b : Block) (q : Pkt) : Option Tag :=
  if q.cls = clsReq ∨ q.cls = clsMsg then some (getWin b (txnExport q.txn)).tag
  else if q.cls = clsRsp then some (getOut b (rspIinst q.txn) (rspReqid q.txn % 32768)).tag
  else (b.red.invs.find? (fun v => v.plan == fieldNat q.txn 7 0 && coll16 v == fieldNat q.txn 31 16)).map (·.tag)

/-- Count a discarded packet and give its flits back. -/
def rxDrop (n vc f k : Nat) (b : Block) : Block := giveFlits n vc f (count (whoLcs b n) (evLink k) b)

/-- A packet marked CE is counted per pair and per class (R151). -/
def countCe (n pair : Nat) (q : Pkt) (b : Block) : Block :=
  if q.ce then count (whoLcs b n) (evLink 24) (updLport n (fun x => { x with ce := Sparse.upd 0 x.ce (pair * 8 + q.cls) (· + 1) }) b)
  else b

/-- The KIND of a fence line is one of Table 11.5. -/
def fenceKindOk (q : Pkt) : Bool :=
  let kind := (q.lines.headD (0, 0)).1.toNat / 2 ^ 128 % 256
  decide (1 ≤ kind ∧ kind ≤ 6)

/-- A packet that passed every check is released to what it serves (R165, R176, R221, R398); a fence or domain line of
the CTL class goes to Sage, whose own command brings it, and a fence line of a reserved KIND is discarded and counted (R330). -/
def release (n pair : Nat) (q : Pkt) (b : Block) : Block :=
  let fl := pktFlits q.lines.length
  let b := countCe n pair q b
  if q.cls = clsReq then takeRequest n pair q b
  else if q.cls = clsRsp then responseArrive n q b
  else if q.cls = clsMsg then (if q.op = 0x18 then takeRequest n pair q b else rxDrop n q.vc fl 13 b)
  else if q.op = 0x1C ∧ fieldBit q.txn 14 = true then takeAbort n pair q (giveFlits n q.vc fl b)
  else if q.cls = clsRdx then (if q.op = 0x1C then takePlanPacket n pair q b else rxDrop n q.vc fl 13 b)
  else if q.op = 0x1D ∧ fenceKindOk q = false then giveFlits n q.vc fl (count { inst := (primaryInst b).getD 0 } (evCtx 2) b)
  else giveFlits n q.vc fl b

/-- A status of a packet reported for the tag it serves, where one is known (R235). -/
def packetError (n : Nat) (q : Pkt) (st : Status) (b : Block) : Block :=
  match pktTag b q with
  | some t => silentError (getLcs b n).inst t st b
  | none => b

/-- Check 8 (R137, R231): each segment's CRC against its line; a line that fails is delivered poisoned, and a poisoned line is
not checked again. -/
def rxLines (n : Nat) (q : Pkt) (nl : Nat) (plain : Bytes) (b : Block) : Pkt × Block :=
  (List.range nl).foldl (fun a j =>
    let (q, b) := a
    let line := lineOf ((plain.drop (132 * j)).take 128)
    let crc : BitVec 32 := BitVec.ofNat 32 (leNat ((plain.drop (132 * j + 128)).take 4))
    let bit := BitVec.ofNat 4 (2 ^ j)
    if q.poison.getLsbD j then ({ q with lines := q.lines ++ [((0 : Line), sorrelOf 0)] }, b)
    else
      let (f, b) := forced true n 2 b
      if f || sorrelOf line != crc then
        let b := covLcs n 4 1 (count (whoLcs b n) (evLink 38) b)
        let b := packetError n q .sorrelFail (alarm .sorrel (raise (getLcs b n).inst 4 b))
        ({ q with lines := q.lines ++ [((0 : Line), sorrelOf 0)], poison := q.poison ||| bit, bad := q.bad ||| bit }, b)
      else ({ q with lines := q.lines ++ [(line, crc)] }, covLcs n 3 1 b)) (q, b)

/-- The header's part of check 2 fails (R137): TYPE, VER, NLINES, SEQ bit 63, or a VC other than the one it came on. -/
def headBad (b : Block) (n vc : Nat) (h : RxHdr) : Bool :=
  h.typ != 0 || h.ver != (if (getLcs b n).z2 then 2 else 3) || decide (4 < h.nl) || decide (2 ^ 63 ≤ h.seq) || h.pkt.vc != vc

/-- The one pair of an LCS in unframed mode (R144). -/
def onlyPair (b : Block) (n : Nat) : Option (Nat × Pair) :=
  if (getLport b n).mode then (getLport b n).pairs.find? (fun e => e.2.valid) else none

/-- Failing checks 1, 2, 5, 6 and 7 of a packet, with their events (R137): counted each, R25 selecting the status recorded, and a
link-integrity fault on the pair and VC. Checks 1, 2, 6 and 7 lose the framing of an unframed stream (R145). -/
def rxFault (n vc : Nat) (pair : Option (Nat × Pair)) (fails : List (Nat × Status)) (b : Block) : Block :=
  let b := fails.foldl (fun b e => count (whoLcs b n) (evLink e.1) b) b
  let st := statusWorst (fails.map (·.2))
  let loses := fails.any (fun e => e.1 != 35)
  match pair.or (onlyPair b n) with
  | some (k, _) => faultAt n k vc st loses b
  | none => loneFault n st (updLport n (fun p => { p with search := p.search || (p.mode && loses) }) b)

/-- The key of an epoch that check 5 accepts: e − 1, e or e + 1, and held (R137). -/
def rxKey (b : Block) (n : Nat) (p : Pair) (epoch : Nat) : Option Key :=
  let e := epochAt b n
  if epoch ≤ e + 1 ∧ e ≤ epoch + 1 then (p.keys.find? (fun k => k.1 == epoch)).map (·.2) else none

/-- Checks 5 to 7 of a data packet against its pair (R137): the failing ones, and the key where it is held. Check 7 is made of a `whole`
packet, one that passed check 2. -/
def rxJudge (n vc : Nat) (bytes : Bytes) (h : RxHdr) (p : Pair) (whole : Bool) (b : Block) : List (Nat × Status) × Option Key × Block :=
  let v := p.vcs.getD vc {}
  let seqBad := decide (h.epoch < v.rxEpoch) || h.seq != v.rxNext
  let six := if seqBad then [(36, Status.replay)] else []
  match rxKey b n p h.epoch with
  | none => ((35, Status.epochReject) :: six, none, b)
  | some k =>
    let ct := (bytes.drop 32).take (132 * h.nl)
    let q := h.pkt
    let bad := h.dir != dirBit q.src.toNat q.srcLcs q.dst.toNat q.dstLcs
      || gcmTag (keyBytes k) (pktIv h.epoch vc h.dir h.seq) (bytes.take 32) ct != (bytes.drop (32 + 132 * h.nl)).take 16
    let (f, b) := if whole then forced true n 1 b else (false, b)
    (six ++ (if whole && (f || bad) then [(37, Status.tagFail)] else []), some k, b)

/-- A packet that passed checks 1 to 7 (R137): the sequence advances, its lines are checked, and it is released. -/
def rxAccept (n vc pk : Nat) (bytes : Bytes) (h : RxHdr) (key : Key) (b : Block) : Block :=
  let b := updPair n pk (fun p => { p with vcs := listMod p.vcs vc (fun v =>
    { v with rx := .normal, rxEpoch := h.epoch, rxNext := h.seq + 1 }) }) b
  let plain := gcmCrypt (keyBytes key) (pktIv h.epoch vc h.dir h.seq) ((bytes.drop 32).take (132 * h.nl))
  let (q, b) := rxLines n h.pkt h.nl plain b
  release n pk q (count (whoLcs b n) (evLink (48 + vc)) b)

/-- Two copies of an ingress computation disagree (Table 8.5): the packet is discarded, with a link-integrity fault. -/
def rxDual (n vc : Nat) (found : Nat × Pair) (q : Pkt) (b : Block) : Block :=
  let b := packetError n q .sorrelFail (alarm .sorrel (raise (getLcs b n).inst 4 (covLcs n 5 1 b)))
  faultAt n found.1 vc .sorrelFail false b

/-- A data packet through the checks of Table 5.4, its flits already taken. Checks 5 to 7 are made of a packet that names this LCS and
a pair in state UP. -/
def rxData (n vc : Nat) (bytes : Bytes) (flits : Nat) (hw : HwFault) (b : Block) : Block :=
  let l := getLcs b n
  let h := rxHeader bytes
  let q := h.pkt
  let found := findPair b n q.src q.srcLcs
  let two := if headBad b n vc h || flits != pktFlits h.nl then [(32, Status.badConfig)] else []
  let b := if two.isEmpty && (bytes.drop (pktLen h.nl)).any (fun x => x != 0) then count (whoLcs b n) (evLink 5) b else b
  let back := fun (b : Block) => giveFlits n vc flits b
  let early := fun (b : Block) => if two.isEmpty then b else rxFault n vc found two b
  if q.dst ≠ b.trust.dom.pkg ∨ q.dstLcs ≠ n then early (raise l.inst 5 (rxDrop n vc flits 33 b))
  else
    match found.filter (fun e => e.2.up) with
    | none => early (raise l.inst 5 (rxDrop n vc flits 34 b))
    | some (pk, p) =>
      let v := p.vcs.getD vc {}
      if v.rx = .broken then early (rxDrop n vc flits 39 b)
      else if two.isEmpty ∧ v.rx = .skip ∧ h.seq < v.rxNext ∧ (rxKey b n p h.epoch).isSome = true then rxDrop n vc flits 39 b
      else if two.isEmpty && l.dual && (hw == .dualData || hw == .dualMac) then rxDual n vc (pk, p) q (back b)
      else
        let (fails, key, b) := rxJudge n vc bytes h p two.isEmpty b
        let all := two ++ fails
        if all.isEmpty then rxAccept n vc pk bytes h (key.getD 0) b
        else
          let b := if fails.any (fun e => e.1 == 37) then packetError n q .tagFail (tagNoise n b) else b
          rxFault n vc found all (back b)

/-- A resync packet's flit count or VC, or a field of Table 5.5, is not as it must be (check 2 as R141 applies it). -/
def resyncBad (b : Block) (n vc flits h : Nat) : Bool :=
  let fd := fun (hi lo : Nat) => (h >>> lo) % 2 ^ (hi + 1 - lo)
  flits != 2 || vc != ctlVc b n || fd 71 66 != 0 || fd 255 208 != 0 || fd 159 159 != 1

/-- What an accepted resync packet does (R142): a REQ is owed its ACK; an ACK puts the VCs it names into SKIP. -/
def resyncTake (n pk h : Nat) (plain : Bytes) (b : Block) : Block :=
  let fd := fun (hi lo : Nat) => (h >>> lo) % 2 ^ (hi + 1 - lo)
  let p := getPair b n pk
  let val := fun (v : Nat) => leNat ((plain.drop (8 * v)).take 8)
  let mask := fd 207 200
  let b := updPair n pk (fun p => { p with rseqRx := fd 159 96 }) b
  if fd 64 64 = 0 then
    count (whoLcs b n) (evLink 7) (updLport n (fun x => { x with resync := x.resync ++ [(pk, some mask)] }) b)
  else
    let hit := fun (v : Nat) => mask.testBit v && (p.vcs.getD v {}).rx == .broken
    if (List.range 8).any (fun v => hit v && decide (val v < (p.vcs.getD v {}).rxNext)) then count (whoLcs b n) (evLink 36) b
    else
      let b := updPair n pk (fun p => { p with sends := 0, vcs := p.vcs.zipIdx.map (fun x =>
        if hit x.2 then { x.1 with rx := .skip, rxNext := val x.2 } else x.1) }) b
      let b := updLport n (fun x => { x with resync := x.resync.filter (fun e => !(e.1 == pk && e.2.isNone)) }) b
      oweReq n pk b

/-- A resync packet (R141, R142): whether it is accepted. One that fails is discarded and counted, each failing check in its own event;
it breaks no stream. A candidate that fails counts as link noise. -/
def rxResync (n vc : Nat) (bytes : Bytes) (flits : Nat) (dual cand : Bool) (b : Block) : Bool × Block :=
  let i := (getLcs b n).inst
  let h := leNat (bytes.take 32)
  let fd := fun (hi lo : Nat) => (h >>> lo) % 2 ^ (hi + 1 - lo)
  let src : Pkg := BitVec.ofNat 14 (fd 193 180)
  let ev := fun (k : Nat) (b : Block) => count (whoLcs b n) (evLink k) b
  let fail := fun (b : Block) => (false, if cand then ev 1 (ev 6 b) else ev 6 b)
  let two := resyncBad b n vc flits h
  let b := if two then ev 32 b else b
  if fd 173 160 ≠ b.trust.dom.pkg.toNat ∨ fd 179 174 ≠ n then fail (raise i 5 (ev 33 b))
  else
    match (findPair b n src (fd 199 194)).filter (fun e => e.2.up) with
    | none => fail (raise i 5 (ev 34 b))
    | some (pk, p) =>
      let epoch := fd 95 72
      match rxKey b n p epoch with
      | none => fail (ev 35 b)
      | some key =>
        if two then fail b
        else if dual then fail (alarm .sorrel (raise i 4 (covLcs n 5 1 b)))
        else
          let ct := (bytes.drop 32).take 64
          let iv := pktIv epoch 0 (fd 65 65) (fd 159 96)
          let dir := dirBit src.toNat (fd 199 194) b.trust.dom.pkg.toNat n
          let (f, b) := forced true n 1 b
          if f || fd 65 65 != dir || gcmTag (keyBytes key) iv (bytes.take 32) ct != (bytes.drop 96).take 16 then
            (false, tagNoise n (ev 37 (ev 6 b)))
          else if fd 159 96 ≤ p.rseqRx then fail b
          else
            let b := if (bytes.drop 112).any (fun x => x != 0) then ev 5 b else b
            (true, resyncTake n pk h (gcmCrypt (keyBytes key) iv ct) b)

/-- An abort flit (R350): accepted, it starts the Bay abort it carries; any other flit with this marker is discarded
and counted. -/
def rxAbortFlit (n : Nat) (f : Flit) (b : Block) : Block :=
  let l := leBytes 64 f.toNat
  let t := leNat ((l.drop 20).take 8)
  let now := (thyme b (getLcs b n).inst).toNat
  let iv := (l.drop 20).take 8 ++ (l.drop 16).take 2 ++ [0, 0]
  let ok := l.take 8 == abortMarker && leNat ((l.drop 8).take 8) == b.trust.dom.id.toNat
    && b.trust.dom.state == .admitted
    && (match (getLport b n).kBay with
      | some k => gcmTag (keyBytes k) iv (l.take 48) [] == l.drop 48
      | none => false)
    && decide (t ≤ now + 1000000 ∧ now ≤ t + 1000000) && decide (b.bay.lastRel.toNat < t)
  if !ok then count (whoLcs b n) (evLink 8) b
  else if b.bay.state = 1 ∨ b.bay.due.isSome then b
  else { b with bay := { b.bay with due := some (statusOf ((l[18]?).getD 0).toNat, BitVec.ofNat 14 (leNat ((l.drop 16).take 2))) } }

/-! Flits as they come (R42 to R44, R69, R145, R146). -/

/-- A flit of LL_RX with its slot's SOP, EOP and VC. -/
structure RxFlit where
  sop  : Bool
  eop  : Bool
  vc   : Nat
  flit : Flit
  deriving DecidableEq, Repr

/-- The flit of a slot of a cycle. -/
def slotFlit (x : LlBeat) (k : Nat) : RxFlit :=
  { sop := x.sop.getLsbD k, eop := x.eop.getLsbD k, vc := fieldNat x.vc (3 * k + 2) (3 * k),
    flit := BitVec.ofNat 512 (fieldNat x.data (512 * k + 511) (512 * k)) }

/-- A whole packet of a framed stream: an abort flit, a resync packet, or a data packet, by its first bytes. -/
def rxPacket (n vc : Nat) (fl : List Flit) (hw : HwFault) (b : Block) : Block :=
  let bytes := bytesOfFlits fl
  let dual := (getLcs b n).dual && (hw == .dualData || hw == .dualMac)
  if bytes.take 8 = abortMarker ∧ fl.length = 1 then rxAbortFlit n (fl.headD 0) (giveFlits n vc 1 b)
  else if bytes.take 8 = resyncMarker then (rxResync n vc bytes fl.length dual false (giveFlits n vc fl.length b)).2
  else rxData n vc bytes fl.length hw b

/-- Check 1 fails (R69, R137): the packet whose flits came so far is discarded as a sequence gap on its own pair and VC. A resync
packet breaks no stream (R141); flits of no packet fault no pair. -/
def rxFraming (n k vc : Nat) (fl : List Flit) (b : Block) : Block :=
  let b := portError (whoLcs b n) k b
  match fl with
  | [] => rxFault n vc none [(31, .replay)] b
  | _ =>
    let bytes := bytesOfFlits fl
    let h := rxHeader bytes
    if bytes.take 8 = resyncMarker then count (whoLcs b n) (evLink 6) (count (whoLcs b n) (evLink 31) b)
    else
      rxFault n vc (findPair b n h.pkt.src h.pkt.srcLcs)
        ((31, Status.replay) :: (if headBad b n vc h then [(32, Status.badConfig)] else [])) b

/-- The open packet is discarded: its flits go back, and check 1 fails for it. -/
def rxBreak (n k vc : Nat) (fl : List Flit) (b : Block) : Block :=
  rxFraming n k vc fl (giveFlits n vc fl.length (updLport n (fun x => { x with rxOpen := none }) b))

/-- Take a flit's place in the verify buffer. -/
def holdFlit (n vc : Nat) (b : Block) : Block :=
  updLport n (fun x => { x with rxHeld := listMod x.rxHeld vc (· + 1), rxGrant := listMod x.rxGrant vc (· - 1) }) b

/-- A flit joins the packet that is open on its VC; with EOP the packet is whole. -/
def rxJoin (n : Nat) (fl : List Flit) (f : RxFlit) (hw : HwFault) (b : Block) : Block :=
  let b := holdFlit n f.vc b
  if f.eop then rxPacket n f.vc (fl ++ [f.flit]) hw (updLport n (fun x => { x with rxOpen := none }) b)
  else updLport n (fun x => { x with rxOpen := some (f.vc, fl ++ [f.flit]) }) b

/-- A flit of a framed stream against the LL_ rows of Table 2.10. The flit that breaks a packet is discarded with it. -/
def rxFramed (n : Nat) (f : RxFlit) (hw : HwFault) (b : Block) : Block :=
  let x := getLport b n
  let credit := decide (0 < x.rxGrant.getD f.vc 0)
  let ends := fun (b : Block) => if f.eop then updLport n (fun x => { x with rxStray := x.rxStray.filter (· != f.vc) }) b else b
  match x.rxOpen with
  | some (vc, fl) =>
    if f.vc ≠ vc then
      rxBreak n 15 vc fl (ends (if f.sop then updLport n (fun x => { x with rxStray := f.vc :: x.rxStray }) b else b))
    else if f.sop ∨ 9 ≤ fl.length then rxBreak n 14 vc fl b
    else if !credit then rxBreak n 13 vc fl b
    else rxJoin n fl f hw b
  | none =>
    if f.sop = false ∨ x.rxStray.contains f.vc = true then
      rxFraming n 14 f.vc [] (ends b)
    else if !credit then rxFraming n 13 f.vc [f.flit] b
    else rxJoin n [] f hw b

/-- Pass over halves of the unframed stream: their flits go back. -/
def passHalves (n k : Nat) (b : Block) : Block :=
  let gone := ((getLport b n).rxBuf.take k).filter (fun h => h.last)
  gone.foldl (fun b h => giveFlits n h.vc 1 b) (updLport n (fun x => { x with rxBuf := x.rxBuf.drop k }) b)

/-- Bytes of halves. -/
def halfBytes (l : List RxHalf) : Bytes := (l.map (fun h => leBytes 32 h.data.toNat)).flatten

/-- Halves of a packet that its first 32 bytes announce (R145): by its marker, or by NLINES. -/
def halvesOf (hd : Bytes) : Nat :=
  if hd.take 8 = resyncMarker then 4 else if hd.take 8 = abortMarker then 2 else 2 * pktFlits (rxHeader hd).nl

/-- A packet at the front of the unframed stream, all of whose halves have come: its flits are those that end in it. -/
def rxFront (n : Nat) (l : List RxHalf) (hw : HwFault) (b : Block) : Block :=
  let bytes := halfBytes l
  let vc := (l.headD { vc := 0, last := true, data := 0 }).vc
  if bytes.take 8 = resyncMarker then
    (rxResync n vc bytes 2 ((getLcs b n).dual && (hw == .dualData || hw == .dualMac)) false (passHalves n 4 b)).2
  else if bytes.take 8 = abortMarker then rxAbortFlit n (BitVec.ofNat 512 (leNat bytes)) (passHalves n 2 b)
  else if l.any (fun h => h.vc != vc) then
    rxFault n vc (findPair b n (rxHeader bytes).pkt.src (rxHeader bytes).pkt.srcLcs) [(32, .badConfig)] (passHalves n l.length b)
  else rxData n vc bytes (l.length / 2) hw (updLport n (fun x => { x with rxBuf := x.rxBuf.drop l.length }) b)

/-- One look at the unframed stream; none while more must come. Searching, a boundary with the marker gives a candidate of 128 B: one
that passes restarts framing after its end, one that fails is passed over by 32 B (R146). A marker waits for its 128 B, so at most four
candidates are under check. Otherwise the packet at the front is taken, its end found by NLINES; NLINES above 4 fails check 2 (R145). -/
def rxLook (n : Nat) (hw : HwFault) (b : Block) : Option Block :=
  let x := getLport b n
  match x.rxBuf with
  | [] => none
  | h :: _ =>
    let hd := leBytes 32 h.data.toNat
    let four := x.rxBuf.take 4
    if x.search then
      if hd.take 8 ≠ resyncMarker then some (passHalves n 1 b)
      else if four.length < 4 then none
      else
        let vc := if four.all (fun y => y.vc == h.vc) then h.vc else 8
        match rxResync n vc (halfBytes four) 2 ((getLcs b n).dual && (hw == .dualData || hw == .dualMac)) true b with
        | (true, b) => some (passHalves n 4 (updLport n (fun x => { x with search := false }) b))
        | (false, b) => some (passHalves n 1 b)
    else if hd.take 8 ≠ resyncMarker ∧ hd.take 8 ≠ abortMarker ∧ 4 < (rxHeader hd).nl then
      some (rxFault n h.vc (findPair b n (rxHeader hd).pkt.src (rxHeader hd).pkt.srcLcs) [(32, .badConfig)] (passHalves n 1 b))
    else
      let k := halvesOf hd
      if x.rxBuf.length < k then none else some (rxFront n (x.rxBuf.take k) hw b)

/-- Take what the unframed stream holds, as far as it goes. -/
def rxStream (n : Nat) (hw : HwFault) : Nat → Block → Block
  | 0, b => b
  | f + 1, b =>
    match rxLook n hw b with
    | some b => rxStream n hw f b
    | none => b

/-- A flit of an unframed stream (R145, R146): SOP and EOP are ignored; without a credit the flit is lost, and framing with it. -/
def rxUnframed (n : Nat) (f : RxFlit) (hw : HwFault) (b : Block) : Block :=
  if (getLport b n).rxGrant.getD f.vc 0 = 0 then rxFraming n 13 f.vc [] b
  else
    let half := fun (last : Bool) (k : Nat) => ({ vc := f.vc, last := last, data := BitVec.ofNat 256 (f.flit.toNat >>> (256 * k)) } : RxHalf)
    let b := updLport n (fun x => { x with rxBuf := x.rxBuf ++ [half false 0, half true 1] }) (holdFlit n f.vc b)
    rxStream n hw ((getLport b n).rxBuf.length + 1) b

/-- A flit as the stream's mode takes it. -/
def rxOne (n : Nat) (hw : HwFault) (b : Block) (f : RxFlit) : Block :=
  if (getLport b n).mode then rxUnframed n f hw b else rxFramed n f hw b

/-- A cycle of LL_RX (Table 2.6): slot 0, then slot 1; slot 1 valid alone is illegal (Table 2.10). -/
def rxBeat (n : Nat) (hw : HwFault) (b : Block) (x : LlBeat) : Block :=
  if x.v = 2 then
    match (getLport b n).rxOpen with
    | some (vc, fl) => rxBreak n 14 vc fl b
    | none => rxFraming n 14 (slotFlit x 1).vc [] b
  else
    let b := if x.v.getLsbD 0 then rxOne n hw b (slotFlit x 0) else b
    if x.v.getLsbD 1 then rxOne n hw b (slotFlit x 1) else b

/-- LL_RX carries flits (R42, R69, R137): each is taken as it comes. -/
def rxAny (n : Nat) (l : List LlBeat) (hw : HwFault) (b : Block) : Block :=
  if !(getLcs b n).present || !(getInst b (getLcs b n).inst).released || !(getLport b n).up then b
  else l.foldl (rxBeat n hw) b

/-- LL_RX_PACKET (R137). -/
def effLlRxPacket (n : Nat) (l : List LlBeat) (hw : HwFault) (b : Block) : Block := rxAny n l hw b

/-- RESYNC_REQ (R141, R142): the packet as it arrives on LL_RX; accepted, an ACK is owed ahead of staged data. -/
def effResyncReq (n : Nat) (l : List LlBeat) (b : Block) : Block := rxAny n l .none b

/-- RESYNC_ACK (R141, R142): the packet as it arrives on LL_RX. -/
def effResyncAck (n : Nat) (l : List LlBeat) (b : Block) : Block := rxAny n l .none b

/-- ABORT_FLIT_RECEIVE (R350): the flit as it arrives on LL_RX. -/
def effAbortFlitReceive (n : Nat) (f : Flit) (b : Block) : Block := rxAny n (llBeats 2 (ctlVc b n) [f]) .none b

/-- RESYNC_RETRY_TIMER (R143): the REQ is sent again, or the pair goes DOWN after ATTEMPTS sends. -/
def effResyncRetryTimer (n k : Nat) (b : Block) : Block :=
  let p := getPair b n k
  if !p.valid || !p.up || !p.vcs.any (fun v => v.rx == .broken) || (getLport b n).resync.any (fun e => e.1 == k && e.2.isNone) then b
  else if (getLcs b n).attempts ≤ p.sends then pairDown n k b
  else oweReq n k b

/-! Registers of the Egress Staging Buffer and the credit division (R149, R150, R156, R157). -/

/-- Whether a spill region serves (R156): ACTIVE, RW-AUTH, every line on an MCS of the instance. -/
def spillOk (b : Block) (i k : Nat) : Bool :=
  let r := getRgn b k
  r.state == .active && r.mode == .rw && (shares b r).all (fun n => (getMcs b n).inst == i)

/-- ESB_CTRL_WRITE (R156). -/
def effEsbCtrlWrite (z : ZReq) (w : Word) (b : Block) : Block :=
  zcpDo z true .esb (fun b =>
    let e := getEsb b z.inst
    let spill := fieldBit w 1
    if spill && !e.spillEn && !spillOk b z.inst e.spillRegion then zcpRefuse z .badConfig b
    else
      let b := if !spill then dropSpill z.inst b else b
      updEsb z.inst (fun e => { e with ctEn := fieldBit w 0, spillEn := spill }) b) b

/-- R149: the class registers and MSG_MAX as written keep the rules. -/
def classesOk (nLcs : Nat) (cls : List EsbClass) (msgMax : Nat) : Bool :=
  let on := cls.filter (fun c => c.en)
  let sum := nLcs * (on.map (fun c => c.min)).foldl (· + ·) 0
  on.all (fun c => decide (9 ≤ c.min)) && cls.all (fun c => decide (c.min ≤ c.max ∧ c.max ≤ 16384))
    && decide (sum ≤ 16384) && (on.map (fun c => c.vc)).eraseDups.length == on.length && decide (msgMax ≤ 16384 - sum)

/-- How much of each VOQ's guarantee is not yet in force once the class registers change (R149): a raise waits for cells. -/
def reshort (l : List (Nat × Nat)) (e : Esb) (new : List EsbClass) : Sparse Nat :=
  l.foldl (fun m v => Sparse.upd 0 m (v.1 * 8 + v.2) (fun s =>
    s + classMin (new.getD v.2 { vc := v.2 }) - classMin (esbClass e v.2))) e.short

/-- ESB_CLASS_WRITE (R149): word `c` of ESB_CLASS, or, for c = 6 (offset 0x40), ESB_POOL. -/
def effEsbClassWrite (z : ZReq) (c : Nat) (w : Word) (b : Block) : Block :=
  zcpDo z true .esb (fun b =>
    let e := getEsb b z.inst
    let k : EsbClass := { vc := fieldNat w 2 0, en := fieldBit w 3, min := fieldNat w 21 8, max := fieldNat w 38 24,
                          mark := fieldNat w 53 40, weight := max 1 (fieldNat w 59 56) }
    let cls := if c < 5 then e.cls.set c k else e.cls
    let msg := if c = 6 then fieldNat w 14 0 else e.msgMax
    if classesOk (getInst b z.inst).nLcs cls msg then
      stageWaiting z.inst (updEsb z.inst (fun e => { e with cls := cls, msgMax := msg, short := reshort (voqs b z.inst) e cls }) b)
    else zcpRefuse z .badConfig b) b

/-- ESB_WRED_WRITE (R150). -/
def effEsbWredWrite (z : ZReq) (x : Nat) (w : Word) (b : Block) : Block :=
  zcpDo z true .esb (fun b =>
    let r : Wred := { minTh := fieldNat w 13 0, maxTh := fieldNat w 29 16, maxP := fieldNat w 39 32, w := fieldNat w 43 40 }
    if r.maxTh < r.minTh ∨ (esbClass (getEsb b z.inst) clsMsg).max < r.maxTh then zcpRefuse z .badConfig b
    else updEsb z.inst (fun e => { e with wred := e.wred.set x r }) b) b

/-- ESB_METER_WRITE (R150): low word rates, high word bursts. -/
def effEsbMeterWrite (z : ZReq) (t : Nat) (hi : Bool) (w : Word) (b : Block) : Block :=
  zcpDo z true .esb (fun b =>
    if !hi && decide (fieldNat w 63 32 < fieldNat w 31 0) then zcpRefuse z .badConfig b
    else
      let set := fun (m : Meter) =>
        if hi then { m with cbs := fieldNat w 23 0, pbs := fieldNat w 55 32 }
        else { m with cir := fieldNat w 31 0, pir := fieldNat w 63 32 }
      updEsb z.inst (fun e => { e with meters := Sparse.upd {} e.meters t set }) b) b

/-- LCS_RXVC_WRITE (R157): applies at the next rising edge of LL_UP. -/
def effLcsRxvcWrite (z : ZReq) (n v : Nat) (w : Word) (b : Block) : Block :=
  zcpDo z true (.lcs n) (fun b =>
    let rx := (getLcs b n).rxvc.set v (fieldNat w 10 0)
    if fieldNat w 10 0 < 9 ∨ 1024 < rx.foldl (· + ·) 0 then zcpRefuse z .badConfig b
    else updLcs n (fun l => { l with rxvc := rx }) b) b

end Sys2Proof.Machine
end

