-- ==== Sys2Proof/Machine/Bay.lean ====
section
/-! DEFINITION. Bay (R343 to R354, R362 to R364): Bay abort and its release, Out-of-Service, compute reset, lost packages, tamper,
online test and lanes. -/

namespace Sys2Proof.Machine

def updAo (i : Nat) (f : Ao → Ao) (b : Block) : Block := updInst i (fun s => { s with ao := f s.ao }) b

/-- A change of both armed dies' AO copies (R400). -/
def updArmed (f : Ao → Ao) (b : Block) : Block :=
  { b with inst := Sparse.mapAll {} b.inst (fun _ s => if s.ao.armed then { s with ao := f s.ao } else s) }

/-! Out-of-Service (R346). -/

/-- The package enters Out-of-Service: state, both AO copies, INT[15], OOS_NOTICE to the DKA. -/
def enterOos (cause : Status) (b : Block) : Block :=
  let b := updArmed (fun a => { a with oos := true }) b
  let b := if b.bay.state = 1 then b else { b with bay := { b.bay with state := 2, cause := cause } }
  let b := raisePrimary 15 b
  match b.trust.dom.auth with
  | some (p, _) => if inDomain b && p != b.trust.dom.pkg then domSend p .oosNotice b else b
  | none => b

/-- Bay writes the escalation policy and count to both armed dies. -/
def copyEsc (b : Block) : Block := updArmed (fun a => { a with escN := b.bay.escN, escWin := b.bay.escWin, crst := b.bay.crst }) b

/-- A management access that changes state is journalled (R360). -/
def journalZ (z : ZReq) (op : Nat) (b : Block) : Block := if z.attr = .m then jnlWhole 3 0 op 0 0 0 .ok 0 b else b

/-- A BAY_CMD bit or a BAY_ register written with an attribute that it does not allow (R21). -/
def bayDo (z : ZReq) (who : List Attr) (f : Block → Block) (b : Block) : Block :=
  zcpDo z true .bay (fun b => if who.contains z.attr then f b else zcpRefuse z .notOwner b) b

/-- OOS_CLEAR (R346, R363, R400): M in a management session only. -/
def effOosClear (z : ZReq) (sess : Option Nat) (b : Block) : Block :=
  bayDo z [.m] (fun b =>
    if mgmtSess b sess then
      let b := updArmed (fun a => { a with oos := false, latch := 0, sleep := false, crst := 0 }) (journalZ z 3 b)
      let st := if b.bay.state = 2 then 0 else b.bay.state
      { b with bay := { b.bay with state := st, crst := 0 } }
    else zcpRefuse z .notOwner b) b

/-- BAY_CTRL_WRITE (R346): K only (Table 10.8); the escalation policy is copied to the AO islands. -/
def effBayCtrlWrite (z : ZReq) (w : Word) (b : Block) : Block :=
  bayDo z [.k] (fun b => copyEsc { b with bay :=
    { b.bay with tagTh := fieldNat w 7 0, sorTh := fieldNat w 15 8, resTh := fieldNat w 23 16, winMs := max 1 (fieldNat w 31 24),
                 escN := max 1 (fieldNat w 35 32), escWin := max 1 (fieldNat w 63 48) } }) b

/-! Bay abort (R347 to R352). -/

/-- The abort flit (Table 12.3). -/
def abortFlit (key : Key) (domain : BitVec 64) (origin : Pkg) (cause : Status) (time : BitVec 64) : Flit :=
  let body := abortMarker ++ leBytes 8 domain.toNat ++ leBytes 2 origin.toNat ++ leBytes 1 (statusCode cause) ++ [0] ++ leBytes 8 time.toNat ++ leBytes 20 0
  let iv := leBytes 8 time.toNat ++ leBytes 2 origin.toNat ++ [0, 0]
  BitVec.ofNat 512 (leNat (body ++ gcmTag (keyBytes key) iv body []))

/-- The origin's flit on every LCS in service (R351 step 1). A package that accepts a flit does not forward it (R350, log 25). -/
def floodAbort (cause : Status) (b : Block) : Block :=
  (b.lcs.filter (fun e => lcsIn b e.1)).foldl (fun b e =>
    match (getLport b e.1).kBay with
    | some k => updLport e.1 (fun p => { p with bayFlit := some (abortFlit k b.trust.dom.id b.trust.dom.pkg cause b.time) }) b
    | none => b) b

/-- Tenant instances with contexts leave RUN for ERROR. -/
def abortTenants (b : Block) : Block :=
  (b.trust.tinst.filter (fun t => (t.2.state == .run || t.2.state == .frozen) && !(ctxsOf b (BitVec.ofNat 6 t.1)).isEmpty)).foldl
    (fun b t => tenantTo (BitVec.ofNat 6 t.1) .error b) b

/-- The package is in Bay abort: nothing is due, every released instance is frozen (R29, R351). -/
def abortMark (cause : Status) (origin : Pkg) (b : Block) : Block :=
  { b with bay := { b.bay with due := none, state := 1, cause := cause, origin := origin },
           inst := Sparse.mapAll {} b.inst (fun _ s => if s.released then { s with freeze := true } else s) }

/-- Everything outstanding over the fabric and everything of invocations ends (R351 step 3). -/
def abortFabric (b : Block) : Block :=
  let b := b.fab.inst.foldl (fun b e => killHeld e.1 (fun _ => true) .aborted .indeterminate b) (killReqs (fun _ => true) .aborted b)
  b.red.invs.foldl (fun b v => endInv v.id .aborted b) b

/-- The abort is told: INT[7], the count, and the flit where it began here (R351 step 1). -/
def abortTold (cause : Status) (origin : Pkg) (b : Block) : Block :=
  let b := count { inst := (primaryInst b).getD 0 } (evBay 0) (raisePrimary 7 b)
  if inDomain b && origin == b.trust.dom.pkg then floodAbort cause b else b

/-- A Bay abort starts (R50, R351 steps 1 to 4): every stream is stopped. A package that is frozen ignores it. -/
def startAbort (cause : Status) (origin : Pkg) (b : Block) : Block :=
  if b.bay.state = 1 then { b with bay := { b.bay with due := none } }
  else stopSeals (fun _ => true) .aborted (ideStopAll (abortTenants (abortFabric (abortTold cause origin (abortMark cause origin b)))))

/-- BAY_FREEZE_RELEASE (R351 steps 5 and 6). -/
def effBayFreezeRelease (b : Block) : Block :=
  if b.bay.state = 1 ∧ domRest b = true then
    let b := if inDomain b then mbFinish 0x0111 0 .aborted [] (leaveDomain b) else b
    let oos := b.bay.cause == .tamper || b.inst.any (fun e => e.2.ao.armed && e.2.ao.oos)
    let b := { b with bay := { b.bay with state := if oos then 2 else 0, lastRel := b.time },
                      inst := Sparse.mapAll {} b.inst (fun _ s => { s with freeze := false }) }
    b.esb.foldl (fun b e => stageWaiting e.1 b) b
  else b

/-- ABORT (R347): BAY_CMD.ABORT, K only. -/
def effAbort (z : ZReq) (b : Block) : Block :=
  bayDo z [.k] (fun b => { b with bay := { b.bay with due := b.bay.due.or (some (.aborted, b.trust.dom.pkg)) } }) b

/-- SOFT and HARD (R345): they wait until no Sealed Store update is in progress. -/
def effSoft (z : ZReq) (b : Block) : Block :=
  bayDo z [.k, .m] (fun b => journalZ z 1 { b with bay := { b.bay with softDue := b.bay.softDue ++ [(z.inst, true)] } }) b
def effHard (z : ZReq) (b : Block) : Block :=
  bayDo z [.k, .m] (fun b => ideStopAll (journalZ z 2 { b with bay := { b.bay with hardDue := true } })) b

/-! Compute reset (R66, R344, R346). -/

/-- Resident contexts whose partition names a die. -/
def ctxsOn (b : Block) (i : Nat) : List Nat := (b.cm.ctxs.filter (fun c => c.2.state == .resident && c.2.mask.getLsbD i)).map (·.1)

/-- COMPUTE_RST_IND_RISE (R66, R344, R346). -/
def effComputeRstIndRise (i : Nat) (b : Block) : Block :=
  if !(getInst b i).released || (getInst b i).crst then b
  else
    let b := count { inst := i } (evBay 1) (updInst i (fun s => { s with crst := true }) b)
    let cs := ctxsOn b i
    let mine := fun (c : Ctx) => cs.contains c.toNat
    let b := { b with bay := { b.bay with quiesce := b.bay.quiesce ++ (cs.map (fun c => BitVec.ofNat 16 c)).filter (fun c => !b.bay.quiesce.contains c) } }
    let b := (b.cm.queues.filter (fun q => q.2.state != .free && mine q.2.ctx)).foldl (fun b q => abortQueue q.1 b) b
    let b := stopSeals mine .aborted b
    let b := (b.mcs.filter (fun m => m.2.present && m.2.inst == i)).foldl (fun b m => killMn m.1 (fun _ => true) .aborted b) b
    let b := killInst i (fun _ => true) .aborted .aborted (killHeld i (fun _ => true) .aborted .aborted b)
    let b := copyEsc { b with bay := { b.bay with crst := min 15 (b.bay.crst + 1) } }
    if b.bay.escN ≤ b.bay.crst ∧ packageOos b = false then enterOos .outOfService b else b

/-- COMPUTE_RST_IND_FALL (R344): the partition's queues accept Q_RESTART. -/
def effComputeRstIndFall (i : Nat) (b : Block) : Block := updInst i (fun s => { s with crst := false }) b

/-- Contexts whose queues have ended their commands are quiesced. -/
def quiesceDone (b : Block) : Block :=
  if b.bay.quiesce.isEmpty then b
  else
    let busy := fun (c : Ctx) => (queuesOf b c).any (fun q => q.2.cmd.any (fun x => x.phase == .ready || x.phase == .running))
    { b with bay := { b.bay with quiesce := b.bay.quiesce.filter busy } }

/-- ESCALATION_WINDOW_EXPIRY (R346). -/
def effEscalationWindowExpiry (b : Block) : Block := copyEsc { b with bay := { b.bay with crst := b.bay.crst - 1 } }

/-! Lost packages (R354). -/

/-- PKG_LOST (R354): the DKA's notice makes the member declare the package dead. -/
def effPkgLost (h : DomHdr) (pkg : Pkg) (b : Block) : Block :=
  domTake h (fun b => fromAuth b h) (fun b => declareDead pkg b) b

/-- PKG_LOST_WAIT_EXPIRY (R354): at the DKA; no SP took the lease. -/
def effPkgLostWaitExpiry (pkg : Pkg) (b : Block) : Block :=
  let taken := match (b.fo.witness.find? (fun e => e.1 == pkg.toNat)) with
    | some e => decide (b.time.toNat < e.2.toNat)
    | none => false
  if isDka b && boundPeer b pkg && !taken then declareDead pkg ((members b).foldl (fun b p => if p = pkg then b else domSend p (.pkgLost pkg) b) b)
  else b

/-! Tamper (R275, R362, R363). -/

/-- A dump that is armed or runs ends with a status (R392): its key is no longer referenced (R242), INT[11]. -/
def dumpStop (d : Nat) (st : Status) (b : Block) : Block :=
  let x := Sparse.get {} b.cm.dumps d
  let b := if x.state = 1 ∨ x.state = 2 then unpin x.key b else b
  raisePrimary 11 { b with cm := { b.cm with dumps := Sparse.upd {} b.cm.dumps d (fun x => { x with state := 3, status := st, mat := 0 }) } }

/-- Dumps that are armed or run. -/
def dumpsLive (b : Block) : List Nat := (b.cm.dumps.filter (fun d => d.2.state == 1 || d.2.state == 2)).map (·.1)

/-- R275 steps 1 to 3, and R68: operations in progress end with TAMPER, key material and working buffers are cleared, and ZEROIZE
goes round the ring. -/
def zeroize (i : Nat) (b : Block) : Block :=
  let jobs := b.keys.mint.jobs
  let b := updMint (fun m => { m with jobs := [], data := [], exported := [], expOut := none, cdi := [], layers := [], bootNonce := 0, zeroed := true }) b
  let b := jobs.foldl (fun b j => cmdDone .mint j.src .tamper 0 j.index b) b
  let b := b.keys.scu.foldl (fun b p => scuZeroPage p.1 .tamper b) b
  let b := srqDrop (fun _ => true) b
  let store : Store := { b.keys.store with phase := .idle, fresh := [], image := [], recs := [], flReq := none, isOpen := false }
  let b := { b with keys := { b.keys with kreg := Sparse.mapAll {} b.keys.kreg (fun _ e => { e with key := 0 }), srqDone := [], store := store } }
  let b := (dumpsLive b).foldl (fun b d => dumpStop d .tamper b) (stopSeals (fun _ => true) .tamper b)
  let b := updIde (fun x => { x with wait := x.wait.map (fun c => { c with key := 0, ifv := 0 }), drive := x.drive.map (fun c => { c with key := 0, ifv := 0 }) }) b
  let b := ringSendAll i (fun k s => s.released && k != i) .zeroize (clearKeysAt i (updInst i (fun s => { s with zeroOut := s.zeroOut || s.ao.armed }) b))
  ideStopAll b

/-- The boot halts in the safe state (R3, R380): no key is held. -/
def safeState (st : Status) (b : Block) : Block :=
  { b with boot := { b.boot with halted := true, status := st, asked := none },
           inst := Sparse.mapAll {} b.inst (fun _ s => { s with ringKey := none })
           keys := { b.keys with kreg := [], mint := { b.keys.mint with cdi := [], layers := [], bootNonce := 0 },
                                 store := { b.keys.store with phase := .idle, flReq := none } } }

/-- A tamper event in a die: latched and counted, with the response of its moment (Table 12.10). The abort flits are made
while K_BAY is there: they leave within 100 ns (R351), the keys go within 1 µs (R275). -/
def tamper (i bit : Nat) (b : Block) : Block :=
  let s := getInst b i
  if !s.ao.armed then b
  else
    let b := updAo i (fun a => { a with latch := a.latch ||| BitVec.ofNat 9 (2 ^ bit), count := min 65535 (a.count + 1),
                                        sleep := a.sleep || a.asleep }) b
    if s.ao.asleep || b.boot.hard then b
    else if !s.released then safeState .tamper b
    else
      let b := count { inst := i } (evBay 4) (raise i 8 b)
      let b := if b.bay.state != 1 && inDomain b then floodAbort .tamper b else b
      let b := enterOos .tamper (zeroize i b)
      { b with bay := { b.bay with due := some (.tamper, b.trust.dom.pkg) } }

/-- The tamper events (Table 12.9). -/
def effTamperInEvent (i : Nat) (k : BitVec 2) (b : Block) : Block := tamper i k.toNat b
def effTamperGlitchEvent (i : Nat) (_k : BitVec 2) (b : Block) : Block := tamper i 4 b
/-- MESH_TAMPER_EVENT (R67): one sample of MESH_SNS against the pattern on MESH_DRV; the third mismatch in a row is the event. -/
def effMeshTamperEvent (i : Nat) (sns : Bool) (b : Block) : Block :=
  let a := (getInst b i).ao
  let miss := if sns = Config.meshDrive i a.meshN then 0 else a.meshMiss + 1
  let b := updAo i (fun a => { a with meshN := a.meshN + 1, meshMiss := if 3 ≤ miss then 0 else miss }) b
  if 3 ≤ miss then tamper i 5 b else b
def effVoltageTamperEvent (i : Nat) (b : Block) : Block := tamper i 6 b
def effClockGlitchEvent (i : Nat) (b : Block) : Block := tamper i 7 b
def effTemperatureTamperEvent (i : Nat) (b : Block) : Block := tamper i 8 b

/-! Slices and lanes out of service (R16, R359, R364, R376, R378). -/

/-- An LCS leaves service: its atomics are lost, and it stays out of the home mask for 24 µs (R364). -/
def lcsOut (n : Nat) (b : Block) : Block :=
  updLport n (fun p => { p with arc := [], leftMask := some b.time }) (updLcs n (fun l => { l with state := .outOfService }) b)

/-- CHIVE_LANE_FAILURE (R12, R359): a spare takes over; without one the slice goes out of service. -/
def effChiveLaneFailure (isLcs : Bool) (n lane : Nat) (b : Block) : Block :=
  if isLcs then
    if !(getLcs b n).present then b
    else if 0 < (getLcs b n).spares then laneOut true n lane b
    else raise (getLcs b n).inst 15 (lcsOut n b)
  else if !(getMcs b n).present then b
  else if 0 < (getMcs b n).spares then laneOut false n lane b
  else sliceFault n true b

/-- LCS_REJOIN_HOLD_EXPIRY (R364): 24 µs after it left, an LCS in service is back in the home mask. -/
def effLcsRejoinHoldExpiry (n : Nat) (b : Block) : Block :=
  match (getLport b n).leftMask with
  | some t => if t.toNat + 24000 ≤ b.time.toNat then updLport n (fun p => { p with leftMask := none }) b else b
  | none => b

def updOlt (i : Nat) (f : Olt → Olt) (b : Block) : Block := updUnits i (fun u => { u with olt := f u.olt }) b

/-- The outcome of an online-test command: LAST_STATUS and INT[10]. -/
def oltEnd (i : Nat) (st : Status) (b : Block) : Block := raise i 10 (updOlt i (fun o => { o with busy := false, testing := false, status := st }) b)

/-- The unit that BAY_OLT names is held by the instance. -/
def oltHeld (b : Block) (i kind unit : Nat) (isLcs : Bool) : Bool :=
  match kind with
  | 0 => (getMcs b unit).present && (getMcs b unit).inst == i
  | 1 => (getLcs b unit).present && (getLcs b unit).inst == i
  | 2 => if isLcs then (getLcs b unit).present && (getLcs b unit).inst == i else (getMcs b unit).present && (getMcs b unit).inst == i
  | _ => isPrimary b i

/-- BAY_OLT's fields. -/
def oltOf (w : Word) : Olt :=
  { busy := true, kind := fieldNat w 3 2, unit := fieldNat w 9 4, lane := fieldNat w 14 10, isLcs := fieldBit w 15 }

/-- The lane is out, for test or for good. -/
def laneIsOut (b : Block) (i : Nat) (o : Olt) : Bool :=
  ((getUnits b i).outLanes ++ (getUnits b i).retired).contains (o.isLcs, o.unit, o.lane)

/-- SLICE_REJOIN_BIST (R16): a slice that is out of service runs Basil. -/
def effSliceRejoinBist (isLcs : Bool) (n : Nat) (b : Block) : Block :=
  let i := if isLcs then (getLcs b n).inst else (getMcs b n).inst
  let out := if isLcs then (getLcs b n).present && (getLcs b n).state == .outOfService else (getMcs b n).present && (getMcs b n).state == .down
  if out && !(getUnits b i).rejoin.contains (isLcs, n) && (getInst b i).released then updUnits i (fun u => { u with rejoin := u.rejoin ++ [(isLcs, n)] }) b else b

/-- BAY_OLT_RETURN (R364): Basil runs on the unit; BASIL_TEST_END gives the outcome. -/
def effBayOltReturn (z : ZReq) (w : Word) (b : Block) : Block :=
  bayDo z [.k, .m] (fun b =>
    let i := z.inst
    let o := oltOf w
    let bad := oltEnd i .badConfig b
    if (getUnits b i).olt.busy || !(oltHeld b i o.kind o.unit o.isLcs || o.kind == 3) then raise i 10 (updOlt i (fun x => { x with status := .badConfig }) b)
    else
      let run := updOlt i (fun _ => { o with testing := true }) (journalZ z 0x12 b)
      if o.kind = 0 then
        let k := partner o.unit
        if (getMcs b k).state = .carrying ∧ (getMcs b o.unit).state = .carried ∧ (getMcs b k).busy = false then startHandback k run else bad
      else if o.kind = 1 then if (getLcs b o.unit).state = .outOfService then run else bad
      else if o.kind = 2 then if (getUnits b i).outLanes.contains (o.isLcs, o.unit, o.lane) then run else bad
      else if b.fo.ppGone && (getInst b i).role == .pp && b.fo.sp == .acting then run else bad) b

/-- Basil's result of one unit (BST_UNIT, BST_MISR). -/
def setBst (i u : Nat) (pass : Bool) (lanes : BitVec 24) (misr : BitVec 64) (b : Block) : Block :=
  let used := ((List.range 24).filter (fun k => lanes.getLsbD k)).length
  let res := if !pass then 2 else if used = 0 then 1 else 3
  { b with boot := { b.boot with bst := Sparse.upd {} b.boot.bst (16 * i + u) (fun x => { x with result := res, used := if pass then used else 0, lanes := lanes, misr := misr }) } }

/-- Unit number of a slice in its instance (BST_UNIT). -/
def bstUnit (b : Block) (isLcs : Bool) (n : Nat) : Nat :=
  if isLcs then 8 + (n - (getInst b (getLcs b n).inst).lcsBase) else 4 + (n - (getInst b (getMcs b n).inst).mcsBase)

/-- A unit's signature is the reference of its kind (R378). -/
def misrOk (u : Nat) (misr : BitVec 64) : Bool := misr == Config.misrRef (if 8 ≤ u then 8 else if 4 ≤ u then 4 else u)

/-- A slice's own test passes with up to as many failing lanes as it has spares, two at most (R378). -/
def slicePass (b : Block) (isLcs : Bool) (n : Nat) (pass : Bool) (lanes : BitVec 24) : Bool × Nat :=
  let used := ((List.range 24).filter (fun k => lanes.getLsbD k)).length
  let spares := if isLcs then (getLcs b n).spares else (getMcs b n).spares
  (pass && decide (used ≤ min 2 spares), used)

/-- BASIL_TEST_END (R378, R122, R364, R16). -/
def effBasilTestEnd (isLcs : Bool) (n : Nat) (lane : Option Nat) (failLanes : BitVec 24) (misr : BitVec 64) (b : Block) : Block :=
  let i := if isLcs then (getLcs b n).inst else (getMcs b n).inst
  let o := (getUnits b i).olt
  let record := setBst i (bstUnit b isLcs n)
  match lane with
  | some l =>
    let pass := !failLanes.getLsbD l
    if o.busy && o.testing && o.kind == 2 && o.isLcs == isLcs && o.unit == n && o.lane == l then
      let b := updUnits i (fun u => { u with outLanes := u.outLanes.filter (· != (isLcs, n, l)), retired := if pass then u.retired else u.retired ++ [(isLcs, n, l)] }) (record pass failLanes misr b)
      let b := if !pass then b else if isLcs then updLcs n (fun x => { x with spares := x.spares + 1 }) b else updMcs n (fun x => { x with spares := x.spares + 1 }) b
      oltEnd i (if pass then .ok else .outOfService) b
    else b
  | none =>
    let (ok, used) := slicePass b isLcs n (misrOk (bstUnit b isLcs n) misr) failLanes
    let mine := o.busy && o.testing && o.unit == n && o.kind == (if isLcs then 1 else 0)
    let again := (getUnits b i).rejoin.contains (isLcs, n)
    let b' := updUnits i (fun u => { u with rejoin := u.rejoin.filter (· != (isLcs, n)) }) (record ok failLanes misr b)
    if isLcs then
      if !(mine || again) then b
      else
        let b := if ok then updLcs n (fun x => { x with state := .inService, spares := x.spares - used }) b' else b'
        if mine then oltEnd i (if ok then .ok else .outOfService) b else raise i 10 b
    else
      let k := partner n
      if (getMcs b n).busy && (getMcs b k).state == .carrying && (getMcs b n).state == .carried && drained b n then
        let b := updEng n (fun p => { p with cache := p.cache.filter (fun c => c.item.share != n), nodes := p.nodes.filter (fun c => c.item.share != n) }) b'
        let b := updPort n (fun p => { p with drain := false }) b
        let b := updMcs n (fun m => { m with busy := false, state := if ok then .inService else .carried, spares := if ok then m.spares - used else m.spares }) b
        let b := updMcs k (fun m => { m with busy := false, state := if ok then .inService else .carrying, lastSts := if ok then .ok else .outOfService }) b
        if mine then oltEnd i (if ok then .ok else .outOfService) b else raise i 10 b
      else if again then
        let b := raise i 10 b'
        if !ok then b
        else updMcs k (fun m => { m with state := .carried }) (updMcs n (fun m => { m with state := .carrying, spares := m.spares - used }) b)
      else b

end Sys2Proof.Machine
end

