-- ==== Sys2Proof/Machine/Migration.lean ====
section
/-! DEFINITION. Migration of a tenant instance between packages (R305 to R309). -/

namespace Sys2Proof.Machine

/-- The migration of a tag. -/
def migOf (b : Block) (tag : Tag) : Option Mig := b.trust.migs.find? (fun g => g.tag == tag)
def updMig (tag : Tag) (f : Mig → Mig) (b : Block) : Block :=
  { b with trust := { b.trust with migs := updateWhere (fun g => g.tag == tag) f b.trust.migs } }

/-- A migration is over: its KEK entry is invalidated. -/
def dropMig (tag : Tag) (b : Block) : Block :=
  let b := match migOf b tag with
    | some g => invalidateKey g.kek b
    | none => b
  { b with trust := { b.trust with migs := b.trust.migs.filter (fun g => g.tag != tag) } }

/-- The modes that move by copying (R305). -/
def copies (b : Block) (tag : Tag) : Bool :=
  b.rgn.table.any (fun r => r.2.state != .free && r.2.tag == tag && r.2.mode != .ro)

/-- The shared secret of a migration (R305): the source encapsulates to the target's import key with a draw and sends the ciphertext, the
target decapsulates it. -/
def migSecret (tag : Tag) (peer : Pkg) (source : Bool) (kem : BitVec 12544) (b : Block) : Key × Block :=
  if source then
    let (n, b) := fresh b
    let r := kemEncaps (leBytes 1568 kem.toNat) (Config.draw n)
    (r.1, domSend peer (.migKey tag (BitVec.ofNat 12544 (leNat r.2))) b)
  else (kemDecaps (getKey b 4).key (leBytes 1568 kem.toNat), b)

/-- MIG_OPEN (R305): the peers' evidence checked; each side's KEK entry is KDF(ss, "migrate", SHA-384 of the transcript); at the target
the instance is created in FROZEN. -/
def bodyMigOpen (j : MbJob) (tag : Tag) (peer : Pkg) (source evidenceOk : Bool) (kem : BitVec 12544) (transcript : Bytes) (b : Block) : Block :=
  let t := getTInst b tag.toNat
  let bad := (if b.trust.dom.state == .admitted && boundPeer b peer && evidenceOk && (migOf b tag).all (fun g => g.committed || g.aborted) then [] else [Status.badConfig])
    ++ (if source then
          (if t.state = .free ∨ t.state = .error then [.badConfig] else [])
          ++ (if copies b tag && podOf peer != podOf b.trust.dom.pkg then [.badConfig] else [])
        else if t.state = .free then [] else [.badConfig])
    ++ (if (freeKey b).isNone then [.quota] else [])
    ++ (if source && !b.keys.mint.drbgOk then [.outOfService] else [])
  match bad, freeKey b with
  | [], some k =>
    let (ss, b) := migSecret tag peer source kem (askBind peer b)
    let kek := kdfKey ss "migrate" (sha384 transcript)
    let b := writeKey k { type := 4, depth := 2, sys := true, usage := 0x82, parent := 0, budget := unlimited, key := kek } b
    let g : Mig := { tag := tag, peer := peer, source := source, kek := k, frozen := false, restored := false, committed := false, aborted := false }
    let b := if source then b else updTInst tag.toNat (fun _ => { state := .frozen }) b
    mbEnd j .ok [] { b with trust := { b.trust with migs := b.trust.migs.filter (fun x => x.tag != tag) ++ [g] } }
  | l, _ => mbEnd j (statusWorst l) [] (askBind peer b)
def effMigOpen (m : MbReq) (tag : Tag) (peer : Pkg) (source evidenceOk : Bool) (kem : BitVec 12544) (transcript : Bytes) (b : Block) : Block :=
  mbCommand m 0x0130 [.k] (fun j b =>
    mutate (.migOpen j tag peer source evidenceOk kem transcript) (bodyMigOpen j tag peer source evidenceOk kem transcript) b) b

/-- The freeze is complete. -/
def freezeEnd (tag : Tag) (b : Block) : Block := mbFinish 0x0131 tag.toNat .ok [] (updMig tag (fun g => { g with frozen := true }) b)

/-- Freezes whose instance has nothing outstanding complete (R306). -/
def freezesDone (b : Block) : Block :=
  b.trust.migs.foldl (fun b g =>
    if g.source && !g.frozen && (getTInst b g.tag.toNat).state == .frozen && !tagBusy b g.tag then freezeEnd g.tag b else b) b

/-- MIG_FREEZE (R306). -/
def effMigFreeze (m : MbReq) (tag : Tag) (b : Block) : Block :=
  mbCommand m 0x0131 [.k] (fun j b =>
    let t := getTInst b tag.toNat
    let movable := t.state == .config || t.state == .locked || t.state == .run
    if (migOf b tag).any (fun g => g.source && !g.aborted && !g.committed) && movable then
      mbHold { j with arg := tag.toNat } (updTInst tag.toNat (fun t => { t with state := .frozen, was := t.state }) b)
    else mbEnd j .badConfig [] b) b

/-- MIG_FREEZE_TIMEOUT (R306): what is still outstanding ends with ABORTED. -/
def effMigFreezeTimeout (tag : Tag) (b : Block) : Block :=
  if (migOf b tag).any (fun g => g.source && !g.frozen) && (getTInst b tag.toNat).state == .frozen then freezeEnd tag (killTag tag .aborted b)
  else b

/-! The blob (R307). -/

/-- What a tag's blob holds. -/
def blobOf (b : Block) (tag : Tag) (kek : Nat) : MigBlob :=
  let t := getTInst b tag.toNat
  let cs := ctxsOf b tag
  let mine := fun (c : Ctx) => cs.contains c.toNat
  let keys := b.keys.kreg.filter (fun k => k.2.state == .active && !k.2.sys && mine k.2.owner)
  { tdisp := t.tdisp, pasid := t.pasid, stream := t.stream, ifid := t.ifid,
    ctxs := cs.map (fun c => { index := c, label := (getCtx b c).label }),
    queues := (b.cm.queues.filter (fun q => q.2.state != .free && mine q.2.ctx)).map (fun q =>
      { index := q.1, ctx := q.2.ctx.toNat, isOpen := q.2.state == .open, prio := q.2.prio, log2 := q.2.log2, ring := q.2.ring,
        comp := q.2.comp, tail := q.2.tail, head := q.2.head, cdone := q.2.cdone }),
    fences := (b.cm.fences.filter (fun f => f.2.live && mine f.2.ctx)).map (fun f =>
      { index := f.1, ctx := f.2.ctx.toNat, value := f.2.value, status := f.2.status, fails := f.2.fails }),
    keys := (keys.filter (fun k => k.2.usage.getLsbD 7)).map (fun k =>
      { index := k.1, parent := k.2.parent, depth := k.2.depth, type := k.2.type, usage := k.2.usage, persist := k.2.persist,
        owner := k.2.owner.toNat, budget := k.2.budget, blob := kwpWrap (keyBytes (getKey b kek).key) (keyBytes k.2.key) }),
    dropped := (keys.filter (fun k => !k.2.usage.getLsbD 7)).map (·.1),
    regions := (b.rgn.table.filter (fun r => r.2.state != .free && r.2.state != .retiring && r.2.tag == tag)).map (fun r =>
      { index := r.1, mode := modeNum r.2.mode, vbu := r.2.vbu, spol := r.2.spol, wclass := r.2.wclass, tri := r.2.tri,
        owner := r.2.owner.toNat, base := r.2.base, size := r.2.size, version := r.2.version, key := r.2.key, digest := r.2.digest }) }

/-- Bytes of a blob (R307); the tenant record counts 8 bytes and a dropped index 2 (log 23). -/
def blobBytes (m : MigBlob) : Nat :=
  128 + 8 + 64 * (m.ctxs.length + m.queues.length) + 16 * m.fences.length + 128 * m.keys.length + 2 * m.dropped.length + 64 * m.regions.length

/-- What a blob holds, as numbers. -/
def blobNums (m : MigBlob) : List Nat :=
  [m.tdisp.toNat, m.pasid.toNat, m.stream.toNat, m.ifid.toNat]
    ++ m.ctxs.flatMap (fun c => [c.index, c.label.toNat])
    ++ m.queues.flatMap (fun q => [q.index, q.ctx, q.isOpen.toNat, q.prio, q.log2, q.ring, q.comp, q.tail.toNat, q.head.toNat, q.cdone.toNat])
    ++ m.fences.flatMap (fun f => [f.index, f.ctx, f.value.toNat, statusCode f.status, f.fails])
    ++ m.keys.flatMap (fun k => [k.index, k.parent, k.depth, k.type, k.usage.toNat, k.persist.toNat, k.owner, k.budget] ++ bytesNum k.blob)
    ++ m.dropped
    ++ m.regions.flatMap (fun r => [r.index, r.mode, r.vbu.toNat, r.spol, r.wclass, r.tri, r.owner, r.base, r.size, r.version, r.key, r.digest.toNat])

/-- The blob before its encryption. -/
def blobText (m : MigBlob) : Bytes := leBytes (blobBytes m) (Config.migText (blobNums m))

/-- The blob as it leaves (R307): IV, AES-256-GCM ciphertext and tag under the KEK (log 132). -/
def sealBlob (kek : Key) (iv : Bytes) (m : MigBlob) : Bytes :=
  let ct := gcmCrypt (keyBytes kek) iv (blobText m)
  iv ++ ct ++ gcmTag (keyBytes kek) iv [] ct

/-- Whether bytes decrypt under the KEK to a blob that says `m` (R309). -/
def opensTo (kek : Key) (m : MigBlob) (data : Bytes) : Bool := decide (12 ≤ data.length) && data == sealBlob kek (data.take 12) m

/-- MIG_EXPORT (R307). -/
def effMigExport (m : MbReq) (tag : Tag) (b : Block) : Block :=
  mbCommand m 0x0132 [.k] (fun j b =>
    match migOf b tag with
    | some g =>
      if g.source && g.frozen && !g.aborted && !g.committed then
        let x := blobOf b tag g.kek
        if 262144 < blobBytes x then mbEnd j .quota [] b
        else
          let (n, b) := fresh b
          let data := sealBlob (getKey b g.kek).key (leBytes 12 (Config.draw n).toNat) x
          mbEnd j .ok data (updMig tag (fun g => { g with blob := some data }) b)
      else mbEnd j .badConfig [] b
    | none => mbEnd j .badConfig [] b) b

/-! Rebuilding at the target (R308, R309). -/

/-- New number of an old one. -/
def renum (l : List (Nat × Nat)) (k : Nat) : Option Nat := (l.find? (fun e => e.1 == k)).map (·.2)

/-- One context. -/
def restoreCtx (tag : Tag) (a : List (Nat × Nat) × Block) (c : MigCtx) : Except Status (List (Nat × Nat) × Block) :=
  match lowestFrom (fun k => (getCtx a.2 k).state == .free) 65536 0 with
  | some i => .ok (a.1 ++ [(c.index, i)], newRef tyCtx i (updCtx i (fun _ => { state := .defined, tag := tag, label := c.label }) a.2))
  | none => .error .quota

/-- One key, imported under the migration KEK; a parent that did not move is replaced by the KEK (log 24). -/
def restoreKey (kek : Nat) (ctxs : List (Nat × Nat)) (a : List (Nat × Nat) × Block) (k : MigKey) : Except Status (List (Nat × Nat) × Block) :=
  match kwpUnwrap (keyBytes (getKey a.2 kek).key) k.blob, renum ctxs k.owner, freeKey a.2 with
  | some mat, some c, some i =>
    if mat.length = 32 then
      let parent := (renum a.1 k.parent).getD kek
      let e : KEntry := { type := k.type, depth := (getKey a.2 parent).depth + 1, usage := k.usage, persist := k.persist, owner := BitVec.ofNat 16 c,
                          parent := parent, budget := k.budget, key := keyOf mat }
      .ok (a.1 ++ [(k.index, i)], newRef tyKey i (writeKey i e a.2))
    else .error .tagFail
  | none, _, _ => .error .tagFail
  | _, none, _ => .error .badConfig
  | _, _, none => .error .quota

/-- One queue. -/
def restoreQueue (tag : Tag) (ctxs : List (Nat × Nat)) (b : Block) (q : MigQueue) : Except Status Block :=
  match renum ctxs q.ctx, lowestFrom (fun k => (getQueue b k).state == .free) 256 0 with
  | some c, some i =>
    let x : Queue := { state := if q.isOpen then .open else .stopped, prio := q.prio, log2 := q.log2, tag := tag, ctx := BitVec.ofNat 16 c,
                       ring := q.ring, comp := q.comp, tail := q.tail, head := q.head, cdone := q.cdone }
    .ok (newRef tyQueue i (updQueue i (fun _ => x) b))
  | none, _ => .error .badConfig
  | _, none => .error .quota

/-- One fence. -/
def restoreFence (tag : Tag) (ctxs : List (Nat × Nat)) (b : Block) (f : MigFence) : Except Status Block :=
  match renum ctxs f.ctx, lowestFrom (fun k => !(getFence b k).live) (2 ^ 20) 0 with
  | some c, some i =>
    .ok (newRef tyFence i (updFence i (fun _ => { live := true, value := f.value, status := f.status, fails := f.fails, ctx := BitVec.ofNat 16 c, tag := tag }) b))
  | none, _ => .error .badConfig
  | _, none => .error .quota

/-- A fresh REGION_RW entry for an RW-AUTH region (Table 10.7). -/
def freshRwKey (c : Ctx) (b : Block) : Except Status (Nat × Block) :=
  match (if b.keys.mint.drbgOk then freeKey b else none) with
  | some i =>
    let (n, b) := fresh b
    .ok (i, newRef tyKey i (writeKey i { type := 7, depth := 2, usage := 0x10, owner := c, parent := 0, budget := unlimited, key := Config.draw n } b))
  | none => .error (if b.keys.mint.drbgOk then .quota else .outOfService)

/-- One region, as Table 10.7 creates it: RO-AUTH by ADOPT under the migrated key, RW-AUTH under a fresh entry, XTS under the
migrated entry. -/
def restoreRgn (tag : Tag) (ctxs keys : List (Nat × Nat)) (b : Block) (r : MigRgn) : Except Status Block :=
  match renum ctxs r.owner with
  | none => .error .badConfig
  | some c => do
    let c : Ctx := BitVec.ofNat 16 c
    let mode : Mode := if r.mode = 0 then .plain else if r.mode = 1 then .xts else if r.mode = 2 then .ro else .rw
    let (key, b) ← (match mode with
      | .rw => freshRwKey c b
      | .plain => .ok (0, b)
      | _ => match renum keys r.key with | some k => .ok (k, b) | none => .error .badConfig)
    let x : Rgn := { mode := mode, vbu := r.vbu, spol := r.spol, wclass := r.wclass, tri := r.tri, owner := c, tag := tag, base := r.base,
                     size := r.size, version := r.version, key := key, digest := r.digest }
    let (bad, tree) := createChecks b x (mode == .ro)
    match bad, lowestFrom (fun k => (getRgn b k).state == .free) 4096 0 with
    | [], some i => .ok (makeRgn (mode == .ro) x tree i b)
    | [], none => .error .quota
    | l, _ => .error (statusWorst l)

/-- Everything of a blob, keys in order of depth. -/
def restoreBlob (tag : Tag) (kek : Nat) (m : MigBlob) (b : Block) : Except Status Block := do
  let (ctxs, b) ← m.ctxs.foldlM (restoreCtx tag) ([], b)
  let byDepth := (List.range 8).flatMap (fun d => m.keys.filter (fun k => k.depth == d))
  let (keys, b) ← byDepth.foldlM (restoreKey kek ctxs) ([], b)
  let b ← m.queues.foldlM (restoreQueue tag ctxs) b
  let b ← m.fences.foldlM (restoreFence tag ctxs) b
  m.regions.foldlM (restoreRgn tag ctxs keys) b

/-- MIG_RESTORE (R309): the blob decrypted, the tenant is rebuilt, still FROZEN, and RESTORED goes to the source; a blob that fails changes
nothing. -/
def bodyMigRestore (j : MbJob) (tag : Tag) (blob : MigBlob) (data : Bytes) (b : Block) : Block :=
  match migOf b tag with
  | some g =>
    if g.source || g.restored then mbEnd j .badConfig [] b
    else if !opensTo (getKey b g.kek).key blob data then mbEnd j .tagFail [] b
    else
      match restoreBlob tag g.kek blob b with
      | .error st => mbEnd j st [] b
      | .ok b =>
        let b := updTInst tag.toNat (fun t => { t with tdisp := blob.tdisp, pasid := blob.pasid, stream := blob.stream, ifid := blob.ifid }) b
        mbEnd j .ok [] (domSend g.peer (.restored tag) (updMig tag (fun g => { g with restored := true }) b))
  | none => mbEnd j .badConfig [] b
def effMigRestore (m : MbReq) (tag : Tag) (blob : MigBlob) (data : Bytes) (b : Block) : Block :=
  mbCommand m 0x0133 [.k] (fun j b => mutate (.migRestore j tag blob data) (bodyMigRestore j tag blob data) b) b

/-- The target's copy starts: LOCKED under TDISP, RUN otherwise (R309). -/
def commitTarget (tag : Tag) (b : Block) : Block :=
  dropMig tag (updTInst tag.toNat (fun t => { t with state := if t.tdisp then .locked else .run }) b)

/-- The source's copy returns to the state it held before the freeze. -/
def unfreeze (tag : Tag) (b : Block) : Block :=
  updTInst tag.toNat (fun t => if t.state = .frozen then { t with state := t.was } else t) b

/-- MIG_ABORT (R309): at the source the instance returns to its state; at the target the copy is discarded. -/
def effMigAbort (m : MbReq) (tag : Tag) (b : Block) : Block :=
  mbCommand m 0x0134 [.k] (fun j b =>
    match migOf b tag with
    | some g =>
      if g.committed || g.aborted then mbEnd j .badConfig [] b
      else if g.source then
        mbEnd j .ok [] (unfreeze tag (mbFinish 0x0131 tag.toNat .aborted [] (updMig tag (fun g => { g with aborted := true }) b)))
      else mbEnd j .ok [] (dropMig tag (destroyTenant tag b))
    | none => mbEnd j .badConfig [] b) b

/-- The sender is the peer of a tag's migration. -/
def fromMigPeer (b : Block) (h : DomHdr) (tag : Tag) (source : Bool) : Bool :=
  boundSender b h && (migOf b tag).any (fun g => g.source == source && g.peer == h.sender)

/-- RESTORED (R309): COMMIT, and the first time the source's copy is destroyed; ABORTED after a MIG_ABORT. -/
def effRestored (h : DomHdr) (tag : Tag) (b : Block) : Block :=
  domTake h (fun b => fromMigPeer b h tag true) (fun b =>
    match migOf b tag with
    | some g =>
      if g.aborted then domSend h.sender (.migAborted tag) b
      else
        let b := domSend h.sender (.commit tag) b
        if g.committed then b else destroyTenant tag (updMig tag (fun g => { g with committed := true }) b)
    | none => b) b

/-- COMMIT (R309), or the source's ABORTED, at the target. -/
def effCommit (h : DomHdr) (tag : Tag) (go : Bool) (b : Block) : Block :=
  domTake h (fun b => fromMigPeer b h tag false) (fun b =>
    if (migOf b tag).any (fun g => g.restored) then
      if go then commitTarget tag b else dropMig tag (destroyTenant tag b)
    else b) b

/-- MIGRATION_ANSWER_TIMEOUT (R309): the DKA is asked; where it has released or re-admitted the source, the target commits. -/
def effMigrationAnswerTimeout (tag : Tag) (released : Bool) (b : Block) : Block :=
  match migOf b tag with
  | some g =>
    if g.source || !g.restored then b
    else
      let b := match b.trust.dom.auth with
        | some (p, _) => if p = b.trust.dom.pkg then b else domSend p (.migAsk tag) b
        | none => b
      if released then commitTarget tag b else b
  | none => b

end Sys2Proof.Machine
end

