-- ==== Sys2Proof/Machine/Spdm.lean ====
section
/-! DEFINITION. The SPDM responder (R277 to R279), its vendor-defined requests (R280, R287, R292, R347) and TDISP (R300 to R303). -/

namespace Sys2Proof.Machine

/-- A response. -/
def spdmSay (r : SpdmReq) (x : SpdmRsp) (b : Block) : Block := updAtt (fun a => { a with last := some (r.tr, x) }) b

/-- A request reaches the responder of the acting primary (R278). -/
def spdm (f : Block → Block) (b : Block) : Block := if mailUp b && !b.boot.halted then f b else b

/-- A request that needs an open secured session. -/
def inSession (r : SpdmReq) (f : Sess → Block → Block) (b : Block) : Block :=
  spdm (fun b =>
    match r.sess.bind (openSess b (some r.tr)) with
    | some s => f s b
    | none => spdmSay r (.error .sessionRequired) b) b

/-- A vendor-defined request: refused to a management session (R311). -/
def vendor (r : SpdmReq) (f : Sess → Block → Block) (b : Block) : Block :=
  inSession r (fun s b =>
    if s.mgmt then spdmSay r (.vendor .notOwner) (portError { inst := (primaryInst b).getD 0 } 0x22 b) else f s b) b

/-! The base requests (R278, R279). -/

/-- GET_VERSION (R278): 1.3 only. -/
def effGetVersion (r : SpdmReq) (b : Block) : Block := spdm (fun b => spdmSay r (.version [0x13]) (updAtt (fun a => { a with version := true }) b)) b

/-- GET_CAPABILITIES (R278). -/
def effGetCapabilities (r : SpdmReq) (b : Block) : Block := spdm (fun b => spdmSay r .capabilities (updAtt (fun a => { a with caps := true }) b)) b

/-- NEGOTIATE_ALGORITHMS (R278, Table 10.2). -/
def effNegotiateAlgorithms (r : SpdmReq) (b : Block) : Block := spdm (fun b => spdmSay r (.algorithms {}) (updAtt (fun a => { a with algs := true }) b)) b

/-- GET_DIGESTS (R278): slots 0 and 1. -/
def effGetDigests (r : SpdmReq) (b : Block) : Block :=
  spdm (fun b => spdmSay r (.digests [(0, slotDigest b 0), (1, slotDigest b 1)]) b) b

/-- GET_CERTIFICATE (R277): slot 0, with the Ryudor chain once one has been accepted; slot 1 the management chain. -/
def effGetCertificate (r : SpdmReq) (slot : Nat) (b : Block) : Block :=
  spdm (fun b => spdmSay r (if slot < 2 then .certificate slot b.trust.att.chain (slotCerts b slot) else .error .invalidRequest) b) b

/-- CHALLENGE (R278): signed by the layout alias, for slot 1 by the management identity, index 3 (R310). -/
def effChallenge (r : SpdmReq) (slot : Nat) (nonce : Key) (b : Block) : Block :=
  spdm (fun b =>
    if slot < 2 then
      let (n, b) := fresh b
      let said := Config.spdmBytes 3 [slot, nonce.toNat, (slotDigest b slot).toNat]
      let sig := if slot = 0 then aliasEc b said n else ecSign (getKey b 3).key (sha384 said) n
      spdmSay r (.challengeAuth slot nonce sig) b
    else spdmSay r (.error .invalidRequest) b) b

/-- GET_MEASUREMENTS (R279): index 0 asks for their number, 0xFF for all; a signed response also carries block 0x20. -/
def effGetMeasurements (r : SpdmReq) (index : Nat) (signed : Bool) (nonce : Key) (b : Block) : Block :=
  spdm (fun b =>
    if index ≤ 0x0A ∨ index = 0x20 ∨ index = 0xFF then
      let (x, b) := measResponse index signed nonce b
      spdmSay r x b
    else spdmSay r (.error .invalidRequest) b) b

/-! Sessions (R278, R310). -/

/-- The lowest session number not in use. -/
def freeSess (b : Block) : Nat := (lowestFrom (fun n => !b.trust.att.sess.any (fun s => s.num == n)) 9 0).getD 8

/-- KEY_EXCHANGE (R278): at most 8 sessions; the management session speaks over MG_ (R310). Sage draws its number on secp384r1,
multiplies the requester's point, and signs with the layout alias, for a management session with the management identity (R310). -/
def effKeyExchange (r : SpdmReq) (mgmt : Bool) (exch : BitVec 768) (b : Block) : Block :=
  spdm (fun b =>
    if 8 ≤ b.trust.att.sess.length then spdmSay r (.error .sessionLimitExceeded) b
    else if mgmt && r.tr != .mctp then spdmSay r (.error .invalidRequest) b
    else if !b.keys.mint.drbgOk || !ecOn (ecOfXY (leBytes 96 exch.toNat)) then spdmSay r (.error .invalidRequest) b
    else
      let (n, b) := fresh b
      let (k, b) := fresh b
      let d := ecScalar (Config.ecNonce n 0).toNat
      let mine := BitVec.ofNat 768 (leNat (ecXY (ecTimesBase d)))
      let said := Config.spdmBytes 2 [exch.toNat, mine.toNat, freeSess b]
      let sig := if mgmt then ecSign (getKey b 3).key (sha384 said) k else aliasEc b said k
      let s : Sess := { num := freeSess b, tr := r.tr, mgmt := mgmt, done := false, keys := 0,
                        secret := (ecShared d (leBytes 96 exch.toNat)).getD [] }
      spdmSay r (.session s.num mine sig) (updAtt (fun a => { a with sess := a.sess ++ [s] }) b)) b

/-- A session closes. -/
def closeSess (n : Nat) (b : Block) : Block :=
  let b := updAtt (fun a => { a with sess := a.sess.filter (fun s => s.num != n) }) b
  { b with trust := { b.trust with tinst := Sparse.mapAll {} b.trust.tinst (fun _ t => if t.sess = some n then { t with sess := none } else t) } }

/-- FINISH (R278, R310): a management session opens only for a chain that ends at the fused operator root. -/
def effFinish (r : SpdmReq) (chainRoot : Digest) (sigOk : Bool) (b : Block) : Block :=
  spdm (fun b =>
    match r.sess.bind (fun n => b.trust.att.sess.find? (fun s => s.num == n && s.tr == r.tr && !s.done)) with
    | none => spdmSay r (.error .sessionRequired) b
    | some s =>
      let rootOk := !s.mgmt || ((doneBank b fOpr).isSome && chainRoot == otpDigest b fOpr)
      if sigOk && rootOk then
        spdmSay r (.finished s.num) (updAtt (fun a => { a with sess := updateWhere (fun x => x.num == s.num) (fun x => { x with done := true }) a.sess }) b)
      else spdmSay r (.error .invalidRequest) (closeSess s.num b)) b

/-- KEY_UPDATE (R278). -/
def effKeyUpdate (r : SpdmReq) (b : Block) : Block :=
  inSession r (fun s b => spdmSay r .ack (updAtt (fun a => { a with sess := updateWhere (fun x => x.num == s.num) (fun x => { x with keys := x.keys + 1 }) a.sess }) b)) b

/-- HEARTBEAT (R278). -/
def effHeartbeatSpdm (r : SpdmReq) (b : Block) : Block := inSession r (fun _ b => spdmSay r .ack b) b

/-- END_SESSION (R278). -/
def effEndSession (r : SpdmReq) (b : Block) : Block := inSession r (fun s b => spdmSay r (.ended s.num) (closeSess s.num b)) b

/-! Large messages (R278). -/

/-- CHUNK_SEND (R278): chunks in order; the last makes the request whole. -/
def effChunkSend (r : SpdmReq) (seq : Nat) (last : Bool) (data : Bytes) (b : Block) : Block :=
  spdm (fun b =>
    let (want, got) := b.trust.att.chunk.getD (0, [])
    if seq = 0 ∨ seq = want then
      let all := (if seq = 0 then [] else got) ++ data
      spdmSay r .ack (updAtt (fun a => if last then { a with chunk := none, big := all } else { a with chunk := some (seq + 1, all) }) b)
    else spdmSay r (.error .invalidRequest) (updAtt (fun a => { a with chunk := none }) b)) b

/-- CHUNK_GET (R278): the next part of the large response. -/
def effChunkGet (r : SpdmReq) (seq : Nat) (b : Block) : Block :=
  spdm (fun b =>
    let n := Config.chunkBytes
    let part := (b.trust.att.big.drop (seq * n)).take n
    if part.isEmpty then spdmSay r (.error .invalidRequest) b
    else spdmSay r (.chunk seq (decide (b.trust.att.big.length ≤ (seq + 1) * n)) part) b) b

/-! Vendor-defined requests. -/

/-- DOM_POLICY (R280, R282). -/
def bodyDomPolicy (r : SpdmReq) (image : Bytes) (b : Block) : Block :=
  let (st, b) := formDomain image b
  spdmSay r (.vendor st) b
def effDomPolicy (r : SpdmReq) (image : Bytes) (b : Block) : Block := vendor r (fun _ b => mutate (.domPolicy r image) (bodyDomPolicy r image) b) b

/-- DOM_RESOLVE (R287): the identity to keep, of a number that stays quarantined. -/
def effDomResolve (r : SpdmReq) (pkg : Pkg) (keep : Digest) (b : Block) : Block :=
  vendor r (fun _ b =>
    if isDka b && b.trust.dom.binds.any (fun e => e.2.pkg == pkg && e.2.state == .quarantined && e.2.ident == keep) then
      spdmSay r (.vendor .ok) (domChange (.keep pkg keep) b)
    else spdmSay r (.vendor .badConfig) b) b

/-- DOM_ABORT (R347, R351): in the session that governs the instance, in RUN, holding contexts; refused in no domain. -/
def effDomAbort (r : SpdmReq) (tag : Tag) (b : Block) : Block :=
  vendor r (fun s b =>
    let t := getTInst b tag.toNat
    let bad := (if inDomain b && !(ctxsOf b tag).isEmpty then [] else [Status.badConfig])
      ++ (if t.tdisp && t.state == .run && t.sess == some s.num then [] else [Status.notOwner])
    if bad.isEmpty then
      spdmSay r (.vendor .ok) { b with bay := { b.bay with due := b.bay.due.or (some (.aborted, b.trust.dom.pkg)) } }
    else spdmSay r (.vendor (statusWorst bad)) b) b

/-- The Domain Evidence Bundle (Table 10.5). -/
def bundleBytes (b : Block) : Bytes :=
  let d := b.trust.dom
  let ms := (d.binds.map (·.2)).mergeSort (fun x y => decide (x.pkg.toNat ≤ y.pkg.toNat))
  let flags := fun (e : Bind) => (if d.auth = some (e.pkg, e.ident) then 1 else 0) + (if d.standby = some (e.pkg, e.ident) then 2 else 0)
    + (if e.evid.any (fun x => x.debug) then 4 else 0) + (if e.evid.any (fun x => x.lcState == 1) then 8 else 0)
  let rec' := fun (e : Bind) =>
    let num := fun (f : Evidence → Nat) => (e.evid.map f).getD 0
    leBytes 2 e.pkg.toNat ++ leBytes 1 (if e.state = .admitted then 1 else 2) ++ leBytes 1 (flags e) ++ leBytes 4 (num (·.arb)) ++ leBytes 48 e.ident.toNat
      ++ leBytes 48 (num (fun x => (digestOf x.resp).toNat)) ++ leBytes 8 (num (·.storeSeq.toNat)) ++ leBytes 4 (num (·.importGen.toNat)) ++ leBytes 12 0
  let body := [0x5A, 0x5A, 0x33, 0x42] ++ leBytes 4 1 ++ leBytes 8 d.id.toNat ++ leBytes 48 d.polHash.toNat ++ leBytes 8 d.bundleSeq
    ++ leBytes 8 d.bundleAt.toNat ++ leBytes 4 ms.length ++ leBytes 44 0 ++ ms.flatMap rec'
  body ++ leBytes 96 (aliasEc b body d.bundleN).toNat ++ leBytes 4627 (aliasDsa b body d.bundleN).toNat

/-- GET_BUNDLE (R292): a part of at most 64 KiB, with the SEQ of the bundle it is taken from. -/
def effGetBundle (r : SpdmReq) (off len : Nat) (b : Block) : Block :=
  vendor r (fun _ b =>
    if isDka b && decide (len ≤ 65536) then
      let part := ((bundleBytes b).drop off).take len
      spdmSay r (.bundle b.trust.dom.bundleSeq part) (updAtt (fun a => { a with big := part }) b)
    else spdmSay r (.vendor .badConfig) b) b

/-- GET_MEMBER_EVIDENCE (R292): the binding, with the evidence the member was admitted on, its import key among it. -/
def effGetMemberEvidence (r : SpdmReq) (pkg : Pkg) (b : Block) : Block :=
  vendor r (fun _ b => if isDka b then spdmSay r (.memberEvidence ((bindOf b pkg).map (·.2))) b else spdmSay r (.vendor .badConfig) b) b

/-- GET_PQ_CHAIN (R279): the ML-DSA-87 chain. -/
def effGetPqChain (r : SpdmReq) (b : Block) : Block := spdm (fun b => spdmSay r (.pqChain b.trust.att.chain (chainOf b 1)) b) b

/-- The chain's leaves are the package's DeviceID keys, and its root hashes to the boot ROM's value (R277). -/
def chainFits (b : Block) (c : CertChain) : Bool :=
  leBytes 97 c.leafEc.toNat == seedPublic 2 (layerSeed b 0 2) && leBytes 2592 c.leafDsa.toNat == seedPublic 1 (layerSeed b 0 1)
    && digestOf c.root == Config.deviceRoot

/-- CERT_LOAD (R277). -/
def effCertLoad (m : MbReq) (c : CertChain) (b : Block) : Block :=
  mbCommand m 0x0103 [.k] (fun j b =>
    if chainFits b c then mbEnd j .ok [] (updAtt (fun a => { a with chain := some c }) b) else mbEnd j .badConfig [] b) b

/-! TDISP (R300 to R303). -/

/-- Every TDISP message arrives in a secured session over DOE (R300). -/
def tdisp (r : SpdmReq) (f : Sess → Block → Block) (b : Block) : Block :=
  vendor r (fun s b => if r.tr = .doe then f s b else spdmSay r (.error .sessionRequired) b) b

/-- GET_TDISP_VERSION, GET_TDISP_CAPABILITIES (R300). -/
def effGetTdispVersion (r : SpdmReq) (b : Block) : Block := tdisp r (fun _ b => spdmSay r .tdispVersion b) b
def effGetTdispCapabilities (r : SpdmReq) (b : Block) : Block := tdisp r (fun _ b => spdmSay r .tdispCapabilities b) b

/-- LOCK_INTERFACE_REQUEST (R302): CONFIG to LOCKED, with the stream named. -/
def effLockInterfaceRequest (r : SpdmReq) (tag : Tag) (stream : BitVec 8) (b : Block) : Block :=
  tdisp r (fun s b =>
    let t := getTInst b tag.toNat
    if t.tdisp && t.state == .config then
      spdmSay r .tdispOk (updTInst tag.toNat (fun t => { t with state := .locked, stream := stream, sess := some s.num }) b)
    else spdmSay r .tdispError b) b

/-- GET_DEVICE_INTERFACE_REPORT (R302). -/
def effGetDeviceInterfaceReport (r : SpdmReq) (tag : Tag) (b : Block) : Block :=
  tdisp r (fun _ b =>
    let t := getTInst b tag.toNat
    if t.state = .free then spdmSay r .tdispError b
    else
      let rep : Report :=
        { tag := tag, tdisp := t.tdisp, pasid := t.pasid,
          queues := (b.cm.queues.filter (fun q => q.2.state != .free && q.2.tag == tag)).map (·.1),
          regions := b.rgn.table.filter (fun x => x.2.state != .free && x.2.tag == tag),
          windows := b.fab.table.filter (fun x => x.2.valid && x.2.tag == tag) }
      spdmSay r (.report rep) b) b

/-- GET_DEVICE_INTERFACE_STATE (R300). -/
def effGetDeviceInterfaceState (r : SpdmReq) (tag : Tag) (b : Block) : Block :=
  tdisp r (fun _ b => spdmSay r (.tdispState (getTInst b tag.toNat).state) b) b

/-- The recorded stream is programmed and active (R302). -/
def streamActive (b : Block) (stream : BitVec 8) : Bool :=
  b.trust.ide.streams.any (fun s => s.num == stream && !s.prog.isEmpty && !s.active.isEmpty)

/-- START_INTERFACE_REQUEST (R302). -/
def effStartInterfaceRequest (r : SpdmReq) (tag : Tag) (b : Block) : Block :=
  tdisp r (fun _ b =>
    let t := getTInst b tag.toNat
    if t.tdisp && t.state == .locked && streamActive b t.stream then
      spdmSay r .tdispOk (updTInst tag.toNat (fun t => { t with state := .run }) b)
    else spdmSay r .tdispError b) b

/-- STOP_INTERFACE_REQUEST (R303): out of RUN to CONFIG; from LOCKED too. -/
def effStopInterfaceRequest (r : SpdmReq) (tag : Tag) (b : Block) : Block :=
  tdisp r (fun _ b =>
    let t := getTInst b tag.toNat
    if t.tdisp && (t.state == .run || t.state == .locked) then spdmSay r .tdispOk (tenantTo tag .config b)
    else spdmSay r .tdispError b) b

end Sys2Proof.Machine
end

