-- ==== Sys2Proof/Machine/Failover.lean ====
section
/-! DEFINITION. Package Primary and Standby Primary (R355 to R357): replication, lease, takeover; and taking a unit out for online
test (R364), which for the PP is a takeover. -/

namespace Sys2Proof.Machine

/-! Replication (R355). -/

/-- What a replicated mutation does once it takes effect. -/
def mutEffect (m : Mut) (b : Block) : Block :=
  match m with
  | .create src => bodyCreate false src b
  | .finishLoad src => bodyFinishLoad src b
  | .adopt src => bodyCreate true src b
  | .retire src => bodyRetire src b
  | .rekey src => bodyRekey src b
  | .update src => bodyUpdate src b
  | .retireComplete i => bodyRetireComplete i b
  | .rekeySweepEnd i => bodyRekeySweepEnd i b
  | .checkSweepEnd i ans => bodyCheckSweepEnd i ans b
  | .roofSlotWrite n node slot => bodyRoofSlotWrite n node slot b
  | .createWindow src => bodyCreateWindow src b
  | .delete src => bodyDelete src b
  | .deleteComplete i => bodyDeleteComplete i b
  | .mint src w arg budget data rd => bodyMint src w arg budget data rd b
  | .rueSweepVisit i => bodyRueVisit i b
  | .scuOp p => bodyScuOp p b
  | .ctxDefine src => bodyCtxDefine src b
  | .ctxDestroy src => bodyCtxDestroy src b
  | .qCreate src => bodyQCreate src b
  | .qDestroy src => bodyQDestroy src b
  | .qRestart src => bodyQRestart src b
  | .fncCreate src => bodyFncCreate src b
  | .hold src => bodyHold src b
  | .release src => bodyRelease src b
  | .objectFree ty i => bodyObjectFree ty.toNat i b
  | .ctxSeal src => bodyCtxSeal src b
  | .ctxRestore src => bodyCtxRestore src b
  | .sealEnd k => bodySealEnd k b
  | .restoreEnd k => bodyRestoreEnd k b
  | .sealTimeout k restore => stopSeal k restore .timeout b
  | .qtail q tail => updQueue q (fun x => { x with tail := tail }) b
  | .qstart q slots rd => bodyQueueStart q slots rd b
  | .qrecord q wr => bodyCompletionRecord q wr b
  | .qwait q => bodyFenceWait q b
  | .fenceSignalApply src st => bodyFenceSignalApply src st b
  | .signal f => bodySignal f b
  | .bind e => bodyBind e b
  | .domChg c => landChange c b
  | .domPolicy r image => bodyDomPolicy r image b
  | .admission p a k => bodyAdmit p a k b
  | .quarantine p => bodyQuarantine p b
  | .rebind p i => bodyRebind p i b
  | .releasePeer p => bodyReleasePeer p b
  | .leave => bodyLeave b
  | .hello p ek l => bodyHello p ek l b
  | .helloAck p l => bodyHelloAck p l b
  | .helloFin p e => bodyHelloFin p e b
  | .handTimeout p => bodyHandTimeout p b
  | .migOpen j t p s e k x => bodyMigOpen j t p s e k x b
  | .migRestore j t m d => bodyMigRestore j t m d b

def updFo (f : Fo → Fo) (b : Block) : Block := { b with fo := f b.fo }

/-- REPLICATION_ACK (R355): the oldest mutation takes effect. -/
def effReplicationAck (b : Block) : Block :=
  match b.fo.repl with
  | m :: t => mutEffect m (updFo (fun f => { f with repl := t }) b)
  | [] => b

/-- REPLICATION_TIMEOUT (R355): the SP is fenced and the mutations proceed without it. -/
def effReplicationTimeout (b : Block) : Block :=
  if b.fo.repl.isEmpty then b
  else b.fo.repl.foldl (fun b m => mutEffect m b) (updFo (fun f => { f with repl := [], sp := .fenced, lost := true, copying := true }) b)

/-- SP_FULL_COPY_END (R355, R357): the SP replicates; after a takeover the returned PP serves as SP. -/
def effSpFullCopyEnd (b : Block) : Block :=
  if !b.fo.copying then b
  else if b.fo.sp = .acting then
    let swap := fun (s : Inst) => { s with role := if s.role = .pp then .sp else if s.role = .sp then .pp else s.role }
    updFo (fun f => { f with sp := .standby, lost := false, copying := false, ppFenced := false, ppGone := false, ppAlive := true, asking := false })
      { b with inst := Sparse.mapAll {} b.inst (fun _ s => swap s) }
  else if (spInst b).isSome then updFo (fun f => { f with sp := .standby, lost := false, copying := false }) b
  else b

/-! The lease (R356). -/

/-- The package's Domain Witness: the DKA, for the DKA's own package its standby. -/
def witnessOf (b : Block) : Option Pkg :=
  let d := b.trust.dom
  if !inDomain b then none
  else if d.role = .dka ∨ d.role = .fenced then d.standby.map (·.1)
  else d.auth.map (·.1)

/-- LEASE_RENEWAL_TIMER (R356): the PP renews while it reaches more than half of the package's instances. -/
def effLeaseRenewalTimer (reached : Nat) (b : Block) : Block :=
  let n := (b.inst.filter (fun e => e.2.built)).length
  match ppInst b, witnessOf b with
  | some p, some w =>
    if isPrimary b p && decide (n < 2 * reached) then
      domSend w .leaseRenew (updFo (fun f => { f with leaseEnd := some (b.time + 50000000) }) b)
    else b
  | _, _ => b

/-- LEASE_EXPIRY (R356): the PP of a package with a witness fences itself. -/
def effLeaseExpiry (b : Block) : Block :=
  match b.fo.leaseEnd, ppInst b with
  | some t, some p => if t.toNat ≤ b.time.toNat && (witnessOf b).isSome && !b.fo.ppFenced && b.fo.sp != .acting then raise p 15 (updFo (fun f => { f with ppFenced := true }) b) else b
  | _, _ => b

/-- PP_HEARTBEAT (R356). -/
def effPpHeartbeat (b : Block) : Block :=
  if (spInst b).isSome then updFo (fun f => { f with ppAlive := true, asking := false }) b else b

/-- PP_HEARTBEAT_LOSS (R356): the standby SP asks the witness for the lease. -/
def effPpHeartbeatLoss (b : Block) : Block :=
  if b.fo.sp = .standby then
    let b := updFo (fun f => { f with ppAlive := false, asking := true }) b
    match witnessOf b with
    | some w => domSend w .leaseReq b
    | none => b
  else b

/-- LEASE_REQ (R356) at the witness: granted once 10 ms have passed since the PP's lease expired. -/
def effLeaseReq (pkg : Pkg) (afterExpiry : Nat) (b : Block) : Block :=
  if (primaryInst b).isSome && boundPeer b pkg then
    let ok := decide (10000000 ≤ afterExpiry)
    let b := domSend pkg (.leaseAnswer ok) b
    if ok then updFo (fun f => { f with witness := Sparse.set 0 f.witness pkg.toNat (b.time + 50000000) }) b else b
  else b

/-! Takeover (R357). -/

/-- A command in progress whose engine's primary is gone ends with ABORTED. -/
def abortInFlight (b : Block) : Block :=
  let b := b.keys.mint.jobs.foldl (fun b j => cmdDone .mint j.src j.status j.result j.index b) (updMint (fun m => { m with jobs := [] }) b)
  let b := (b.cm.queues.filter (fun q => q.2.cmd.any (fun c => c.phase == .ready || c.phase == .running))).foldl
    (fun b q => cmdEnd (.queue q.1) .aborted 0 (killCommand q.1 b)) b
  let done := fun (e : Jent) => { e with done := true, status := .aborted, fin := b.time }
  { b with jnl := { b.jnl with ents := updateWhere (fun e => !e.done) done b.jnl.ents } }

/-- The slices of a die leave service. -/
def dieOut (i : Nat) (b : Block) : Block :=
  let b := (b.mcs.filter (fun m => m.2.present && m.2.inst == i)).foldl (fun b m => sliceFault m.1 true b) b
  (b.lcs.filter (fun l => l.2.present && l.2.inst == i)).foldl (fun b l => lcsOut l.1 b) b

/-- The SP takes over (R357 steps 2 to 5). -/
def takeover (b : Block) : Block :=
  let old := ppInst b
  let b := updFo (fun f => { f with sp := .acting, repl := [], asking := false, ppGone := true }) b
  let b := { b with inst := Sparse.mapAll {} b.inst (fun _ s => { s with kc := [] }) }
  let b := match old with
    | some i => dieOut i b
    | none => b
  let b := ideStopAll (abortInFlight b)
  let b := (b.trust.tinst.filter (fun t => t.2.tdisp && t.2.state != .free && t.2.state != .error)).foldl (fun b t => tenantTo (BitVec.ofNat 6 t.1) .error b) b
  let b := { b with trust := { b.trust with att := { b.trust.att with sess := [], chunk := none } } }
  raisePrimary 15 { b with cm := { b.cm with dumps := [] } }

/-- LEASE_GRANT (R357). -/
def effLeaseGrant (b : Block) : Block :=
  if b.fo.sp = .standby ∧ b.fo.asking = true then takeover b else b

/-- The PP relinquishes (R357): a standby SP acts at once on its replica; without one the package has no primary and its KREG is
zeroized. -/
def relinquish (b : Block) : Block :=
  match ppInst b with
  | none => b
  | some p =>
    if !isPrimary b p then b
    else
      let told := match witnessOf b with
        | some w => domSend w .relinquish b
        | none => b
      if b.fo.sp = .standby then takeover told
      else
        let b := { told with keys := { told.keys with kreg := Sparse.mapAll {} told.keys.kreg (fun _ e => { gen := e.gen }) } }
        raise p 15 (updFo (fun f => { f with ppGone := true, repl := [] }) b)

/-- RELINQUISH (R357). -/
def effRelinquish (b : Block) : Block := relinquish b

/-! Online test: taking out (R364). -/

/-- BAY_OLT_TAKE_OUT (R364, Table 12.11). -/
def effBayOltTakeOut (z : ZReq) (w : Word) (b : Block) : Block :=
  bayDo z [.k, .m] (fun b =>
    let i := z.inst
    let o := oltOf w
    let refuse := fun (st : Status) => raise i 10 (updOlt i (fun x => { x with status := st }) b)
    if (getUnits b i).olt.busy || !oltHeld b i o.kind o.unit o.isLcs then refuse .badConfig
    else
      let b' := journalZ z 0x11 b
      if o.kind = 0 then
        let k := partner o.unit
        if (getMcs b o.unit).state = .inService ∧ (getMcs b k).present = true ∧ (getMcs b k).state = .inService ∧ (getMcs b k).busy = false ∧ (getMcs b o.unit).busy = false
        then startTakeover k (updOlt i (fun _ => o) b') else refuse .badConfig
      else if o.kind = 1 then
        if (getLcs b o.unit).state = .outOfService then refuse .badConfig
        else
          let t := b.time
          oltEnd i .ok (updLport o.unit (fun p => { p with leftMask := some t }) (updLcs o.unit (fun l => { l with state := .outOfService }) b'))
      else if o.kind = 2 then
        if laneIsOut b i o || decide ((if o.isLcs then 18 else 24) ≤ o.lane) then refuse .badConfig
        else if (if o.isLcs then (getLcs b o.unit).spares else (getMcs b o.unit).spares) = 0 then refuse .quota
        else oltEnd i .ok (laneOut o.isLcs o.unit o.lane b')
      else if b.fo.sp = .standby then oltEnd i .ok (relinquish b') else refuse .badConfig) b

end Sys2Proof.Machine
end

