-- ==== Sys2Proof/Machine/Store.lean ====
section
/-! DEFINITION. The Sealed Store: images and commit records (R270, R271), an update step by step on FL_ (R58, R59,
R272), its end and its failure (R273). -/

namespace Sys2Proof.Machine

/-- The persistent entries as KREG holds them. -/
def persistSet (b : Block) : List (Nat × KEntry) := b.keys.kreg.filter (fun e => e.2.persist && e.2.state != .free)

/-- Sage's persistent records: the import generation (R244). -/
def storeRecords (b : Block) : Bytes := leBytes 4 b.keys.mint.importGen.toNat

/-- An entry record of a set image (R271). -/
def entryRecord (e : Nat × KEntry) : Bytes :=
  leBytes 8 (kregView0 e.2).toNat ++ leBytes 8 (kregView1 e.2).toNat ++ leBytes 8 (kregView2 e.2).toNat ++ leBytes 2 e.1
    ++ List.replicate 6 0 ++ keyBytes e.2.key

/-- The plaintext of a set image (R271). -/
def setImage (seq : BitVec 64) (l : List (Nat × KEntry)) (recs : Bytes) : Bytes :=
  [0x5A, 0x5A, 0x33, 0x4B] ++ leBytes 4 l.length ++ leBytes 8 seq.toNat ++ leBytes 4 recs.length ++ List.replicate 44 0
    ++ l.flatMap entryRecord ++ recs

/-- IV of an image (kind 0) or a record (kind 1) (R271). -/
def storeIv (kind : Byte) (slot : Bool) (seq : BitVec 64) : Bytes :=
  [kind, if slot then 1 else 0, 0, 0] ++ leBytes 8 seq.toNat

/-- Length of an image with its tag. -/
def imageLen (l : List (Nat × KEntry)) (recs : Bytes) : Nat := 64 + 64 * l.length + recs.length + 16

/-- Offset of a slot (Table 9.10). -/
def slotBase (slot : Bool) : Nat := if slot then 0x42000 else 0x2000

/-- A commit record (Table 9.11). -/
def commitRecord (key : Key) (slot : Bool) (seq : BitVec 64) (image : Bytes) : Bytes :=
  let body : Bytes := [0x5A, 0x5A, 0x33, 0x43, if slot then 1 else 0, 0, 0, 0] ++ leBytes 8 seq.toNat ++ leBytes 4 image.length
    ++ List.replicate 12 0 ++ image.drop (image.length - 16)
  body ++ gcmTag (keyBytes key) (storeIv 1 slot seq) body []

def flErase (addr : Nat) : FlCmd := { op := 2, addr := addr, len := 1, data := [] }
def flProgram (addr : Nat) (data : Bytes) : FlCmd := { op := 1, addr := addr, len := data.length, data := data }
def flRead (addr len : Nat) : FlCmd := { op := 0, addr := addr, len := len, data := [] }

/-- Drive a command of the update on FL_, in a phase. -/
def storeDrive (ph : StorePhase) (c : FlCmd) (b : Block) : Block := updStore (fun s => { s with phase := ph, flReq := some c }) b

/-- An update may start (R272): the store is open, none is under way, a mutation awaits one, and the Service Request Queue has room. -/
def storeCanUpdate (b : Block) : Bool :=
  b.keys.store.isOpen && b.keys.store.phase == .idle && b.keys.store.dirty && decide (b.keys.srq.length < 64)

/-- SEALED_STORE_UPDATE (R271, R272): the new set with the next SEQ for the slot not in force; its first sector is erased
while the SCU encrypts it under index 1. -/
def effSealedStoreUpdate (b : Block) : Block :=
  if storeCanUpdate b then
    let s := b.keys.store
    let l := persistSet b
    let recs := storeRecords b
    let slot := !s.slot
    let seq := s.seq + 1
    let b := updMint (fun m => { m with jobs := m.jobs.map (fun j => if j.store = .next then { j with store := .now } else j) }) b
    let b := updStore (fun s => { s with dirty := false, fresh := l, recs := recs, image := [] }) b
    let b := srqPush { user := .store, op := .gcm (storeIv 0 slot seq) [], prio := 3, key := 1, gen := (getKey b 1).gen,
                       src := setImage seq l recs, dst := imageLen l recs } b
    storeDrive (.erasing ((imageLen l recs + 4095) / 4096)) (flErase (slotBase slot)) b
  else b

/-- The update ends without a commit (R59, R272): the commands it carried complete with a status; the set in force
stays. A position that a record was programmed into is not erased any more. -/
def storeFail (st : Status) (b : Block) : Block :=
  let b := updStore (fun s => { s with phase := .idle, flReq := none, fresh := [], recs := [], image := [],
                                       pos := if s.phase = .record ∨ s.phase = .recordRead then s.pos + 1 else s.pos }) b
  let b := srqDrop (fun d => d.user == .store) b
  let b := updMint (fun m => { m with jobs := m.jobs.map (fun j => if j.store = .now then { j with store := .none, status := st } else j) }) b
  count { inst := (primaryInst b).getD 0 } (evKey 4) b

/-- The new set is in force (R272, R273): the commands that awaited it may complete. -/
def storeCommit (b : Block) : Block :=
  let b := updStore (fun s => { s with phase := .idle, flReq := none, seq := s.seq + 1, slot := !s.slot, pos := s.pos + 1,
                                       failed := false, fresh := [], recs := [], image := [] }) b
  updMint (fun m => { m with jobs := m.jobs.map (fun j => if j.store = .now then { j with store := .none } else j) }) b

/-- Program the image from an offset, at most 256 bytes at a time. -/
def storeProgram (at' : Nat) (b : Block) : Block :=
  let s := b.keys.store
  storeDrive (.programming at') (flProgram (slotBase (!s.slot) + at') ((s.image.drop at').take 256)) b

/-- Read the image back from an offset. -/
def storeReadback (at' : Nat) (b : Block) : Block :=
  let s := b.keys.store
  storeDrive (.readback at') (flRead (slotBase (!s.slot) + at') (min 256 (s.image.length - at'))) b

/-- Offset of the next commit record. -/
def recordAt (s : Store) : Nat := (if s.sector then 0x1000 else 0) + 64 * s.pos

/-- The commit record of the update under way. -/
def storeRec (b : Block) : Bytes :=
  commitRecord (getKey b 1).key (!b.keys.store.slot) (b.keys.store.seq + 1) b.keys.store.image

/-- Program the commit record. -/
def storeRecord (b : Block) : Block :=
  storeDrive .record (flProgram (recordAt b.keys.store) (storeRec b)) b

/-- The next command of an update after one is done (R272). What is read back is compared with what was programmed: a difference is
a flash failure (log 110). -/
def storeNext (data : Bytes) (b : Block) : Block :=
  let s := b.keys.store
  match s.phase with
  | .erasing left =>
    if 1 < left then
      let done := (imageLen s.fresh s.recs + 4095) / 4096 - left + 1
      storeDrive (.erasing (left - 1)) (flErase (slotBase (!s.slot) + 4096 * done)) b
    else if s.image.isEmpty then updStore (fun s => { s with phase := .encrypt, flReq := none }) b
    else storeProgram 0 b
  | .programming at' => if at' + 256 < s.image.length then storeProgram (at' + 256) b else storeReadback 0 b
  | .readback at' =>
    if data != (s.image.drop at').take 256 then storeFail .timeout b
    else if at' + 256 < s.image.length then storeReadback (at' + 256) b
    else if s.pos < 64 then storeRecord b
    else storeDrive .recordErase (flErase (if s.sector then 0 else 0x1000)) b
  | .recordErase => storeRecord (updStore (fun s => { s with sector := !s.sector, pos := 0 }) b)
  | .record => storeDrive .recordRead (flRead (recordAt s) 64) b
  | .recordRead => if data = storeRec b then storeCommit b else storeFail .timeout b
  | _ => b

/-- What the SCU wrote back for the image. -/
def storeServed (d : SrqDone) (b : Block) : Block :=
  if d.status = .ok then
    let b := updStore (fun s => { s with image := d.out }) b
    if b.keys.store.phase = .encrypt then storeProgram 0 b else b
  else storeFail d.status b

/-! Opening (R273). -/

/-- Fields of a commit record (Table 9.11). -/
def recSlot (r : Bytes) : Bool := r.getD 4 0 == 1
def recSeq (r : Bytes) : Nat := leNat ((r.drop 8).take 8)
def recLen (r : Bytes) : Nat := leNat ((r.drop 16).take 4)

/-- A record verifies (R271): its MAGIC, a slot, and RTAG under index 1. -/
def recGood (key : Key) (r : Bytes) : Bool :=
  r.take 4 == [0x5A, 0x5A, 0x33, 0x43] && decide (r.getD 4 0 ≤ 1)
    && gcmTag (keyBytes key) (storeIv 1 (recSlot r) (BitVec.ofNat 64 (recSeq r))) (r.take 48) [] == r.drop 48

/-- An image verifies against its record (R273): its length, its tag, and the tag that the record names. -/
def imageGood (key : Key) (r image : Bytes) : Bool :=
  let ct := image.take (recLen r - 16)
  let tag := image.drop (recLen r - 16)
  decide (80 ≤ recLen r ∧ recLen r ≤ 0x40000) && image.length == recLen r && tag == (r.drop 32).take 16
    && gcmTag (keyBytes key) (storeIv 0 (recSlot r) (BitVec.ofNat 64 (recSeq r))) [] ct == tag

/-- The plaintext of an image. -/
def imageText (key : Key) (r image : Bytes) : Bytes :=
  gcmCrypt (keyBytes key) (storeIv 0 (recSlot r) (BitVec.ofNat 64 (recSeq r))) (image.take (recLen r - 16))

/-- A record of an entry: index and entry (R242, R271). -/
def entryOf (d : Bytes) : Nat × KEntry :=
  let v0 := BitVec.ofNat 64 (leNat (d.take 8))
  let v1 := BitVec.ofNat 64 (leNat ((d.drop 8).take 8))
  (leNat ((d.drop 24).take 2) % 8192,
   { state := if fieldNat v0 2 1 = 1 then .active else if fieldNat v0 2 1 = 2 then .invalid else .free
     cv := fieldBit v0 3, type := fieldNat v0 7 4, depth := fieldNat v0 10 8, sys := fieldBit v0 11, persist := fieldBit v0 12,
     usage := BitVec.ofNat 8 (fieldNat v0 23 16), owner := BitVec.ofNat 16 (fieldNat v0 39 24), gen := BitVec.ofNat 16 (fieldNat v0 55 40),
     parent := fieldNat v1 12 0, pgen := BitVec.ofNat 16 (fieldNat v1 31 16),
     budget := leNat ((d.drop 16).take 6), key := BitVec.ofNat 256 (leNat ((d.drop 32).take 32)) })

/-- The entries and Sage's records of a set (R271). -/
def setEntries (text : Bytes) : List (Nat × KEntry) :=
  (List.range (min 4000 (leNat ((text.drop 4).take 4)))).map (fun k => entryOf ((text.drop (64 + 64 * k)).take 64))
def setRecords (text : Bytes) : Bytes :=
  (text.drop (64 + 64 * leNat ((text.drop 4).take 4))).take (leNat ((text.drop 16).take 4))

/-- The records that verify among the positions read, the highest SEQ first. -/
def candidates (key : Key) (got : Bytes) : List (Nat × Bytes) :=
  ((((List.range 128).map (fun k => (k, (got.drop (64 * k)).take 64))).filter (fun e => recGood key e.2)).mergeSort
    (fun x y => decide (recSeq y.2 ≤ recSeq x.2)))

/-- The first position of a sector, from one on, that reads erased; 64 where none does. -/
def erasedFrom (got : Bytes) (sector : Bool) (lo : Nat) : Nat :=
  (lowestFrom (fun p => ((got.drop ((if sector then 4096 else 0) + 64 * p)).take 64).all (fun x => x == 0xFF)) (64 - lo) lo).getD 64

end Sys2Proof.Machine
end

