-- ==== Sys2Proof/Machine/Otp.lean ====
section
/-! DEFINITION. Programming fuses (R60, R61, R365 to R371): the words that each purpose programs, and the request under way on
OT_. What follows when a purpose ends is in Boot.lean. -/

namespace Sys2Proof.Machine

def updOtp (f : Otp → Otp) (b : Block) : Block := { b with otp := f b.otp }
def updBoot (f : Boot → Boot) (b : Block) : Block := { b with boot := f b.boot }

/-- The words of a thermometer that a count of `n` sets (R365). -/
def thermoWords (first n : Nat) : List (Nat × Nat) :=
  (List.range ((n + 31) / 32)).map (fun k => (first + k, 2 ^ min 32 (n - 32 * k) - 1))

/-- The 32-bit words of a value, lowest first. -/
def words32 (n v : Nat) : List Nat := (List.range n).map (fun k => (v >>> (32 * k)) % 2 ^ 32)

/-- A bank written (R367): STARTED, the data, DONE. -/
def bankWords (f : OtpField) (k : Nat) (data : List Nat) : List (Nat × Nat) :=
  [(f.status + k, 0xFF)] ++ (List.range data.length).map (fun j => (f.data + f.stride * k + j, data.getD j 0)) ++ [(f.status + k, 0xFFFF)]

/-- Bank status words found in STARTED, to be made VOID (R367). -/
def voidWords (b : Block) : List (Nat × Nat) :=
  [fSerial, fRoots, fOpr, fLkey].flatMap (fun f => ([0, 1].filter (fun k => bankStatus b f k == 1)).map (fun k => (f.status + k, 0xFFFFFFFF)))

/-- Three copies of a code, in the order A, B, C (R366). -/
def copyWords (first : Nat) (l : Lc) : List (Nat × Nat) := [(first, lcWord l), (first + 1, lcWord l), (first + 2, lcWord l)]

/-- The instance that asks for the fuses (R60): the boot master at boot, the acting primary afterwards. -/
def otpUser (b : Block) : Option Nat := if b.boot.step < 12 then b.boot.master else primaryInst b

/-- The fuses are wanted for one more purpose. -/
def otpQueue (w : OtpWhy) (b : Block) : Block := updOtp (fun o => { o with later := o.later ++ [w] }) b

/-- A request is outstanding on OT_: the user holds the grant and has one to make. -/
def otpActive (b : Block) : Bool := (otpUser b).isSome && b.otp.gnt == otpUser b

/-- The words that a purpose programs first. ROOTS data and what follows a transition's intent come later (R368). -/
def otpWords (b : Block) : OtpWhy → List (Nat × Nat)
  | .clean => voidWords b
  | .void w => [(w, 0xFFFFFFFF)]
  | .advance _ l _ => copyWords 0x003 l
  | .hash lk v =>
    let f := if lk then fLkey else fOpr
    match emptyBank b f with
    | some k => bankWords f k (words32 12 v.toNat)
    | none => []
  | .arb => thermoWords 0x080 (match b.boot.fw with | some f => f.2.svn | none => 0)
  | .scan _ => thermoWords 0x088 (scanCount b + 1)

/-- A purpose starts. -/
def otpBegin (w : OtpWhy) (b : Block) : Block :=
  let l := otpWords b w
  updOtp (fun o => { o with why := some w, todo := l, stage := 0 }) b

/-- The next word is programmed: OT_OWN rises, the request waits for the grant. -/
def otpKick (b : Block) : Block :=
  match b.otp.todo with
  | (w, v) :: t => updOtp (fun o => { o with todo := t, job := some (.prog w v false false), own := true }) b
  | [] => b

/-- What a word must read after it is programmed: a fuse never returns from 1 to 0, and no other fuse changes (R61). -/
def otpExpect (b : Block) (word value : Nat) : BitVec 32 := otpWord b word ||| BitVec.ofNat 32 value

def setOtpWord (w : Nat) (v : BitVec 32) (b : Block) : Block := updOtp (fun o => { o with words := Sparse.set 0 o.words w v }) b

/-- The status word of the bank that is being written. -/
def bankWord (o : Otp) : Nat :=
  match o.todo.getLast?, o.job with
  | some e, _ => e.1
  | none, some (.prog w _ _ _) => w
  | none, _ => 0

/-- OT_OWN of an instance (R60): the user's while it has something to do, the other primary-capable instance's from reset until it
has sensed the array. -/
def otOwn (b : Block) (i : Nat) : Bool :=
  if otpUser b = some i then b.otp.own
  else (getInst b i).built && (getInst b i).primary && (getInst b i).ao.good && decide (2 ≤ b.boot.step) && !b.otp.second

/-- A word that the other primary-capable instance senses at boot (R60, R373); an error ends its sense. -/
def secondSense (err : Bool) (b : Block) : Block :=
  match b.otp.sense2, b.otp.gnt with
  | some k, some _ => updOtp (fun o => if err ∨ 511 ≤ k then { o with second := true, sense2 := none } else { o with sense2 := some (k + 1) }) b
  | _, _ => b

/-- OT_GNT (R60, R69, R373): the first grant after reset fixes the boot master, which senses the array; the other
primary-capable instance senses in turn. A grant that falls during a request leaves it to be finished at the next: a program
already issued is then verified by read-back. -/
def effOtGnt (i : Nat) (level : Bool) (b : Block) : Block :=
  let s := getInst b i
  if b.boot.hard || b.boot.step < 2 || !(s.built && s.primary && s.ao.good) then b
  else if level then
    let b := updOtp (fun o => { o with gnt := some i }) b
    if b.boot.master.isNone then
      let b := updInst i (fun s => { s with role := .pp, ao := { s.ao with armed := true } }) b
      updOtp (fun o => { o with job := some (.sense 0), own := true }) (updBoot (fun x => { x with master := some i }) b)
    else if b.boot.master = some i then b
    else updOtp (fun o => { o with sense2 := if o.second then none else some (o.sense2.getD 0) }) b
  else if b.otp.gnt = some i then
    let busy := otpActive b && b.otp.job.isSome
    let b := updOtp (fun o => { o with gnt := none, job := match o.job with
      | some (.prog w v again rb) => some (.prog w v again (rb || busy))
      | j => j }) b
    if busy then (if s.released then portError { inst := i } 15 b else count { inst := i } (evPort 15) b) else b
  else b

end Sys2Proof.Machine
end

