-- ==== Sys2Proof/Machine/Boot.lean ====
section
/-! DEFINITION. Boot (R3, R9, R10, R248 to R250, R276, R366 to R382): sense and resume, Layout Image, roots, ring, Basil, firmware,
Sealed Store, release; the ends of the purposes for which fuses are programmed. -/

namespace Sys2Proof.Machine

/-! Checks on a Layout Image. -/

/-- The wave numbers of an image, rising. -/
def waveNumbers (l : LayoutImg) : List Nat := (List.range 16).filter (fun w => l.insts.any (fun x => x.waves.contains w))

/-- R377: every slice has a wave up to 15, at most 8 slices share one, at most 13 are distinct. -/
def scheduleOk (l : LayoutImg) : Bool :=
  l.insts.all (fun x => x.waves.length == x.nMcs + x.nLcs && x.waves.all (fun w => decide (w ≤ 15)))
    && (waveNumbers l).all (fun w => decide ((l.insts.flatMap (fun x => x.waves.filter (· == w))).length ≤ 8))
    && decide ((waveNumbers l).length ≤ 13)

/-- An image that ends with two signatures: what they sign, and both (R381, R382). -/
def signedPart (image : Bytes) : Bytes × Bytes := (image.take (image.length - 4723), image.drop (image.length - 4723))

/-- Magic, format and length of a Layout Image (R381). -/
def layoutForm (image : Bytes) : Bool :=
  image.take 5 == [0x5A, 0x5A, 0x33, 0x4C, 1] && decide (64 + 2689 + 4723 ≤ image.length ∧ image.length ≤ 65536)

/-- The public keys that a Layout Image carries before its signatures, ML-DSA-87 key then ECDSA P-384 key (Table 13.1). -/
def layoutKeys (image : Bytes) : Bytes := (signedPart image).1.drop (image.length - 4723 - 2689)

/-- Both signatures of a Layout Image verify under its keys, over everything before them (R381; their order is log 135's). -/
def layoutSigned (image : Bytes) : Bool :=
  let (body, sigs) := signedPart image
  let keys := layoutKeys image
  dsaVerify (keys.take 2592) (sigs.take 4627) body && ecVerify (keys.drop 2592) (sha384 body) (sigs.drop 4627)

/-- R371: whose keys may sign the image. -/
def layoutKeyOk (b : Block) (l : LayoutImg) : Bool :=
  ((doneBank b fLkey).isNone && (b.otp.lc == .blank || b.otp.lc == .test)) || digestOf (layoutKeys l.bytes) == otpDigest b fLkey

/-- R371, R377, R381: what step 6 checks of the image that was delivered. -/
def layoutGood (b : Block) (l : LayoutImg) : Bool :=
  l.bytes == b.boot.buf && layoutForm l.bytes && layoutSigned l.bytes && layoutKeyOk b l && scheduleOk l

/-- Two ranges (first, length) share a number. -/
def rangesMeet (x y : Nat × Nat) : Bool := decide (0 < x.2 ∧ 0 < y.2 ∧ x.1 < y.1 + y.2 ∧ y.1 < x.1 + x.2)

/-- No two of a list's ranges meet. -/
def rangesApart : List (Nat × Nat) → Bool
  | [] => true
  | x :: t => t.all (fun y => !rangesMeet x y) && rangesApart t

/-- Group pages of an entry on an MCS. -/
def entryGroup (m : MapEntry) (n : Nat) : Nat × Nat := (m.b, entryPagesOn m n m.base (m.base + m.pages))

/-- R105: the package map. -/
def mapOk (l : LayoutImg) : Bool :=
  decide (l.map.length ≤ 64)
    && l.map.all (fun m => [1, 2, 4, 8, 16, 32].contains m.w && decide (m.f + m.w ≤ 32) && m.pages % m.w == 0)
    && rangesApart (l.map.map (fun m => (m.base, m.pages)))
    && (List.range 32).all (fun n =>
        rangesApart (l.map.map (fun m => entryGroup m n))
          && (l.groups.filter (fun g => g.mcs == n)).all (fun g =>
              l.map.all (fun m => !rangesMeet (64 * (entryGroup m n).1, 64 * (entryGroup m n).2) (g.carve, g.carveLen))))

/-- R10: the pairs that the build makes. -/
def buildPairs (l : LayoutImg) : List (Nat × Nat) :=
  l.insts.flatMap (fun x => (List.range (x.nMcs / 2)).map (fun k => (x.mcsBase + 2 * k, x.mcsBase + 2 * k + 1)))

/-- R9: an instance that has answered was built as the image says. -/
def builtAs (b : Block) (x : LayInst) : Bool :=
  let s := getInst b x.num
  b.boot.absent.contains x.num
    || (s.built && s.nMcs == x.nMcs && s.nLcs == x.nLcs && (s.primary || !(x.role == 1 || x.role == 2)))

/-- R3, R9, R10, R105 and R160 hold of an image. -/
def layoutAccepted (b : Block) (l : LayoutImg) : Bool :=
  let with' := fun (r : Nat) => (l.insts.filter (fun x => x.role == r)).length
  with' 1 == 1 && decide (with' 2 ≤ 1) && decide (with' 3 ≤ 126) && with' 1 + with' 2 + with' 3 == l.insts.length
    && decide (l.insts.length ≤ 128) && (l.insts.map (·.num)).eraseDups.length == l.insts.length
    && (l.insts.head?).any (fun x => x.role == 1 && b.boot.master == some x.num)
    && l.insts.all (fun x => builtAs b x && decide (x.num < 128) && decide (x.mcsBase + x.nMcs ≤ 32) && decide (x.lcsBase + x.nLcs ≤ 64)
        && (x.nMcs == 0 || x.mcsBase % 2 == 0) && x.nMcs % 2 == 0)
    && rangesApart (l.insts.map (fun x => (x.mcsBase, x.nMcs))) && rangesApart (l.insts.map (fun x => (x.lcsBase, x.nLcs)))
    && (buildPairs l).all l.pairs.contains && l.pairs.all (buildPairs l).contains
    && mapOk l && rangesApart (l.serving.map (fun v => (v.base, v.size)))

/-! Steps 5 to 7: seed, image, roots (R244, R248, R249, R269, R276). -/

/-- Ask the host for an image; BOOT_REQ names it. -/
def bootAsk (k : Nat) (b : Block) : Block := updBoot (fun x => { x with asked := some k, sent := false, buf := [] }) b

/-- Step 5: the DRBG is seeded; the boot nonce is drawn (R244); the Layout Image is wanted. -/
def bootStep5 (b : Block) : Block :=
  if b.boot.halted then b
  else if b.keys.mint.drbgOk then
    let (n, b) := fresh b
    bootAsk 0 (updMint (fun m => { m with bootNonce := Config.draw n }) (updBoot (fun x => { x with step := 5 }) b))
  else safeState .outOfService (updBoot (fun x => { x with step := 5 }) b)

/-- The device serial as 8 bytes, the DUS and the identity seed (Table 13.1). -/
def serialBytes (b : Block) : Bytes := leBytes 8 (otpField b fSerial)
def dus (b : Block) : Key := BitVec.ofNat 256 (otpField b fRoots)
def identitySeed (b : Block) : Key := BitVec.ofNat 256 (otpField b fRoots / 2 ^ 256)

/-- Index 0's material (Table 9.4). -/
def rootKey (b : Block) : Option Key :=
  let test := kdfKey Config.testRoot "test-root" (serialBytes b)
  match b.otp.lc with
  | .blank => none
  | .test => some test
  | .prod => if b.boot.debug then some test else if b.keys.mint.eolSeen then none else some (kdfKey (dus b) "prod-root" [])
  | .eol => some (kdfKey (dus b) "eol-root" [])

/-- The fixed entries below the root (Table 9.1): index, type, USAGE, label, context. -/
def fixedEntries (b : Block) : List (Nat × Nat × BitVec 8 × String × Bytes) :=
  let nonce := keyBytes b.keys.mint.bootNonce
  [(1, 1, 0x41, "sealed-store", []), (2, 3, 0x08, "mgmt-id", [1]), (3, 3, 0x08, "mgmt-id", [2]),
   (4, 2, 0x04, "import-key", 3 :: leBytes 4 b.keys.mint.importGen.toNat), (5, 1, 0x41, "ring", nonce),
   (6, 1, 0x41, "journal", nonce), (7, 1, 0x41, "context-seal", nonce)]

/-- Index 0 and indices 1 to 7 are derived (R244). -/
def deriveFixed (root : Key) (b : Block) : Block :=
  let b := writeKey 0 { type := 0, depth := 1, sys := true, usage := 1, budget := unlimited, key := root } b
  (fixedEntries b).foldl (fun b e =>
    writeKey e.1 { type := e.2.1, depth := 2, sys := true, usage := e.2.2.1, parent := 0, budget := unlimited,
                   key := kdfKey root e.2.2.2.1 e.2.2.2.2 } b) b

/-- An instance as the Layout Image lists it. -/
def layInst (b : Block) (i : Nat) : Option LayInst := b.boot.layout.bind (fun l => l.insts.find? (fun x => x.num == i))

def roleOf : Nat → Role
  | 1 => .pp | 2 => .sp | 3 => .di | _ => .none

/-- An instance takes its part of the Layout Image (R375): the numbers of its slices. -/
def takeLayout (i : Nat) (b : Block) : Block :=
  match layInst b i with
  | none => b
  | some x =>
    let b := updInst i (fun s => { s with num := x.num, mcsBase := x.mcsBase, lcsBase := x.lcsBase }) b
    let s := getInst b i
    let b := (List.range s.nMcs).foldl (fun b k => updMcs (x.mcsBase + k) (fun m => { m with present := true, inst := i }) b) b
    (List.range s.nLcs).foldl (fun b k => updLcs (x.lcsBase + k) (fun m => { m with present := true, inst := i }) b) b

/-- Step 8: the pre-wave starts (R376). -/
def bistStart (b : Block) : Block :=
  updBoot (fun x => { x with step := 8, preWave := true, waves := match x.layout with | some l => waveNumbers l | none => [] }) b

/-- Step 7 ends once every instance is heard of or absent (R375). -/
def ringSettled (b : Block) : Bool :=
  match b.boot.layout with
  | some l => l.insts.all (fun x => b.boot.master == some x.num || b.boot.acks.contains x.num || b.boot.absent.contains x.num)
  | none => false

def ringCheck (b : Block) : Block := if b.boot.step = 7 ∧ b.boot.halted = false ∧ ringSettled b = true then bistStart b else b

/-- Step 7: roots, identity and ring key; the boot master is configured, the others by KEYLOAD (R375). In BLANK there is no
root, and the boot goes on (Table 13.6). -/
def bootStep7 (b : Block) : Block :=
  let b := updBoot (fun x => { x with step := 7 }) b
  let b := beginLayer 0 (identitySeed b) b
  let b := updDom (fun d => { d with ident := digestOf (seedPublic 2 (layerSeed b 0 2)) }) b
  let b := match rootKey b with
    | some k => deriveFixed k b
    | none => updBoot (fun x => { x with status := .lifecycle }) b
  match b.boot.master with
  | some i =>
    let key := (getKey b 5).key
    ringCheck (takeLayout i (updInst i (fun s => { s with ringKey := some key }) b))
  | none => b

/-! KEYLOAD and LAYOUT (R255, R375). -/

/-- KEYLOAD (R255, R375): an instance takes one per boot, the one that names it; one more, and any after release, is a seal failure.
One for another number passes on round the ring. -/
def effKeyload (i num role : Nat) (key : Key) (b : Block) : Block :=
  let s := getInst b i
  if !s.built || !s.ao.good || b.boot.hard then b
  else if s.released ∨ (s.ringKey.isSome ∧ num = i) then sealFail i b
  else if b.boot.step = 7 ∧ b.boot.halted = false ∧ s.ringKey = none ∧ num = i ∧ (layInst b i).isSome = true then
    let r := roleOf role
    ringSend (b.boot.master.getD i) i .layout (updInst i (fun s => { s with ringKey := some key, num := num, role := r, ao := { s.ao with armed := r == .sp } }) b)
  else b

/-- LAYOUT (R375): the instance takes its sections and acknowledges; where a message is missing it does not. -/
def effLayout (r : RingIn) (b : Block) : Block :=
  ringArrive r (fun m => m == .layout) (fun _ b =>
    match b.boot.master with
    | some m => ringSend r.inst m (.layoutAck r.inst) (takeLayout r.inst b)
    | none => b) b

/-- LAYOUT_ACK (R375) at the boot master. -/
def effLayoutAck (i : Nat) (data : List Bytes) (b : Block) : Block :=
  match b.boot.master with
  | none => b
  | some m =>
    ringArrive { inst := m, data := data } (fun x => x == .layoutAck i) (fun _ b =>
      if b.boot.step = 7 ∧ b.boot.absent.contains i = false then ringCheck (updBoot (fun x => { x with acks := x.acks ++ [i] }) b) else b) b

/-- The slices of an absent instance are out of service (R375). -/
def dropInst (i : Nat) (b : Block) : Block :=
  let b := updBoot (fun x => { x with absent := if x.absent.contains i then x.absent else x.absent ++ [i] }) b
  { b with mcs := Sparse.mapAll {} b.mcs (fun _ m => if m.present && m.inst == i then { m with state := .down } else m),
           lcs := Sparse.mapAll {} b.lcs (fun _ m => if m.present && m.inst == i then { m with state := .outOfService } else m) }

/-- LAYOUT_ACK_TIMEOUT (R375): absent; the remaining KEYLOADs go westward. -/
def effLayoutAckTimeout (i : Nat) (b : Block) : Block :=
  if b.boot.step = 7 && !b.boot.halted && (layInst b i).isSome && b.boot.master != some i && !b.boot.acks.contains i then
    ringCheck (updBoot (fun x => { x with west := true }) (dropInst i b))
  else b

/-! Basil (R376 to R379, Table 13.5). -/

/-- The units of a step of the self-test: bases, primary logic and ESBs, or the slices of a wave. -/
def bistUnits (b : Block) : List (Nat × Nat) :=
  match b.boot.layout with
  | none => []
  | some l =>
    let here := l.insts.filter (fun x => !b.boot.absent.contains x.num)
    if b.boot.preWave then here.flatMap (fun x => ([(x.num, 0)] ++ (if x.role = 1 ∨ x.role = 2 then [(x.num, 1)] else [])
        ++ (if 0 < x.nLcs then [(x.num, 2)] else [])))
    else here.flatMap (fun x =>
      ((List.range (x.nMcs + x.nLcs)).filter (fun k => x.waves.getD k 16 == b.boot.waves.headD 16)).map (fun k =>
        (x.num, if k < x.nMcs then 4 + k else 8 + (k - x.nMcs))))

/-- The slice that a unit number names: LCS or not, package number. -/
def bistSlice (b : Block) (i u : Nat) : Bool × Nat :=
  if 8 ≤ u then (true, (getInst b i).lcsBase + (u - 8)) else (false, (getInst b i).mcsBase + (u - 4))

/-- An MCS fails its self-test: its partner carries it; if both fail, both are down. -/
def mcsFailed (n : Nat) (b : Block) : Block :=
  let k := partner n
  if (getMcs b k).state = .carried ∨ (getMcs b k).state = .down then
    updMcs k (fun m => { m with state := .down }) (updMcs n (fun m => { m with state := .down }) b)
  else updMcs k (fun m => { m with state := .carrying }) (updMcs n (fun m => { m with state := .carried }) b)

/-- A unit has failed (Table 13.5). -/
def unitFailed (i u : Nat) (b : Block) : Block :=
  if u = 0 then (if b.boot.master = some i then safeState .outOfService b else dropInst i b)
  else if u = 1 then
    if b.boot.master = some i then safeState .outOfService b
    else updFo (fun f => { f with lost := true }) (updInst i (fun s => { s with role := .di, ao := { s.ao with armed := false } }) b)
  else if u = 2 then
    { b with lcs := Sparse.mapAll {} b.lcs (fun _ m => if m.present && m.inst == i then { m with state := .outOfService } else m) }
  else
    let (isLcs, n) := bistSlice b i u
    if isLcs then updLcs n (fun m => { m with state := .outOfService }) b else mcsFailed n b

/-- A unit's result (R378): up to two failing lanes of a slice are replaced by spares. -/
def unitResult (r : Nat × Nat × BitVec 24 × BitVec 64) (b : Block) : Block :=
  let (i, u, lanes, misr) := r
  let used := ((List.range 24).filter (fun k => lanes.getLsbD k)).length
  let ok := misrOk u misr && decide (used ≤ (if 4 ≤ u then 2 else 0))
  let wave := if b.boot.preWave then 0 else b.boot.waves.headD 0
  let b := setBst i u ok lanes misr b
  let b := updBoot (fun x => { x with bst := Sparse.upd {} x.bst (16 * i + u) (fun y => { y with wave := wave }) }) b
  if !ok then unitFailed i u b
  else if u < 4 then b
  else
    let (isLcs, n) := bistSlice b i u
    if isLcs then updLcs n (fun m => { m with spares := m.spares - used }) b else updMcs n (fun m => { m with spares := m.spares - used }) b

/-! Step 9: firmware (R382). -/

/-- Both signatures of a firmware image verify under the Ryudor firmware keys, over the SHA-384 of header and code. -/
def fwSigned (f : FwImg) : Bool :=
  let (body, sigs) := signedPart f.bytes
  ecVerify (Config.romKeys 0).1 (sha384 body) (sigs.take 96) && dsaVerify (Config.romKeys 0).2 (sigs.drop 96) (sha384 body)

/-- A firmware image verifies. -/
def fwVerifies (b : Block) (f : FwImg) : Bool :=
  fwSigned f && decide (arbCount b ≤ f.svn) && decide (f.svn ≤ 255) && f.major == 3 && decide (f.bytes.length ≤ 64 + 448 * 1024 + 4723)

def updAoFw (g : AoFw → AoFw) (b : Block) : Block := updBoot (fun x => { x with aoFw := g x.aoFw }) b

/-- Ask for the image of a slot. -/
def fwAsk (slot : Bool) (b : Block) : Block := bootAsk (if slot then 2 else 1) b

/-- The slot that is tried first. -/
def fwStart (b : Block) : Block :=
  let b := updBoot (fun x => { x with step := 9, fwTry := 0, other := none }) b
  let a := b.boot.aoFw
  if a.valid = false then fwAsk false b
  else if a.confirming then fwAsk (!a.slot) b
  else if a.pending && !a.tried then fwAsk (!a.slot) (updAoFw (fun a => { a with tried := true }) b)
  else fwAsk a.slot (updAoFw (fun a => { a with pending := false }) b)

/-- Step 9 follows the last wave. -/
def bistNext (b : Block) : Block :=
  if b.boot.halted then b
  else if b.boot.waves.isEmpty then fwStart b
  else b

/-- BIST_WAVE_END (R376): the results of the units tested; the next wave in ascending number. -/
def effBistWaveEnd (res : List (Nat × Nat × BitVec 24 × BitVec 64)) (b : Block) : Block :=
  if b.boot.step ≠ 8 ∨ b.boot.halted then b
  else
    let units := bistUnits b
    let b := (res.filter (fun r => units.contains (r.1, r.2.1))).foldl (fun b r => unitResult r b) b
    bistNext (updBoot (fun x => if x.preWave then { x with preWave := false } else { x with waves := x.waves.tail }) b)

/-! Steps 10 and 11: the Layout Image in force (R9, R10, R112, R250, R313, R360), the Sealed Store (R273). -/

/-- The package salts (R250). -/
def setSalts (l : LayoutImg) (b : Block) : Block :=
  let s := leNat (kdf (keyBytes (getKey b 0).key) "salt" (leBytes 16 l.seed.toNat))
  { b with rgn := { b.rgn with saltX := wordOf s 0, saltM := wordOf s 1 ||| 1, saltP := wordOf s 2 } }

/-- A base that Sage writes and locks; where the check refuses it, it is written and stays unlocked. -/
def lockOr (e : Except Status Block) (b : Block) : Block :=
  match e with
  | .ok x => x
  | .error _ => b

/-- Latches that keep the Sealed Store closed, in either armed die (R363, R400). -/
def anyLatch (b : Block) : Bool := allLatches b != 0

/-- Step 11: the Sealed Store is searched, unless debug is authorised, a tamper latch is set, the intent is EOL, or there is no
root. -/
def storeSearch (b : Block) : Block :=
  let b := updBoot (fun x => { x with step := 11 }) b
  if b.boot.debug || anyLatch b || b.otp.intent == .eol || b.otp.lc == .blank then b
  else storeDrive (.search 0) (flRead 0 256) (updStore (fun s => { s with got := [], cands := [] }) b)

/-- Step 10: the image is accepted and put in force; layer 2 is measured and its alias keys certified with the firmware alias (R276). -/
def layoutInForce (l : LayoutImg) (b : Block) : Block :=
  let hash := digestOf l.bytes
  let b := issueMgmt (issueLayer 2 hash (beginLayer 2 (nextCdi b 1 hash) b))
  let blank := b.otp.lc == .blank
  let b := if blank then b else setSalts l b
  let b := { b with rgn := { b.rgn with map := l.map, groups := l.groups }, fab := { b.fab with serving := l.serving },
                    inst := Sparse.mapAll {} b.inst (fun i s => if s.ringKey.isSome && !b.boot.absent.contains i then { s with loaded := true } else s) }
  let b := l.ways.foldl (fun b e => updMcs e.1 (fun m => if m.present then { m with ways := e.2 } else m) b) b
  let b := l.walk.foldl (fun b e => updMcs e.1 (fun m => if m.present then { m with walk := e.2 } else m) b) b
  let b := { b with mcs := Sparse.mapAll {} b.mcs (fun _ m => if m.present then { m with lock := true } else m) }
  let b := updDom (fun d => { d with pkg := l.pkg }) b
  let b := { b with cm := { b.cm with storeBase := l.ctxBase.toNat }, jnl := { b.jnl with base := l.jnlBase.toNat } }
  let b := if blank then b else lockOr (lockStore l.ctxBase.toNat b) b
  let b := if blank then b else lockOr (lockJournal l.jnlBase.toNat b) b
  storeSearch b

/-- Step 10. -/
def bootStep10 (b : Block) : Block :=
  let b := updBoot (fun x => { x with step := 10 }) b
  match b.boot.layout with
  | some l => if layoutAccepted b l then layoutInForce l b else safeState .badConfig b
  | none => safeState .badConfig b

/-- The chosen image runs: layer 1 is measured, its alias keys are certified with the DeviceID, and CDI_0 is out of reach (R276). -/
def fwAccept (slot : Bool) (f : FwImg) (b : Block) : Block :=
  let b := updBoot (fun x => { x with fw := some (slot, f), asked := none, sent := false, buf := [], other := none }) b
  let hash := digestOf f.bytes
  bootStep10 (issueLayer 1 hash (beginLayer 1 (nextCdi b 0 hash) b))

/-- With VALID = 0: of the slots that verify, the higher SVN, A on a tie, as a trial. -/
def fwChoose (fa fb : Option FwImg) (b : Block) : Block :=
  let trial := fun (slot : Bool) (f : FwImg) (b : Block) =>
    fwAccept slot f (updAoFw (fun a => { a with valid := true, slot := !slot, pending := true, tried := true }) b)
  match fa, fb with
  | some x, some y => if x.svn < y.svn then trial true y b else trial false x b
  | some x, none => trial false x b
  | none, some y => trial true y b
  | none, none => safeState .tagFail b

/-- An image delivered for a firmware slot; none where what came is not that slot's image. -/
def fwDelivered (slot : Bool) (f : Option FwImg) (b : Block) : Block :=
  let a := b.boot.aoFw
  let f := f.filter (fun f => fwVerifies b f && f.bytes == b.boot.buf)
  if a.valid = false then
    if slot then fwChoose b.boot.other f b else fwAsk true (updBoot (fun x => { x with other := f }) b)
  else
    let first := a.pending && a.tried && !a.confirming && slot != a.slot && b.boot.fwTry == 0
    match f with
    | some f =>
      if first && digestOf f.bytes != a.hash then fwAsk a.slot (updAoFw (fun a => { a with pending := false }) (updBoot (fun x => { x with fwTry := 1 }) b))
      else fwAccept slot f b
    | none =>
      if b.boot.fwTry = 0 then fwAsk (!slot) (updAoFw (fun a => { a with pending := false }) (updBoot (fun x => { x with fwTry := 1 }) b))
      else safeState .tagFail b

/-! BOOT_REQ, BOOT_DATA, BOOT_END. -/

/-- BOOT_REQ (R374): names the image wanted and raises INT[0]. -/
def effBootReq (b : Block) : Block :=
  match b.boot.asked, b.boot.master with
  | some _, some i => if b.boot.sent || b.boot.halted then b else raise i 0 (updBoot (fun x => { x with sent := true }) b)
  | _, _ => b

/-- BOOT_DATA (R374): bytes at rising offsets. -/
def effBootData (off : Nat) (data : Bytes) (b : Block) : Block :=
  if b.boot.sent && !b.boot.halted && off == b.boot.buf.length then updBoot (fun x => { x with buf := x.buf ++ data }) b else b

/-- Step 6: the image is checked, and kept as the layout in the buffer that step 10 reads (R371, R377, R381). -/
def layoutDelivered (l : LayoutImg) (b : Block) : Block :=
  let b := updBoot (fun x => { x with step := 6, asked := none, sent := false }) b
  if layoutGood b l then bootStep7 (updBoot (fun x => { x with layout := some l, buf := [] }) b)
  else safeState .badConfig b

/-- BOOT_END (R374, R381, R382). -/
def effBootEnd (img : BootImg) (b : Block) : Block :=
  if !b.boot.sent || b.boot.halted then b
  else
    match b.boot.asked, img with
    | some 0, .layout l => layoutDelivered l b
    | some 0, _ => safeState .badConfig (updBoot (fun x => { x with step := 6 }) b)
    | some k, .firmware slot f => fwDelivered (k == 2) (if slot == (k == 2) then some f else none) b
    | some k, _ => fwDelivered (k == 2) none b
    | none, _ => b

/-! Step 3 and 4, and the ends of fuse programming (R366 to R371). -/

/-- Step 4: a transition that was cut short is resumed before any root is derived. -/
def bootStep4 (b : Block) : Block :=
  if b.boot.halted then b else
  let b := updBoot (fun x => { x with step := 4 }) b
  if lcNum b.otp.lc < lcNum b.otp.intent then otpQueue (.advance true b.otp.intent 0) b else bootStep5 b

/-- The array has been sensed: life cycle and intent are decoded, debug is taken up for one boot (R366, R372); the banks are
cleaned up (R367). -/
def sensed (b : Block) : Block :=
  let (lc, intent) := (lcOf (decodedLc b), lcOf (decodedIntent b))
  let debug := b.boot.aoFw.dbgPend && lc == .prod
  let b := updOtp (fun o => { o with job := none, own := false, lc := lc, intent := intent }) b
  let b := updAoFw (fun a => { a with dbgPend := false }) (updBoot (fun x => { x with step := 3, debug := debug }) b)
  otpQueue .clean (updMint (fun m => { m with eolSeen := intent == .eol }) b)

/-- The words that a transition's own action programs: the serial, or fresh ROOTS (R367, R368). None: it cannot be done. -/
def actionWords (l : Lc) (serial : Word) (b : Block) : Option (List (Nat × Nat) × Block) :=
  match l with
  | .test =>
    if (doneBank b fSerial).isSome then some ([], b)
    else if serial = 0 then none
    else (emptyBank b fSerial).map (fun k => (bankWords fSerial k (words32 2 serial.toNat), b))
  | .prod =>
    if (doneBank b fRoots).isSome then some ([], b)
    else
      match emptyBank b fRoots with
      | some k =>
        let (n, b) := fresh b
        let (m, b) := fresh b
        some (bankWords fRoots k (words32 8 (Config.draw n).toNat ++ words32 8 (Config.draw m).toNat), b)
      | none => none
  | _ => some ([], b)

/-- A transition fails: the command ends, or the boot halts (R370). -/
def advanceFail (resumed : Bool) (st : Status) (b : Block) : Block :=
  let b := updOtp (fun o => { o with why := none, todo := [], job := none }) b
  if resumed then safeState .badConfig b else mbFinish 0x0140 0 st [] b

/-- The transition's actions (Table 13.3, R369): a field is written, or the Sealed Store's 130 sectors are erased. -/
def advanceAct (resumed : Bool) (l : Lc) (serial : Word) (b : Block) : Block :=
  let b := updOtp (fun o => { o with stage := 2 }) b
  match l with
  | .eol =>
    let b := if resumed then b else zeroize ((primaryInst b).getD 0) b
    storeDrive (.wipe 130) (flErase 0) (updStore (fun s => { s with pos := 0, sector := false, isOpen := false }) b)
  | _ =>
    match actionWords l serial b with
    | some (w, b) => updOtp (fun o => { o with todo := w }) b
    | none => advanceFail resumed .badConfig b

/-- The three life-cycle copies follow the actions. -/
def advanceCopies (l : Lc) (b : Block) : Block := updOtp (fun o => { o with stage := 3, todo := copyWords 0x000 l }) b

/-- The stage of a transition is done (R368, R370). -/
def advanceNext (resumed : Bool) (l : Lc) (serial : Word) (b : Block) : Block :=
  match b.otp.stage with
  | 0 =>
    let b := updOtp (fun o => { o with stage := 1, intent := lcOf (decodedIntent b) }) b
    let b := updMint (fun m => { m with eolSeen := m.eolSeen || b.otp.intent == .eol }) b
    if l = .eol ∧ resumed = false ∧ b.trust.dom.state = .admitted then startLeave b else b
  | 1 => if l = .eol ∧ resumed = false ∧ inDomain b = true then b else advanceAct resumed l serial b
  | 2 => if l = .eol then b else advanceCopies l b
  | _ =>
    let b := updOtp (fun o => { o with why := none }) b
    if resumed then bootStep5 (updOtp (fun o => { o with lc := lcOf (decodedLc b) }) b)
    else { mbFinish 0x0140 0 .ok [] b with trust := { (mbFinish 0x0140 0 .ok [] b).trust with lcyReset := true } }

/-- Confirmation ends (R383): SLOT names the trial slot, PENDING, TRIED and CONFIRMING fall. -/
def confirmed (b : Block) : Block :=
  let slot := match b.boot.fw with | some f => f.1 | none => b.boot.aoFw.slot
  updAoFw (fun a => { a with slot := slot, pending := false, tried := false, confirming := false }) b

/-- Every word of a purpose, or of a transition's stage, is programmed. -/
def otpDone (w : OtpWhy) (b : Block) : Block :=
  let done := updOtp (fun o => { o with why := none }) b
  match w with
  | .clean => bootStep4 done
  | .void _ => done
  | .advance resumed l serial => advanceNext resumed l serial b
  | .hash _ _ => mbFinish 0x0141 0 .ok [] done
  | .arb => confirmed done
  | .scan i => updUnits i (fun u => { u with scan := some .ok }) done

/-- A word fails (R61): a bank in writing is made VOID (R367). -/
def otpFail (b : Block) : Block :=
  let word := bankWord b.otp
  let failed := updOtp (fun o => { o with why := none, todo := [], job := none }) b
  match b.otp.why with
  | none => safeState .badConfig failed
  | some .clean => safeState .badConfig failed
  | some (.void _) => failed
  | some (.advance resumed l _) =>
    let b := advanceFail resumed .badConfig b
    if b.otp.stage = 2 ∧ (l = .test ∨ l = .prod) then otpQueue (.void word) b else b
  | some (.hash _ _) => otpQueue (.void word) (mbFinish 0x0141 0 .badConfig [] failed)
  | some .arb => failed
  | some (.scan i) => updUnits i (fun u => { u with scan := some .badConfig }) failed

/-- What the fuses do next: a word, the end of a stage or purpose, the next purpose, or OT_OWN falls (it stays high from step 2
until the array is sensed). -/
def otpTurn (b : Block) : Block :=
  if b.otp.job.isSome then b
  else if !b.otp.todo.isEmpty then otpKick b
  else
    match b.otp.why, b.otp.later with
    | some w, _ => otpDone w b
    | none, w :: t => otpBegin w (updOtp (fun o => { o with later := t }) b)
    | none, [] => if b.otp.own && decide (2 < b.boot.step) then updOtp (fun o => { o with own := false }) b else b

/-- Several turns: a purpose that programs nothing ends at once. -/
def otpTurns : Nat → Block → Block
  | 0, b => b
  | n + 1, b => otpTurns n (otpTurn b)

/-- OT_RSP (R61): a word sensed, programmed, or read back; a mismatch is programmed once more. -/
def effOtRsp (data : BitVec 32) (err : Bool) (b : Block) : Block :=
  if !otpActive b then secondSense err b
  else
    match b.otp.job with
    | none => b
    | some (.sense k) =>
      if err then otpFail b
      else if k < 511 then updOtp (fun o => { o with job := some (.sense (k + 1)) }) (setOtpWord k data b)
      else sensed (setOtpWord k data b)
    | some (.prog w v again false) => if err then otpFail b else updOtp (fun o => { o with job := some (.prog w v again true) }) b
    | some (.prog w v again true) =>
      if err then otpFail b
      else if data = otpExpect b w v then updOtp (fun o => { o with job := none }) (setOtpWord w data b)
      else if again then otpFail (setOtpWord w data b)
      else updOtp (fun o => { o with job := some (.prog w v true false) }) b

/-- OT_RSP_TIMEOUT (R61). -/
def effOtRspTimeout (b : Block) : Block :=
  if otpActive b then (if b.otp.job.isSome then otpFail b else b) else secondSense true b

/-! The Sealed Store on FL_ (R59, R272, R273, R369). -/

/-- The object store's own key leaves an index that the set wants. -/
def moveStoreKey (l : List (Nat × KEntry)) (b : Block) : Block :=
  let k := b.cm.storeKey
  if b.cm.storeLock && l.any (fun e => e.1 == k) then
    match lowestFrom (fun j => (getKey b j).state == .free && !l.any (fun e => e.1 == j)) 8176 16 with
    | some j =>
      let e := getKey b k
      let b := updKey j (fun _ => e) (updKey k (fun _ => {}) b)
      { b with cm := { b.cm with storeKey := j, storeRgn := { b.cm.storeRgn with key := j } } }
    | none => b
  else b

/-- The persistent entries at their former indices, with their former GEN and metadata (R273). -/
def rebuildKeys (l : List (Nat × KEntry)) (b : Block) : Block :=
  let b := moveStoreKey l b
  let b := l.foldl (fun b e => newRef tyKey e.1 (updKey e.1 (fun _ => { e.2 with pins := 0, children := 0 }) b)) b
  let b := l.foldl (fun b e => if e.2.parent = e.1 then b else updKey e.2.parent (fun p => { p with children := p.children + 1 }) b) b
  recomputeCv b

/-- Sage's records: the import generation, and index 4 derived under it (R244). -/
def takeRecords (recs : Bytes) (b : Block) : Block :=
  let g := BitVec.ofNat 32 (leNat (recs.take 4))
  let b := updMint (fun m => { m with importGen := g }) b
  let root := (getKey b 0).key
  updKey 4 (fun e => { e with key := kdfKey root "import-key" (3 :: leBytes 4 g.toNat) }) b

/-- The search ends (R273): with the set of a record and its image, or with none that verifies, the fixed entries only. -/
def storeOpened (text : Option Bytes) (b : Block) : Block :=
  let b := updStore (fun s => { s with phase := .idle, flReq := none, isOpen := true, failed := text.isNone, got := [], cands := [] }) b
  match text with
  | some t => takeRecords (setRecords t) (rebuildKeys ((setEntries t).filter (fun e => decide (16 ≤ e.1) && e.2.state != .free)) b)
  | none => updStore (fun s => { s with seq := 0 }) b

/-- Read the image of the next record, from an offset; with no record left, none verifies. -/
def storeFetch (at' : Nat) (b : Block) : Block :=
  match b.keys.store.cands with
  | [] => storeOpened none b
  | (_, r) :: _ => storeDrive (.fetch at') (flRead (slotBase (recSlot r) + at') (min 256 (recLen r - at'))) b

/-- The commit sectors have been read: the records that verify are tried, the highest SEQ first (R273). The next record goes to the
first erased position after the best one's. -/
def storeChoose (b : Block) : Block :=
  let got := b.keys.store.got
  let c := candidates (getKey b 1).key got
  let best := match c with | e :: _ => e.1 | [] => 0
  let sector := decide (64 ≤ best)
  storeFetch 0 (updStore (fun s => { s with cands := c, got := [], sector := sector,
                                            pos := erasedFrom got sector (if c.isEmpty then 0 else best % 64 + 1) }) b)

/-- The record being tried has its image: it verifies, and the set is taken, or the next record is tried. -/
def storeTry (b : Block) : Block :=
  let s := b.keys.store
  let key := (getKey b 1).key
  match s.cands with
  | [] => storeOpened none b
  | (_, r) :: t =>
    if imageGood key r s.got then
      storeOpened (some (imageText key r s.got)) (updStore (fun s => { s with slot := recSlot r, seq := BitVec.ofNat 64 (recSeq r) }) b)
    else storeFetch 0 (updStore (fun s => { s with cands := t, got := [] }) b)

/-- A read of the search is answered: what could not be read counts as zeros, which verify nowhere (log 110). -/
def searchStep (data : Bytes) (b : Block) : Block :=
  let s := b.keys.store
  match s.phase, s.flReq with
  | .search k, some c =>
    let b := updStore (fun s => { s with got := s.got ++ (data ++ List.replicate c.len 0).take c.len }) b
    if k < 31 then storeDrive (.search (k + 1)) (flRead (256 * (k + 1)) 256) b else storeChoose b
  | .fetch at', some c =>
    let b := updStore (fun s => { s with got := s.got ++ (data ++ List.replicate c.len 0).take c.len }) b
    if at' + c.len < recLen ((s.cands.headD (0, [])).2) ∧ at' + c.len < 0x40000 ∧ 0 < c.len then storeFetch (at' + c.len) b else storeTry b
  | _, _ => b

/-- An erase of the whole layout ends: done, or to be repeated at the next boot (R369). -/
def wipeEnd (ok : Bool) (b : Block) : Block :=
  let b := updStore (fun s => { s with phase := .idle, flReq := none }) b
  match b.otp.why with
  | some (.advance resumed l _) => if ok then advanceCopies l b else advanceFail resumed .timeout b
  | _ => b

/-- A flash command fails or is late (R59, R272): counted, and what needed it ends. -/
def flashFail (b : Block) : Block :=
  match b.keys.store.phase with
  | .search _ | .fetch _ => searchStep [] (count { inst := (primaryInst b).getD 0 } (evKey 4) b)
  | .wipe _ => wipeEnd false (count { inst := (primaryInst b).getD 0 } (evKey 4) b)
  | _ => storeFail .timeout b

/-- FL_RSP with what FL_RDATA gave (R58, R59, R272, R273, R369). -/
def effFlRsp (data : Bytes) (err : BitVec 2) (b : Block) : Block :=
  let s := b.keys.store
  if s.flReq.isNone then b
  else if err ≠ 0 then flashFail b
  else
    match s.phase with
    | .search _ | .fetch _ => searchStep data b
    | .wipe left => if 1 < left then storeDrive (.wipe (left - 1)) (flErase (4096 * (131 - left))) b else wipeEnd true b
    | _ => storeNext data b

/-- FLASH_TIMEOUT (R59). -/
def effFlashTimeout (b : Block) : Block := if b.keys.store.flReq.isNone then b else flashFail b

/-! Step 12 (R29, R346, R355, R374, R383). -/

/-- Bay's state from the AO copies: the boot master's, or the other armed die's where the master's island started cold. -/
def bayReload (b : Block) : Block :=
  let armed := b.inst.filter (fun e => e.2.ao.armed)
  let own := armed.find? (fun e => b.boot.master == some e.1)
  let src := match own with
    | some e => if e.2.ao.cold then (armed.find? (fun (x : Nat × Inst) => b.boot.master != some x.1 && !x.2.ao.cold)).getD e else e
    | none => (0, {})
  let a := src.2.ao
  let oos := armed.any (fun e => e.2.ao.oos)
  let b := { b with bay := { b.bay with escN := a.escN, escWin := a.escWin, crst := a.crst, state := if oos then 2 else 0 } }
  copyEsc (if oos then enterOos b.bay.cause b else b)

/-- Confirmation of a trial: CONFIRMING is set and ARB is raised (R383). -/
def confirmStart (b : Block) : Block :=
  let a := b.boot.aoFw
  match b.boot.fw with
  | some f => if (a.pending && a.tried || a.confirming) && f.1 != a.slot then otpQueue .arb (updAoFw (fun a => { a with confirming := true }) b) else b
  | none => b

/-- BOOT_RELEASE (R374 step 12). -/
def effBootRelease (b : Block) : Block :=
  match b.boot.master with
  | some i =>
    if b.boot.step = 11 ∧ b.boot.halted = false ∧ b.keys.store.phase = .idle then
      let b := { updBoot (fun x => { x with step := 12 }) b with
                 inst := Sparse.mapAll {} b.inst (fun _ s => if s.loaded then { s with released := true } else s) }
      let b := raise i 0 (bayReload b)
      let b := if (spInst b).isSome then updFo (fun f => { f with copying := true }) b else b
      confirmStart b
    else b
  | none => b

end Sys2Proof.Machine
end

