-- ==== Sys2Proof/Machine/LifeCycle.lean ====
section
/-! DEFINITION. Commands of the life cycle, debug and firmware (R368, R371, R372, R383), scan (R68), the DRBG's health (R269),
the Service Request Queue (R266). -/

namespace Sys2Proof.Machine

/-- A mailbox command refused for its requester (R311): counted, and answered. -/
def mbRefuse (m : MbReq) (code : Nat) (st : Status) (b : Block) : Block :=
  mbAnswer m code st [] (portError { inst := (primaryInst b).getD 0 } (0x20 + attrNum m.attr) b)

/-- A command under a code is in progress. -/
def mbBusy (code : Nat) (b : Block) : Bool := b.trust.jobs.any (fun j => j.code == code)

/-! Transitions and hashes. -/

/-- Table 13.3: the transition, its requester and what it needs. -/
def lcyPermits (b : Block) (l : Lc) (a : Attr) (serial : Word) : Bool :=
  match b.otp.lc, l with
  | .blank, .test => (a == .k || a == .d) && serial != 0
  | .test, .prod => (a == .k || a == .d) && (doneBank b fLkey).isSome
  | .test, .eol => a == .k || a == .d
  | .prod, .eol => a == .k
  | _, _ => false

/-- LCY_ADVANCE (R368): refused with LIFECYCLE where Table 13.3 does not permit it; one at a time. -/
def effLcyAdvance (m : MbReq) (target : BitVec 2) (serial : BitVec 64) (b : Block) : Block :=
  if m.attr = .m ∧ mailUp b = true ∧ b.boot.halted = false then mbRefuse m 0x0140 .lifecycle b
  else mbCommand m 0x0140 [.k, .d] (fun j b =>
    let l := lcOf target.toNat
    if !lcyPermits b l m.attr serial || b.trust.lcyReset || mbBusy 0x0140 b then mbEnd j .lifecycle [] b
    else otpQueue (.advance false l serial) (mbHold j b)) b

/-- OTP_FUSE_HASH (R371). -/
def effOtpFuseHash (m : MbReq) (layoutKey : Bool) (hash : Digest) (b : Block) : Block :=
  mbCommand m 0x0141 [.k, .d] (fun j b =>
    let f := if layoutKey then fLkey else fOpr
    if !(b.otp.lc == .test || (b.otp.lc == .prod && m.attr == .k)) then mbEnd j .lifecycle [] b
    else if (doneBank b f).isSome || (emptyBank b f).isNone || mbBusy 0x0141 b then mbEnd j .badConfig [] b
    else otpQueue (.hash layoutKey hash) (mbHold j b)) b

/-- LCY_ADVANCE_RESET (R368): the hard reset 10 ms after the completion; IDE streams are stopped first (R343). -/
def effLcyAdvanceReset (b : Block) : Block :=
  if b.trust.lcyReset then
    ideStopAll { b with trust := { b.trust with lcyReset := false }, bay := { b.bay with hardDue := true } }
  else b

/-! Debug authorisation (R372). -/

/-- DBG_CHALLENGE (R372): the newest nonce is kept. -/
def effDbgChallenge (m : MbReq) (b : Block) : Block :=
  mbCommand m 0x0150 [.k, .m] (fun j b =>
    if b.otp.lc ≠ .prod then mbEnd j .lifecycle [] b
    else if b.keys.mint.drbgOk = false then mbEnd j .outOfService [] b
    else
      let (n, b) := fresh b
      mbEnd j .ok (keyBytes (Config.draw n)) (updBoot (fun x => { x with nonce := some (Config.draw n) }) b)) b

/-- A debug token (R372): magic, the device's serial, the nonce in force, and both signatures over these under the Ryudor debug keys. -/
def tokenOk (b : Block) (token : Bytes) : Bool :=
  let body := token.take 44
  token.length == 4767 && b.boot.nonce.any (fun k => body == [0x5A, 0x5A, 0x33, 0x47] ++ serialBytes b ++ keyBytes k)
    && ecVerify (Config.romKeys 1).1 (sha384 body) ((token.drop 44).take 96) && dsaVerify (Config.romKeys 1).2 (token.drop 140) body

/-- DBG_AUTH (R372). -/
def effDbgAuth (m : MbReq) (token : Bytes) (b : Block) : Block :=
  mbCommand m 0x0151 [.k, .m] (fun j b =>
    if b.otp.lc ≠ .prod then mbEnd j .lifecycle [] b
    else
      let ok := tokenOk b token
      let b := updBoot (fun x => { x with nonce := none }) b
      if ok then mbEnd j .ok [] (updAoFw (fun a => { a with dbgPend := true }) b) else mbEnd j .tagFail [] b) b

/-! Firmware update (R382, R383). -/

/-- FW_STAGE (R383): a signature that fails answers TAG_FAIL, any other check of R382 BAD_CONFIG. -/
def effFwStage (m : MbReq) (img : FwImg) (b : Block) : Block :=
  mbCommand m 0x0160 [.k, .m] (fun j b =>
    if b.boot.aoFw.pending then mbEnd j .badConfig [] b
    else if fwSigned img = false then mbEnd j .tagFail [] b
    else if fwVerifies b img then
      mbEnd j .ok [] (updAoFw (fun a => { a with valid := true, staged := true, svn := img.svn, hash := digestOf img.bytes }) b)
    else mbEnd j .badConfig [] b) b

/-- FW_ACTIVATE (R383): one write to AO_FW, then a hard reset where RESET is set. -/
def effFwActivate (m : MbReq) (reset : Bool) (b : Block) : Block :=
  mbCommand m 0x0161 [.k, .m] (fun j b =>
    if b.boot.aoFw.staged then
      let b := mbEnd j .ok [] (updAoFw (fun a => { a with pending := true, tried := false, staged := false }) b)
      if reset then ideStopAll { b with bay := { b.bay with hardDue := true } } else b
    else mbEnd j .badConfig [] b) b

/-! Scan (R68, R362, R363). -/

/-- Segments of the test network (R68). -/
inductive Segment where
  | bist | perturbation | other
  deriving DecidableEq, Repr

/-- Which segments are open (R68): all in TEST and once scan is granted; the BIST status segment always, the perturbation segment
under debug authorisation. -/
def segOpen (b : Block) (i : Nat) : Segment → Bool
  | .bist => true
  | .perturbation => b.otp.lc == .test || b.boot.debug
  | .other => b.otp.lc == .test || (getUnits b i).scan == some .ok

/-- What a segment shifts out: nothing but zeros where it is closed. -/
def segShift (b : Block) (i : Nat) (g : Segment) (v : Word) : Word := if segOpen b i g then v else 0

/-- Scan requests whose log entries are not yet programmed. -/
def scanWaiting (b : Block) : Nat :=
  ((b.otp.why.toList ++ b.otp.later).filter (fun w => match w with | .scan _ => true | _ => false)).length

/-- SCAN_REQUEST (R68): open in TEST; elsewhere the block zeroizes, and scan is granted once the request stands in SCAN_LOG.
A full log refuses it with LIFECYCLE. -/
def effScanRequest (i : Nat) (b : Block) : Block :=
  let s := getInst b i
  let answer := fun (st : Status) (b : Block) => updUnits i (fun u => { u with scan := some st }) b
  if !s.built || b.boot.hard || decide (b.boot.step < 3) then b
  else if b.otp.lc = .test then answer .ok b
  else
    let b := if s.ao.armed then updAo i (fun a => { a with count := min 65535 (a.count + 1) }) b else b
    let b := if !s.released then safeState .tamper b
      else enterOos .tamper (zeroize i (count { inst := i } (evBay 4) (raise i 8 b)))
    if 64 ≤ scanCount b + scanWaiting b then answer .lifecycle (portError { inst := i } 9 b)
    else otpQueue (.scan i) (updUnits i (fun u => { u with scan := none }) b)

/-! The DRBG (R269, R357) and the Service Request Queue (R266). -/

/-- DRBG_HEALTH_FAILURE (R269): during boot the safe state; afterwards users of randomness end with OUT_OF_SERVICE, and the PP
relinquishes (R357). -/
def effDrbgHealthFailure (b : Block) : Block :=
  if b.boot.hard then b
  else
    let fail := updMint (fun m => { m with drbgOk := false })
    if b.boot.step < 12 then
      if 5 ≤ b.boot.step then safeState .outOfService (fail b) else fail b
    else
      let b := raisePrimary 15 (fail b)
      let old := primaryInst b
      let b := relinquish b
      if primaryInst b = old then b else updMint (fun m => { m with drbgOk := true }) b

/-- SERVICE_REQUEST_DESCRIPTOR (R266, R332): the oldest descriptor of the highest priority is served, its turn come at the SCU, and
its status written back. -/
def effServiceRequestDescriptor (b : Block) : Block :=
  match srqNext b.keys.srq with
  | some (d, rest) =>
    if (primaryInst b).isSome then
      arbStart 1 (scuHeads b) 400 (fun b =>
        let out := srqServe b d
        storeServed out (unpin d.key { b with keys := { b.keys with srq := rest, srqDone := [out] } })) b
    else b
  | none => b

end Sys2Proof.Machine
end

