-- ==== Sys2Proof/Machine/Resets.lean ====
section
/-! DEFINITION. Reset domains (R17, R29, R98, R343, R345, R363): block soft reset, block hard reset, AO power cycle, sleep. -/

namespace Sys2Proof.Machine

/-! Block soft reset. -/

/-- The slices of an instance. -/
def mcsOf (b : Block) (i : Nat) : List Nat := (b.mcs.filter (fun m => m.2.present && m.2.inst == i)).map (·.1)
def lcsOf (b : Block) (i : Nat) : List Nat := (b.lcs.filter (fun l => l.2.present && l.2.inst == i)).map (·.1)

/-- An invocation uses a Reduction Lane of an instance. -/
def invUses (b : Block) (i : Nat) (v : Inv) : Bool :=
  match planById b v.plan with
  | some p => p.steps.any (fun s => (getLcs b s.exec).inst == i)
  | none => false

/-- The soft reset of an instance begins (R98, R343): its ports take nothing more, its LT_ requests and invocations end with
ABORTED. -/
def softBegin (i : Nat) (b : Block) : Block :=
  let b := (mcsOf b i).foldl (fun b n => updPort n (fun p => { p with soft := true }) b) b
  let b := killInst i (fun _ => true) .aborted .aborted (killHeld i (fun _ => true) .aborted .aborted b)
  (b.red.invs.filter (invUses b i)).foldl (fun b v => endInv v.id .aborted b) b

/-- Once an MCS has completed its page re-encryption and its sweep step, its outstanding work ends with ABORTED and it writes
back (R98, R126). -/
def softPort (n : Nat) (b : Block) : Block :=
  if (getPort b n).pages.isEmpty then progress n (killMn n (fun _ => true) .aborted b) else b

/-- A port with nothing outstanding, nothing to answer and everything written back. -/
def softClean (b : Block) (n : Nat) : Bool :=
  let p := getPort b n
  portClean b n && p.rdata.isEmpty && p.wack.isEmpty && p.pnt.isEmpty

/-- Every slice of an instance may be reset. -/
def softReady (b : Block) (i : Nat) : Bool :=
  (mcsOf b i).all (softClean b) && (getFab b i).oc.isEmpty

/-- R29: an M-port keeps its MS_ credits and its record of what is outstanding on MS_, to be discarded. What its ports
last carried (the `last` fields, here and in the other slices) is a record and stays. -/
def softMport (p : MPort) : MPort :=
  { seq := p.seq, stamp := p.stamp, rdCrd := p.rdCrd, wrCrd := p.wrCrd, out := p.out.map (fun o => { o with drop := true }), drain := p.drain,
    lastMs := p.lastMs, lastRd := p.lastRd, lastWk := p.lastWk, lastPnt := p.lastPnt }

/-- R6, R112: the registers of an MCS; Sage writes the way assignment again. -/
def softMcs (b : Block) (n : Nat) (m : Mcs) : Mcs :=
  let ways := match b.boot.layout.bind (fun l => l.ways.find? (fun e => e.1 == n)) with
    | some e => e.2
    | none => List.replicate 16 (0, false)
  { m with dual := false, vbuAll := false, lock := true, ways := ways, walk := List.replicate 8 (4, 64), rate := 10 }

/-- R6: the registers of an LCS; what its RO fields show is kept. -/
def softLcs (l : Lcs) : Lcs :=
  { present := l.present, inst := l.inst, state := l.state, spares := l.spares, lastFault := l.lastFault, lastPair := l.lastPair,
    lastVc := l.lastVc, cov := l.cov, rlSts := l.rlSts }

/-- R29, R343: an LCS keeps its pairs; its Atomic Response Cache is lost, and LL_RETRAIN is asserted until LL_UP falls. -/
def softLport (t : BitVec 64) (p : LPort) : LPort :=
  { pairs := p.pairs, kBay := p.kBay, up := p.up, retrain := p.up, retrainAt := some t, crdHold := true, mode := p.mode, modeNext := p.modeNext, modeBad := p.modeBad,
    search := p.search, seq := p.seq, leftMask := some t, lastIr := p.lastIr }

/-- Seals and restores that use an MCS of the instance end with ABORTED (R338). -/
def softSeals (i : Nat) (b : Block) : Block :=
  let mine := fun (j : SealJob) => (imageMcs b (j.base / 128) j.lines).any (fun n => (mcsOf b i).contains n)
  b.cm.slots.foldl (fun b s =>
    let b := if s.2.wr.any mine then stopSeal s.1 false .aborted b else b
    if s.2.rd.any mine then stopSeal s.1 true .aborted b else b) b

/-- R6: registers in the primary's windows; CTX_STORE and JNL_BASE stay, as the store and the journal do. -/
def softPrimary (b : Block) : Block :=
  { b with
    rgn := { b.rgn with stage := 0 }
    fab := { b.fab with stage := 0, tbound := 16, retain := 32 }
    keys := { b.keys with
      mint := { b.keys.mint with arg := 0, budget := 0x0000FFFFFFFFFFFF, data := [], exported := [], sel := 0 }
      scu := Sparse.mapAll {} b.keys.scu (fun _ p => { p with arg := 0, win := [] }) }
    cm := { b.cm with fsel := 0, drr := [8, 4, 1], kport := { b.cm.kport with slot := 0 },
                      dumps := Sparse.mapAll {} b.cm.dumps (fun _ d => { state := d.state, status := d.status, out := d.out }) }
    trust := { b.trust with dom := { b.trust.dom with bindSel := 0 } }
    jnl := { b.jnl with sel := 0 }
    otp := { b.otp with sel := 0 } }

/-- R6: an instance's telemetry and perturbation registers; WRITTEN shows the records written, which are kept. -/
def softUnits (u : InstUnits) : InstUnits :=
  { u with tel := { u.tel with snapT := 0, trc := u.tel.trc.map (fun s => { written := s.written }) }, tst := { ftN := u.tst.ftN } }

/-- R6, R346: BAY_CTRL, whose escalation fields are kept. -/
def softBay (x : Bay) : Bay := { x with tagTh := 1, sorTh := 0, resTh := 0, winMs := 10 }

/-- The slices of an instance are reset (R29, R343), and with them the W1C and RW fields of its interrupt causes (R6). -/
def softReset (i : Nat) (b : Block) : Block :=
  let b := softSeals i (updInst i (fun s => { s with int := 0, intMask := 0 }) b)
  let ms := mcsOf b i
  let ls := lcsOf b i
  let t := b.time
  let b := ms.foldl (fun b n => updMcs n (softMcs b n) (updPort n softMport b)) b
  let b := ls.foldl (fun b n => updLcs n softLcs (updLport n (softLport t) b)) b
  let b := ls.foldl (fun b n => if (getLport b n).up then retrain n true b else b) b
  let b := updEsb i (fun e => { lfsr := e.lfsr }) (updFab i (fun f => { order := f.order, lastOc := f.lastOc }) b)
  let b := updUnits i softUnits { b with bay := softBay b.bay }
  if isPrimary b i then softPrimary ((dumpsLive b).foldl (fun b d => dumpStop d .aborted b) b) else b

/-- RST_SOFT (R65, R98, R343). -/
def effRstSoft (i : Nat) (b : Block) : Block :=
  if !(getInst b i).released || b.bay.softDue.contains (i, false) then b
  else softBegin i { b with bay := { b.bay with softDue := b.bay.softDue.filter (· != (i, true)) ++ [(i, false)] } }

/-- One soft reset goes on: ordered through BAY_CMD it begins once no Sealed Store update is in progress (R345); under way it
takes effect once R98 is done. -/
def softTurn (e : Nat × Bool) (b : Block) : Block :=
  let (i, waits) := e
  if waits then
    if b.keys.store.phase = .idle then
      softBegin i { b with bay := { b.bay with softDue := (b.bay.softDue.filter (· != (i, true))).filter (· != (i, false)) ++ [(i, false)] } }
    else b
  else
    let b := (mcsOf b i).foldl (fun b n => softPort n b) b
    if softReady b i then softReset i { b with bay := { b.bay with softDue := b.bay.softDue.filter (· != (i, false)) } } else b

/-- Soft resets under way go as far as they can. -/
def softTurns (b : Block) : Block :=
  let b := b.bay.softDue.foldl (fun b e => softTurn e b) b
  b.bay.softDue.foldl (fun b e => if e.2 then b else softTurn e b) b

/-! Block hard reset. -/

/-- Block hard reset (R343): how an instance was built, its AO island and the firmware slot state stay. What flash holds is outside the
block: the next boot reads it (R273). -/
def hardReset (b : Block) : Block :=
  { freeCtr := b.freeCtr
    inst := Sparse.mapAll {} b.inst (fun _ s => { built := s.built, nMcs := s.nMcs, nLcs := s.nLcs, primary := s.primary, ao := s.ao })
    boot := { hard := b.boot.hard, aoFw := b.boot.aoFw } }

/-- The boot begins (R17, R60, R374): RST_HARD_N is high, no die sleeps, and a primary-capable die has VAO. -/
def startBoot (b : Block) : Block :=
  if !b.boot.hard && b.boot.step == 0 && b.inst.all (fun e => !e.2.ao.asleep) && b.inst.any (fun e => e.2.built && e.2.primary && e.2.ao.good) then
    updOtp (fun o => { o with own := true }) (updBoot (fun x => { x with step := 2 }) b)
  else b

/-- RST_HARD_N_ASSERT and RST_HARD_N_RELEASE (R343, R345, R374). -/
def effRstHardNAssert (b : Block) : Block := updBoot (fun x => { x with hard := true }) (hardReset b)
def effRstHardNRelease (b : Block) : Block :=
  if b.boot.hard then startBoot (updBoot (fun x => { x with hard := false }) b) else b

/-- Host link keys have nothing more to drive. -/
def ideIdle (i : Ide) : Bool := i.wait.isEmpty && i.drive.isNone && i.ack.isNone

/-- A hard reset that the block starts (R343, R345): after the stops, and once no Sealed Store update is in progress. -/
def hardTurn (b : Block) : Block :=
  if b.bay.hardDue && b.keys.store.phase == .idle && ideIdle b.trust.ide then startBoot (hardReset b) else b

/-! The AO island (R17, R343, R363). -/

/-- AO_POWER_CYCLE (R343): the island starts cold; the die's core waits for VAO_GOOD. -/
def effAoPowerCycle (i : Nat) (b : Block) : Block :=
  if (getInst b i).built then
    let mine := (getInst b i).primary && (b.boot.master == none || b.boot.master == some i)
    let b := updAo i (fun _ => { cold := true }) (hardReset b)
    startBoot (if mine then updBoot (fun x => { x with aoFw := {} }) b else b)
  else b

/-- VAO_GOOD_ASSERT (R17). -/
def effVaoGoodAssert (i : Nat) (b : Block) : Block :=
  if (getInst b i).built then startBoot (updAo i (fun a => { a with good := true }) b) else b

/-- VDD_FAIL_SLEEP (R17): the island latches it; what VDD held is lost. -/
def effVddFailSleep (i : Nat) (b : Block) : Block :=
  let s := getInst b i
  if s.built && s.ao.good && !s.ao.asleep then updAo i (fun a => { a with asleep := true }) (hardReset b) else b

/-- WAKE_FROM_SLEEP (R363): a package whose island latched a tamper event in sleep wakes Out-of-Service. -/
def effWakeFromSleep (i : Nat) (b : Block) : Block :=
  if (getInst b i).ao.asleep then
    startBoot (updAo i (fun a => { a with asleep := false, oos := a.oos || (a.sleep && a.latch != 0) }) b)
  else b

end Sys2Proof.Machine
end

