-- ==== Sys2Proof/Machine/Telemetry.lean ====
section
/-! DEFINITION. Counters, snapshots, trace streams, tensor dumps and forced failures (R384 to R395). -/

namespace Sys2Proof.Machine

def updTel (i : Nat) (f : Tel → Tel) (b : Block) : Block := updUnits i (fun u => { u with tel := f u.tel }) b

/-! Counters (R384, R385). -/

/-- TEL_CFG after reset: UNIT selects every unit. -/
def telCfgReset : Word := 0x3C00

/-- Counters that an instance has: 256 in the PP and in an SP that has taken over. -/
def telCount' (b : Block) (i : Nat) : Nat := if (getInst b i).role = .pp ∨ isPrimary b i then 256 else 64

def telCfg (b : Block) (i k : Nat) : Word := Sparse.get telCfgReset (getUnits b i).tel.cfg k

/-- A configuration counts for one tag only. -/
def cfgTagged (w : Word) (t : Tag) : Bool := fieldBit w 14 && fieldNat w 21 16 == t.toNat

/-- R385: who writes a counter's configuration. -/
def telMayWrite (b : Block) (z : ZReq) (k : Nat) (w : Word) : Bool :=
  match z.attr with
  | .k => true
  | .t => (!fieldBit (telCfg b z.inst k) 9 || cfgTagged (telCfg b z.inst k) z.tag) && cfgTagged w z.tag
  | _ => false

/-- R385: who reads a counter. -/
def telMayRead (b : Block) (z : ZReq) (k : Nat) : Bool :=
  let c := telCfg b z.inst k
  match z.attr with
  | .k => true
  | .t => cfgTagged c z.tag
  | .m =>
    let e := fieldNat c 8 0
    (decide (0x40 ≤ e ∧ e < 0x80) || decide (0x120 ≤ e ∧ e < 0x140)) && !fieldBit c 14 && !fieldBit c 22 && !fieldBit c 23
  | .d => false

/-- TEL_CFG_WRITE (R385): a change clears the counter and its shadow. -/
def effTelCfgWrite (z : ZReq) (k : Nat) (w : Word) (b : Block) : Block :=
  zcpDo z true .tel (fun b =>
    let w := w &&& 0x00FFFFFFFFFF7FFF
    if telCount' b z.inst ≤ k then zcpRefuse z .badConfig b
    else if telMayWrite b z k w = false then zcpRefuse z .notOwner b
    else if telCfg b z.inst k = w then b
    else updTel z.inst (fun t => { t with cfg := Sparse.set telCfgReset t.cfg k w, cnt := Sparse.set 0 t.cnt k 0, shd := Sparse.set 0 t.shd k 0 }) b) b

/-- TEL_CNT_WRITE (R384): a write of 0 clears. -/
def effTelCntWrite (z : ZReq) (k : Nat) (w : Word) (b : Block) : Block :=
  zcpDo z true .tel (fun b =>
    if telCount' b z.inst ≤ k then zcpRefuse z .badConfig b
    else if z.attr ≠ .k then zcpRefuse z .notOwner b
    else if fieldNat w 47 0 = 0 then updTel z.inst (fun t => { t with cnt := Sparse.set 0 t.cnt k 0 }) b
    else b) b

/-! Snapshots (R387). -/

/-- Every count is copied at once; SEQ rises. -/
def snapLatch (i : Nat) (late : Bool) (b : Block) : Block :=
  raise i 11 (updTel i (fun t => { t with shd := t.cnt, seq := (t.seq + 1) % 2 ^ 32, pending := false, late := late }) b)

/-- An instance is armed at a time. -/
def snapArmAt (i : Nat) (t : BitVec 64) (b : Block) : Block := updTel i (fun x => { x with pending := true, armT := t }) b

/-- ARM_SNAPSHOT (R387): TEL_SNAP_CTL written with ARM. -/
def effArmSnapshot (z : ZReq) (w : Word) (b : Block) : Block :=
  zcpDo z true .tel (fun b =>
    let i := z.inst
    let t := (getUnits b i).tel
    if z.attr ≠ .k then zcpRefuse z .notOwner b
    else if fieldBit w 0 = false then b
    else if t.pending ∨ t.snapT.toNat < (thyme b i).toNat + 10000 then zcpRefuse z .badConfig b
    else
      let b := snapArmAt i t.snapT b
      if fieldBit w 1 && isPrimary b i then ringSendAll i (fun k s => s.released && k != i) (.snapArm t.snapT) b else b) b

/-- SNAPSHOT_LATCH (R387): Thyme has reached T. -/
def effSnapshotLatch (i : Nat) (b : Block) : Block :=
  let t := (getUnits b i).tel
  if t.pending ∧ t.armT.toNat ≤ (thyme b i).toNat then snapLatch i false b else b

/-- SNAPSHOT_ARM_ARRIVAL (R387): armed, or latched at once with LATE; an instance that is armed already stays as it is. -/
def effSnapshotArmArrival (r : RingIn) (b : Block) : Block :=
  ringArrive r (fun m => match m with | .snapArm _ => true | _ => false) (fun m b =>
    match m with
    | .snapArm t =>
      if (getUnits b r.inst).tel.pending then b
      else if t.toNat ≤ (thyme b r.inst).toNat then snapLatch r.inst true b
      else snapArmAt r.inst t b
    | _ => b) b

/-! Trace streams (R388 to R390). -/

/-- A stream writes its partly filled line. -/
def trcFlush (i s : Nat) (b : Block) : Block :=
  updTel i (fun t => { t with trc := listMod t.trc s (fun x => traceFlush (getRgn b x.region) x) }) b

/-- The checks of a trace stream's region (R388). -/
def trcChecks (b : Block) (z : ZReq) (k : Nat) : List Status :=
  let r := getRgn b k
  (if r.state = .active ∧ r.mode = .rw ∧ allServed b r = true then [] else [Status.badConfig])
    ++ (if z.attr = .t ∧ r.tag ≠ z.tag then [Status.notOwner] else [])

/-- A stream writes records of another tag's region: no tenant changes it (R2). -/
def trcOther (b : Block) (z : ZReq) (s : Nat) : Bool :=
  let x : Trc := (getUnits b z.inst).tel.trc.getD s {}
  x.en && (getRgn b x.region).tag != z.tag

/-- A stream takes a written configuration; a rising EN starts it empty (R388). -/
def trcSet (w : Word) (x : Trc) : Trc :=
  let y := if fieldBit w 0 && !x.en then { x with written := 0, next := 0, lost := 0, line := [] } else x
  { y with en := fieldBit w 0, wrap := fieldBit w 1, mask := BitVec.ofNat 8 (fieldNat w 15 8), region := fieldNat w 27 16 }

/-- TEL_TRC_WRITE (R388): a write that sets EN is checked against the region. -/
def effTelTrcWrite (z : ZReq) (s : Nat) (w : Word) (b : Block) : Block :=
  zcpDo z true .tel (fun b =>
    let bad := trcChecks b z (fieldNat w 27 16)
    if z.attr = .m then zcpRefuse z .notOwner b
    else if 4 ≤ s then zcpRefuse z .badConfig b
    else if z.attr = .t && trcOther b z s then zcpRefuse z .notOwner b
    else if fieldBit w 0 && !bad.isEmpty then zcpRefuse z (statusWorst bad) b
    else updTel z.inst (fun t => { t with trc := listMod t.trc s (trcSet w) }) (trcFlush z.inst s b)) b

/-- TRACE_LINE_FLUSH (R389). -/
def effTraceLineFlush (i s : Nat) (b : Block) : Block := if (getInst b i).released then trcFlush i s b else b

/-- A buffered line of stream `s` is written under its region's tag and context (R386, R388). -/
def traceWrite (i s : Nat) (e : Nat × Line) (b : Block) : Block :=
  let r := getRgn b ((getUnits b i).tel.trc.getD s {}).region
  let rq : MnReq := { addr := BitVec.ofNat 45 e.1, tag := r.tag, ctx := r.owner, layer := 0xFFFC, opid := BitVec.ofNat 16 s, id := 0 }
  let (st, b) := lineAccess rq true .ok b
  if statusFailing st then b
  else updTel i (fun t => { t with trc := listMod t.trc s (fun x => { x with lastLine := some (rq.addr, e.2) }) }) b

/-- A stream's buffered lines are written in order. -/
def streamDrain (i s : Nat) (b : Block) : Block :=
  let l := ((getUnits b i).tel.trc.getD s {}).buf
  l.foldl (fun b e => traceWrite i s e b) (updTel i (fun t => { t with trc := listMod t.trc s (fun x => { x with buf := [] }) }) b)

/-- Lines that wait in an instance's buffer are written while memory can be reached (R390). -/
def traceDrain (b : Block) : Block :=
  b.units.foldl (fun b u => if (getInst b u.1).freeze then b else (List.range 4).foldl (fun b s => streamDrain u.1 s b) b) b

/-! Tensor dumps (R391 to R393). -/

def getDump (b : Block) (d : Nat) : Dump := Sparse.get {} b.cm.dumps d
def updDump (d : Nat) (f : Dump → Dump) (b : Block) : Block := { b with cm := { b.cm with dumps := Sparse.upd {} b.cm.dumps d f } }

/-- A byte range lies in valid regions of a tag and context. -/
def rangeHeld (b : Block) (tag : Tag) (ctx : Ctx) (addr len : Nat) : Bool :=
  let first := addr / 2 ^ 21
  (List.range ((addr + len - 1) / 2 ^ 21 + 1 - first)).all (fun k =>
    b.rgn.table.any (fun e => e.2.state != .free && e.2.tag == tag && e.2.owner == ctx && decide (e.2.base ≤ first + k ∧ first + k < e.2.base + e.2.size)))

/-- Chunks of a dump, and the bytes of its output (R391). -/
def dumpChunks (x : Dump) : Nat := (x.len + 65535) / 65536
def dumpBytes (x : Dump) : Nat := 128 + x.len + 128 * dumpChunks x

/-- The checks of ARM (R391). -/
def dumpChecks (b : Block) (x : Dump) : List Status :=
  let e := getKey b x.key
  let ctx := getCtx b x.ctx.toNat
  let ctxOk := ctx.state != .free && ctx.tag == x.tag
  let keyOk := keyUsable e && e.usage.getLsbD 0 && !e.sys && e.owner == x.ctx
  let fenceOk := !handleStale b x.fence && (if handleRemote b x.fence then !b.fab.dead.contains (handlePkg x.fence)
    else fenceRight b { kernel := false, named := true, ctx := x.ctx, tag := x.tag } (getFence b (handleIdx x.fence)) false)
  (if x.len = 0 ∨ x.len % 128 ≠ 0 ∨ 2 ^ 30 < x.len ∨ x.src.toNat % 128 ≠ 0 ∨ x.dst.toNat % 128 ≠ 0 then [Status.badConfig] else [])
    ++ (if ctxOk && keyOk && fenceOk && rangeHeld b x.tag x.ctx x.src.toNat x.len && rangeHeld b x.tag x.ctx x.dst.toNat (dumpBytes x)
        then [] else [.notOwner])

/-- The right to write a dump's registers (R391): at the acting primary; T for its own tag, word 0 giving the tag. -/
def dumpDo (z : ZReq) (d : Nat) (first : Bool) (f : Block → Block) (b : Block) : Block :=
  zcpDo z true .tel (fun b =>
    let x := getDump b d
    let live := x.state == 1 || x.state == 2
    if !isPrimary b z.inst || decide (4 ≤ d) then zcpRefuse z .badConfig b
    else if z.attr = .m ∨ (z.attr = .t ∧ x.tag ≠ z.tag ∧ (live = true ∨ first = false)) then zcpRefuse z .notOwner b
    else f b) b

/-- The RW fields of word 0. -/
def dumpWord0 (z : ZReq) (w : Word) (x : Dump) : Dump :=
  { x with hold := fieldBit w 2, tag := if z.attr = .t then z.tag else BitVec.ofNat 6 (fieldNat w 21 16), ctx := BitVec.ofNat 16 (fieldNat w 47 32) }

/-- The RW fields of words 1 to 7. -/
def dumpWordN (k : Nat) (w : Word) (x : Dump) : Dump :=
  match k with
  | 1 => { x with src := w }
  | 2 => { x with len := fieldNat w 31 0 }
  | 3 => { x with dst := w }
  | 4 => { x with fence := w }
  | 5 => { x with value := w }
  | 6 => { x with key := fieldNat w 12 0 }
  | _ => { x with id := w }

/-- ARM_DUMP (R391): word 0 written with ARM; the dump refers to its key until it ends (R242). -/
def effArmDump (z : ZReq) (d : Nat) (w : Word) (b : Block) : Block :=
  dumpDo z d true (fun b =>
    if (getDump b d).state = 1 ∨ (getDump b d).state = 2 then zcpRefuse z .badConfig b
    else
      let b := updDump d (fun x => { dumpWord0 z w x with state := 0, status := .ok, out := [], sub := false }) b
      let bad := dumpChecks b (getDump b d)
      if bad.isEmpty then pin (getDump b d).key (updDump d (fun x => { x with state := 1 }) b) else zcpRefuse z (statusWorst bad) b) b

/-- CANCEL (R392): word 0 written with CANCEL; the dump's other fields stay. -/
def effCancel (z : ZReq) (d : Nat) (_w : Word) (b : Block) : Block :=
  dumpDo z d true (fun b =>
    if (getDump b d).state = 1 ∨ (getDump b d).state = 2 then dumpStop d .aborted b else b) b

/-- The header line (R393). -/
def dumpHeader (x : Dump) : Line :=
  lineOf ([0x5A, 0x5A, 0x33, 0x54, 1, 0, 0, 0] ++ leBytes 8 x.id.toNat ++ leBytes 8 x.src.toNat ++ leBytes 8 x.len ++ leBytes 8 x.seen.toNat
    ++ leBytes 8 x.start.toNat)

/-- DUMP_START (R392): the fence has reached VALUE. -/
def effDumpStart (d : Nat) (b : Block) : Block :=
  let x := getDump b d
  match fenceKnown b x.fence x.tag, primaryInst b with
  | some (v, _), some i =>
    if x.state = 1 ∧ x.value.toNat ≤ v.toNat then
      if keyUsable (getKey b x.key) then
        let x := { x with state := 2, seen := v, start := thyme b i, mat := kdfKey (getKey b x.key).key "debug-export" (leBytes 8 x.id.toNat) }
        updDump d (fun _ => { x with out := [dumpHeader x] }) b
      else dumpStop d .keyOrphaned b
    else b
  | _, _ => b

/-- The tag line's bytes 16 to 127 for a chunk: its number and its poison map. -/
def dumpTail (c : Nat) (lines : List (Line × Status)) : Bytes :=
  let bits := lines.map (fun l => statusFailing l.2)
  leBytes 4 c ++ List.replicate 44 0 ++ leBytes 64 (bits.foldr (fun p n => (if p then 1 else 0) + 2 * n) 0)

/-- The output of one chunk (R393): ciphertext, then the tag line. -/
def dumpChunk (x : Dump) (c : Nat) (lines : List (Line × Status)) : List Line :=
  let text := lines.flatMap (fun l => lineBytes (if statusFailing l.2 then 0 else l.1))
  let iv := leBytes 4 c ++ leBytes 8 x.id.toNat
  let ct := gcmCrypt (keyBytes x.mat) iv text
  let tail := dumpTail c lines
  (List.range lines.length).map (fun k => lineOf ((ct.drop (128 * k)).take 128))
    ++ [lineOf (gcmTag (keyBytes x.mat) iv (lineBytes (dumpHeader x) ++ tail) ct ++ tail)]

/-- The source lines of a dump are read as its context, each with the status the MCSs give it (R386, R392). -/
def dumpReads (d : Nat) (x : Dump) (lines : List (Line × Status)) (b : Block) : List (Line × Status) × Block :=
  lines.zipIdx.foldl (fun a l =>
    let rq : MnReq := { addr := BitVec.ofNat 45 (x.src.toNat / 128 + l.2), tag := x.tag, ctx := x.ctx, layer := 0xFFFC, opid := BitVec.ofNat 16 d, id := 0 }
    let r := lineAccess rq false l.1.2 a.2
    (a.1 ++ [(l.1.1, r.1)], r.2)) ([], b)

/-- The output lines of a dump are written from DST on, with the status the MCSs give each (R386, R391). -/
def dumpWrites (d : Nat) (x : Dump) (out : List Line) (b : Block) : List Status × Block :=
  (List.range out.length).foldl (fun a k =>
    let rq : MnReq := { addr := BitVec.ofNat 45 (x.dst.toNat / 128 + k), tag := x.tag, ctx := x.ctx, layer := 0xFFFC, opid := BitVec.ofNat 16 d, id := 0 }
    let r := lineAccess rq true .ok a.2
    (a.1 ++ [r.1], r.2)) ([], b)

/-- DUMP_END (R392, R393): every source line has been read, with its status; the output is written, its last tag line last. -/
def effDumpEnd (d : Nat) (lines : List (Line × Status)) (b : Block) : Block :=
  let x := getDump b d
  if x.state = 2 ∧ lines.length = x.len / 128 then
    let (lines, b) := dumpReads d x lines b
    let out := (List.range (dumpChunks x)).flatMap (fun c => dumpChunk x c ((lines.drop (512 * c)).take 512))
    let (puts, b) := dumpWrites d x (x.out ++ out) b
    let st := statusWorst ((lines.map (·.2) ++ puts).filter statusFailing)
    dumpStop d st (updDump d (fun x => { x with out := x.out ++ out }) b)
  else b

/-- What ends a dump, and its subscription to another package's fence (R329, R331, R392). -/
def dumpTurn (d : Nat) (b : Block) : Block :=
  let x := getDump b d
  let ctx := getCtx b x.ctx.toNat
  let ctxGone := ctx.state == .free || (getRef b tyCtx x.ctx.toNat).dying
  let remote := handleRemote b x.fence
  let has := (findMirror b x.fence x.tag).isSome
  let fenceGone := if remote then b.fab.dead.contains (handlePkg x.fence) || (x.sub && !has) else (liveIndex b tyFence x.fence).isNone
  if ctxGone || fenceGone || b.bay.state == 1 || (tagGate b x.tag).isSome then dumpStop d .aborted b
  else if remote && !x.sub then
    if has then updDump d (fun x => { x with sub := true }) b
    else if slotsUsed b < 4096 then subscribeTo x.fence x.tag (updDump d (fun x => { x with sub := true }) b)
    else b
  else b

/-- Every dump that is armed or runs. -/
def dumpTurns (b : Block) : Block := (dumpsLive b).foldl (fun b d => dumpTurn d b) b

/-! Perturbation (R394, R395). -/

/-- TST_FORCE_WRITE (R395): the residue of an MCS cannot be forced. -/
def effTstForceWrite (z : ZReq) (w : Word) (b : Block) : Block :=
  zcpDo z true .tst (fun b =>
    if fieldNat w 1 0 = 3 ∧ fieldBit w 8 = false then zcpRefuse z .badConfig b
    else updUnits z.inst (fun u => { u with tst := { u.tst with kind := fieldNat w 1 0, unit := fieldNat w 7 2, lcs := fieldBit w 8, count := fieldNat w 31 16 } }) b) b

/-- Fine trace records each step of Sage and the Mint (R394): what it records is open. -/
def fineTrace (b : Block) : Block :=
  if b.units.any (fun u => u.2.tst.ftEn) then
    let (n, b) := fresh b
    { b with units := Sparse.mapAll {} b.units (fun _ u => if u.tst.ftEn then { u with tst := { u.tst with ftN := some n } } else u) }
  else b

end Sys2Proof.Machine
end

