-- ==== Sys2Proof/Machine/Registers.lean ====
section
/-! DEFINITION. The register map of an instance (Table 1.10): every register as it reads (`zcpRead`), and REGISTER_WRITE, which
applies a write by field type (Table 0.4) or as the register's own command. -/

namespace Sys2Proof.Machine

/-- Index of an array element: its first offset, the distance of its elements and their number. -/
def slotAt (off base stride n : Nat) : Option Nat :=
  if base ≤ off ∧ off < base + stride * n ∧ (off - base) % stride = 0 then some ((off - base) / stride) else none

/-- The aligned offset in the 16 MiB window (Table 2.8). -/
def zcpOff (off : Nat) : Nat := off % 2 ^ 24 / 8 * 8

/-! Numbers that registers show. -/

def stNum (s : Status) : Word := putNat 0 (statusCode s)
def stAt (lo : Nat) (s : Status) : Word := putNat lo (statusCode s)

def roleNum : Role → Nat
  | .none => 0 | .pp => 1 | .sp => 2 | .di => 3

def spNum : SpState → Nat
  | .none => 0 | .standby => 1 | .fenced => 2 | .acting => 3

def mcsNum : McsState → Nat
  | .inService => 0 | .carrying => 1 | .carried => 2 | .down => 3

def lcsNum : LcsState → Nat
  | .inService => 0 | .retraining => 1 | .outOfService => 2

def domNum : DomState → Nat
  | .none => 0 | .joining => 1 | .admitted => 2 | .leaving => 3

def domRoleNum : DomRole → Nat
  | .member => 0 | .dka => 1 | .standby => 2 | .fenced => 3

def tinstNum : TState → Nat
  | .free => 0 | .config => 1 | .locked => 2 | .run => 3 | .error => 4 | .frozen => 5

/-- STATE of a queue: an OPEN queue of a context that does not run reads WAITING (R318). -/
def queueNum (b : Block) (q : Queue) : Nat :=
  match q.state with
  | .free => 0 | .open => if ctxRuns b q.ctx then 1 else 3 | .stopped => 2 | .dying => 4

/-- Word `k` of a line of registers held as one value. -/
def wordAt {n : Nat} (v : BitVec n) (k : Nat) : Word := wordOf v.toNat k

/-! Reads, by window. -/

/-- LCY_ID, LCY_ROLE and LCY_CAP (R23). -/
def readIdent (b : Block) (i off : Nat) : Word :=
  let s := getInst b i
  if off = 0x00 then 0x00030200
  else if off = 0x08 then
    joinFields [putNat 0 (if s.loaded then roleNum s.role else 0), putBit 2 s.primary, putBit 3 s.loaded, putNat 8 (if s.loaded then s.num else 0),
      putNat 16 (if s.role = .sp then spNum b.fo.sp else 0)]
  else if off = 0x10 then
    joinFields [putNat 0 s.nMcs, putNat 4 s.nLcs, putNat 8 (if s.loaded then s.mcsBase else 0), putNat 16 (if s.loaded then s.lcsBase else 0),
      putBit 24 (0 < s.nLcs), putBit 25 s.ao.armed]
  else 0

/-- A command unit's status register (R74, R161, R250). -/
def readSts (s : CmdSts) (op : Nat) : Word := joinFields [putBit 0 s.busy, stAt 8 s.status, putNat 16 s.index, putNat op s.lastOp]

/-- The Mint and KREG (R242, R250). -/
def readMint (b : Block) (off : Nat) : Word :=
  let m := b.keys.mint
  let e := getKey b m.sel
  if off = 0x20008 then m.arg else if off = 0x20010 then m.budget
  else if off = 0x20020 then readSts m.sts 32
  else if off = 0x20100 then putNat 0 m.sel
  else if off = 0x20108 then kregView0 e else if off = 0x20110 then kregView1 e else if off = 0x20118 then kregView2 e
  else if off = 0x20120 then
    let n := fun (p : KEntry → Bool) => (b.keys.kreg.filter (fun e => p e.2)).length
    joinFields [putNat 0 (8192 - n (fun e => e.state != .free)), putNat 16 (n (fun e => e.state == .invalid)), putNat 32 (persistCount b)]
  else if 0x20800 ≤ off ∧ off < 0x21000 then Sparse.get 0 m.data ((off - 0x20800) / 8)
  else 0

/-- An SCU page (R264). -/
def readScu (b : Block) (p off : Nat) : Word :=
  let s := getScu b p
  if off = 0x008 then s.arg
  else if off = 0x018 then
    joinFields [putBit 0 s.busy, putBit 1 s.wantIn, putBit 2 s.outAvail, stAt 8 s.status, putNat 16 s.outLen, putNat 32 s.newIdx]
  else if 0x800 ≤ off then Sparse.get 0 s.win ((off - 0x800) / 8) else 0

/-- The region table (R73, R74). -/
def readRgn (b : Block) (off : Nat) : Word :=
  if off < 0xC0000 then wordAt (rgnWord (getRgn b ((off - 0x80000) / 0x40))) ((off - 0x80000) / 8 % 8)
  else if off < 0xC0040 then wordAt b.rgn.stage ((off - 0xC0000) / 8)
  else if off = 0xC0048 then readSts b.rgn.sts 28 else 0

/-- A slice's M-port registers (R116, R126, R234). -/
def readMcs (b : Block) (n off : Nat) : Word :=
  let m := getMcs b n
  if off = 0x000 then joinFields [putBit 0 m.dual, putBit 1 m.vbuAll, putBit 4 m.lock]
  else if off = 0x008 then joinFields [putNat 0 (mcsNum m.state), putBit 2 m.busy, putNat 4 m.spares, stAt 8 m.lastSts]
  else if off = 0x010 then putNat 0 m.rate
  else if off = 0x018 then
    match m.sweeps.find? (fun s => !s.done && !s.stopped) with
    | some s => joinFields [putBit 0 true, putNat 4 s.region, putNat 16 s.ptr]
    | none =>
      match m.sweeps.getLast? with
      | some s => joinFields [putNat 4 s.region, putNat 16 s.ptr]
      | none => 0
  else
    match slotAt off 0x100 8 16, slotAt off 0x200 8 8, slotAt off 0x300 8 6 with
    | some w, _, _ => let e := m.ways.getD w (0, false); joinFields [putNat 0 e.1.toNat, putBit 6 e.2]
    | _, some c, _ => let e := m.walk.getD c (0, 0); joinFields [putNat 0 e.1, putNat 8 e.2]
    | _, _, some k => putNat 0 (m.cov.getD k 0)
    | _, _, _ => 0

/-- State of a Reduction Lane (RL_STS). -/
def laneState (b : Block) (n : Nat) : Nat :=
  if (getLcs b n).state = .outOfService then 3
  else if !(getLport b n).held.isEmpty then 2
  else if b.red.invs.any (fun v => match planById b v.plan with | some p => p.steps.any (fun s => s.exec == n) | none => false) then 1 else 0

/-- An LCS and its Reduction Lane (R157, R227, R234). -/
def readLcs (b : Block) (n off : Nat) : Word :=
  let l := getLcs b n
  if off = 0x000 then joinFields [putBit 0 l.dual, putBit 1 l.z2, putNat 8 l.retrainMs, putNat 16 l.holdoff]
  else if off = 0x008 then
    joinFields [putNat 0 (lcsNum l.state), putNat 4 l.spares, stAt 8 l.lastFault, putNat 16 l.lastPair, putNat 26 l.lastVc]
  else if off = 0x010 then joinFields [putNat 0 l.retryUs, putNat 8 l.attempts]
  else if off = 0x018 then putNat 0 l.thresh
  else if off = 0x100 then joinFields [putBit 0 l.rlEn, putNat 8 l.pfLines, putNat 16 l.holdUs]
  else if off = 0x108 then joinFields [putNat 0 (laneState b n), putNat 8 l.rlSts.1, putNat 16 l.rlSts.2.1, stAt 24 l.rlSts.2.2.1]
  else if off = 0x110 then l.rlSts.2.2.2
  else
    match slotAt off 0x40 8 8, slotAt off 0x200 8 6 with
    | some v, _ => putNat 0 (l.rxvc.getD v 0)
    | _, some k => putNat 0 (l.cov.getD k 0)
    | _, _ => 0

/-- The Egress Staging Buffer (R148 to R150, R156). -/
def readEsb (b : Block) (i off : Nat) : Word :=
  let e := getEsb b i
  if off = 0x00 then joinFields [putBit 0 e.ctEn, putBit 1 e.spillEn]
  else if off = 0x40 then putNat 0 e.msgMax
  else if off = 0x48 then putNat 0 e.spillRegion
  else if off = 0x50 then joinFields [putNat 0 (poolFree b i), putNat 16 e.spill.length]
  else
    match slotAt off 0x10 8 5, slotAt off 0x80 8 3, slotAt off 0x100 8 128 with
    | some c, _, _ =>
      let k := esbClass e c
      joinFields [putNat 0 k.vc, putBit 3 k.en, putNat 8 k.min, putNat 24 k.max, putNat 40 k.mark, putNat 56 k.weight]
    | _, some x, _ =>
      match e.wred[x]? with
      | some r => joinFields [putNat 0 r.minTh, putNat 16 r.maxTh, putNat 32 r.maxP, putNat 40 r.w]
      | none => 0
    | _, _, some t =>
      let m : Meter := Sparse.get {} e.meters (t / 2)
      if t % 2 = 0 then joinFields [putNat 0 m.cir, putNat 32 m.pir] else joinFields [putNat 0 m.cbs, putNat 32 m.pbs]
    | _, _, _ => 0

/-- STATE of a slot (R335): 0 empty, 1 resident, 2 sealing, 3 restoring. -/
def slotNum (s : Slot) : Nat :=
  if s.rd.isSome then 3 else if s.wr.isSome then 2 else if s.ctx.isSome then 1 else 0

/-- The fence that FNC_SEL names: STATE, RESIDENT, NOTIFY, STATUS, CTX, TAG and FAILS (R326). -/
def fenceView1 (b : Block) : Word :=
  let f := getFence b b.cm.fsel
  let res := !f.subs.isEmpty || b.cm.queues.any (fun q => waitsOn (handleOf b tyFence b.cm.fsel) none q.2)
  joinFields [putNat 0 (if !f.live then 0 else if f.dying then 2 else 1), putBit 2 res, putBit 3 f.notify, stAt 4 f.status, putNat 12 f.ctx.toNat,
    putNat 28 f.tag.toNat, putNat 34 f.fails]

/-- Contexts, queues and fences (R301, R313, R318, R325, R326, R333, R335). -/
def readCtx (b : Block) (off : Nat) : Word :=
  let k := b.cm.kport
  if off = 0x00000 then joinFields [putBit 0 b.cm.storeLock, putNat 8 b.cm.storeBase]
  else if 0x01000 ≤ off ∧ off < 0x01080 then wordAt k.slot ((off - 0x01000) / 8)
  else if off = 0x01088 then joinFields [putBit 0 k.busy, stAt 8 k.status, putNat 16 k.token.toNat]
  else if off = 0x01090 then k.result
  else if off = 0x40000 then putNat 0 b.cm.fsel
  else if off = 0x40008 then (getFence b b.cm.fsel).value
  else if off = 0x40010 then fenceView1 b
  else if 0x20000 ≤ off ∧ off < 0x22000 then
    let q := getQueue b ((off - 0x20000) / 0x20)
    match (off - 0x20000) % 0x20 with
    | 0x00 => joinFields [putNat 0 (queueNum b q), putNat 3 q.prio, putNat 5 q.log2, putNat 10 q.tag.toNat, putNat 16 q.ctx.toNat]
    | 0x08 => putNat 0 q.tail.toNat
    | 0x10 => joinFields [putNat 0 q.head.toNat, putNat 32 q.cdone.toNat]
    | _ => 0
  else
    match slotAt off 0x10000 8 64, slotAt off 0x30008 8 3, slotAt off 0xF0000 8 64 with
    | some s, _, _ =>
      let x := getSlot b s
      let c : Ctx := x.ctx.getD 0
      joinFields [putNat 0 (slotNum x), putNat 4 c.toNat, putNat 20 (if x.ctx.isSome then (getCtx b c.toNat).tag.toNat else 0)]
    | _, some p, _ => putNat 0 (b.cm.drr.getD p 0)
    | _, _, some t =>
      let x := getTInst b t
      joinFields [putNat 0 (tinstNum x.state), putBit 3 x.tdisp, putNat 4 x.pasid.toNat, putNat 24 x.stream.toNat, putNat 32 x.ifid.toNat]
    | _, _, _ => 0

/-- The window table (R159, R161, R178); elsewhere than in PP and SP no register is described. -/
def readWtu (b : Block) (i off : Nat) : Word :=
  if !isPrimary b i then 0
  else if off < 0x80000 then wordAt (winWord (getWin b (off / 0x20))) (off / 8 % 4)
  else if off < 0x80020 then wordAt b.fab.stage ((off - 0x80000) / 8)
  else if off = 0x80028 then
    joinFields [putBit 0 b.fab.sts.busy, stAt 8 b.fab.sts.status, putNat 16 b.fab.sts.index, putNat 30 b.fab.sts.lastOp]
  else if off = 0x80030 then joinFields [putNat 0 b.fab.tbound, putNat 16 b.fab.retain, putBit 24 b.fab.span]
  else 0

/-- Bay (R235, R346, R364). -/
def readBay (b : Block) (i off : Nat) : Word :=
  let y := b.bay
  if off = 0x00 then
    joinFields [putNat 0 y.tagTh, putNat 8 y.sorTh, putNat 16 y.resTh, putNat 24 y.winMs, putNat 32 y.escN, putNat 48 y.escWin]
  else if off = 0x08 then
    joinFields [putNat 0 y.state, putBit 2 (!y.quiesce.isEmpty), stAt 8 y.cause, putNat 16 y.origin.toNat, putNat 32 y.crst]
  else if off = 0x18 then putNat 0 (min (2 ^ 48 - 1) ((y.serr.map (fun e => e.2.1)).foldl (· + ·) 0))
  else if off = 0x108 then joinFields [putBit 0 (getUnits b i).olt.busy, stAt 8 (getUnits b i).olt.status]
  else
    match slotAt off 0x4000 8 64 with
    | some t => let e := Sparse.get (0, .ok) y.serr t; joinFields [putNat 0 e.1, stAt 48 e.2]
    | none => 0

/-- The bytes of a journal entry (Table 12.8). -/
def jentBytes (e : Jent) : Bytes :=
  leBytes 8 e.seq ++ leBytes 1 e.src ++ [if e.done then 2 else 1] ++ leBytes 1 (statusCode e.status) ++ leBytes 1 e.tag.toNat ++ leBytes 2 e.num
    ++ leBytes 2 e.op ++ leBytes 2 e.ctx.toNat ++ [0, 0] ++ leBytes 4 e.token.toNat ++ leBytes 4 e.head ++ [0, 0, 0, 0] ++ leBytes 8 e.result.toNat
    ++ leBytes 8 e.start.toNat ++ leBytes 8 e.fin.toNat ++ leBytes 8 0

/-- The Command Journal (R360): T sees its own tag's entries. -/
def readJnl (b : Block) (z : ZReq) (off : Nat) : Word :=
  let j := b.jnl
  if off = 0x00 then joinFields [putBit 0 j.lock, putNat 8 j.base]
  else if off = 0x08 then joinFields [putNat 0 (j.seq % 2 ^ 48), putNat 48 (min 65535 (j.ents.filter (fun e => !e.done)).length)]
  else if off = 0x10 then putNat 0 j.sel
  else
    match slotAt off 0x40 8 8, j.ents.find? (fun e => e.seq == j.sel) with
    | some w, some e =>
      if z.attr = .t ∧ e.tag ≠ z.tag then 0 else BitVec.ofNat 64 (leNat (((jentBytes e).drop (8 * w)).take 8))
    | _, _ => 0

/-- An OTP word as every requester reads it: ROOTS reads zero, its status words as their codes only (R365). -/
def otpShown (b : Block) (w : Nat) : Word :=
  if 0x020 ≤ w ∧ w < 0x040 then 0
  else if w = 0x00A ∨ w = 0x00B then
    match bankStatus b fRoots (w - 0x00A) with
    | 0 => 0 | 1 => 0xFF | 2 => 0xFFFF | _ => 0xFFFFFFFF
  else putNat 0 (otpWord b w).toNat

/-- Life cycle, OTP, domain and bindings (R286, R299, R383). -/
def readLcy (b : Block) (i off : Nat) : Word :=
  let d := b.trust.dom
  if off = 0x00000 then
    joinFields [putNat 0 (lcNum b.otp.lc), putNat 2 (lcNum b.otp.intent), putBit 4 b.boot.debug, putBit 5 b.boot.debug, putNat 8 (arbCount b),
      putNat 17 (scanCount b), putBit 24 (doneBank b fOpr).isSome, putBit 25 (doneBank b fLkey).isSome]
  else if off = 0x00008 then
    joinFields [putNat 0 b.boot.step, putBit 4 b.boot.halted, putBit 5 (b.boot.master == some i), stAt 8 b.boot.status,
      putBit 16 (b.boot.fw.any (fun f => f.1)), putNat 24 (match b.boot.fw with | some f => f.2.svn | none => 0)]
  else if off = 0x00100 then putNat 0 b.otp.sel
  else if off = 0x00108 then otpShown b b.otp.sel
  else if off = 0x40000 then
    joinFields [putNat 0 (domNum d.state), putNat 3 (domRoleNum d.role), putNat 8 (if d.role = .dka ∨ d.role = .standby then (members b).length else 0)]
  else if off = 0x40008 then if inDomain b then d.id else 0
  else if off = 0x40010 then putNat 0 d.bindSel
  else if off = 0x40018 then
    let e : Bind := Sparse.get {} d.binds d.bindSel
    let n := (b.lport.map (fun p => (p.2.pairs.filter (fun q => q.2.valid && q.2.peer == e.pkg)).length)).foldl (· + ·) 0
    if e.state = .free then 0
    else joinFields [putNat 0 (if e.state = .admitted then 1 else 2), putNat 2 e.pkg.toNat, putNat 16 n, putNat 32 (e.ident.toNat % 2 ^ 32)]
  else 0

/-- The AO island (R363, R383, R400). -/
def readAo (b : Block) (i off : Nat) : Word :=
  let a := (getInst b i).ao
  if off = 0x00 then
    joinFields [if a.armed then putNat 0 a.latch.toNat else 0, putBit 9 (a.armed && a.sleep && a.latch != 0), putBit 10 a.cold, putBit 11 a.armed,
      putBit 12 (a.armed && a.oos), putNat 16 (if a.armed then a.count else 0)]
  else if off = 0x08 then
    let f := b.boot.aoFw
    joinFields [putBit 0 f.valid, putBit 1 f.slot, putBit 2 f.staged, putBit 3 f.pending, putBit 4 f.tried, putBit 5 f.confirming, putBit 6 f.dbgPend,
      putNat 8 (f.svn % 256)]
  else 0

/-- Thyme (R299): an instance's time carries its test skew (R395). -/
def readThy (b : Block) (i off : Nat) : Word :=
  let d := b.trust.dom
  let pairs := b.lport.flatMap (fun e => (e.2.pairs.filter (fun q => q.2.valid)).map (fun q => q.2.keys.map (·.1)))
  if off = 0x00 then joinFields [putNat 0 d.epochN, putBit 5 (inDomain b)]
  else if off = 0x08 then thyme b i
  else if off = 0x10 then d.t0
  else if off = 0x18 then
    joinFields [putNat 0 (d.epoch % 2 ^ 24), putNat 24 (d.grant % 2 ^ 24), putBit 48 (pairs.any (fun l => l.any (fun e => decide (e < d.epoch)))),
      putBit 49 (!pairs.isEmpty && pairs.all (fun l => l.contains (d.epoch + 1))), putBit 50 (pairs.any (fun l => l.contains (d.epoch + 2)))]
  else 0

/-- TEL_DUMP as it reads (R393). -/
def dumpWords (x : Dump) (k : Nat) : Word :=
  match k with
  | 0 => joinFields [putBit 2 x.hold, putNat 4 x.state, stAt 8 x.status, putNat 16 x.tag.toNat, putNat 32 x.ctx.toNat]
  | 1 => x.src | 2 => putNat 0 x.len | 3 => x.dst | 4 => x.fence | 5 => x.value | 6 => putNat 0 x.key | _ => x.id

/-- Telemetry (R384 to R393); none where the requester may not read it (R385). T reads the streams of its own tag's regions (R2, R388). -/
def readTel (b : Block) (z : ZReq) (off : Nat) : Except Status Word :=
  let t := (getUnits b z.inst).tel
  let n := telCount' b z.inst
  let counter := fun (k : Nat) (v : Word) => if telMayRead b z k then Except.ok v else .error .notOwner
  if off = 0x3000 then .ok t.snapT
  else if off = 0x3008 then .ok (joinFields [putBit 2 t.pending, putBit 3 t.late, putNat 16 t.seq])
  else
    match slotAt off 0x0000 8 n, slotAt off 0x1000 8 n, slotAt off 0x2000 8 n with
    | some k, _, _ => if z.attr = .t then .error .notOwner else counter k (telCfg b z.inst k)
    | _, some k, _ => counter k (putNat 0 (Sparse.get 0 t.cnt k))
    | _, _, some k => counter k (putNat 0 (Sparse.get 0 t.shd k))
    | _, _, _ =>
      match slotAt off 0x4000 8 8, slotAt off 0x5000 8 32 with
      | some k, _ =>
        let s : Trc := t.trc.getD (k / 2) {}
        if z.attr = .m ∨ (z.attr = .t ∧ (getRgn b s.region).tag ≠ z.tag) then .error .notOwner
        else
          .ok (if k % 2 = 0 then joinFields [putBit 0 s.en, putBit 1 s.wrap, putNat 8 s.mask.toNat, putNat 16 s.region] else putNat 0 (s.written % 2 ^ 48))
      | _, some k =>
        let x := getDump b (k / 8)
        if !isPrimary b z.inst then .error .badConfig
        else if z.attr = .m ∨ (z.attr = .t ∧ x.tag ≠ z.tag) then .error .notOwner
        else .ok (dumpWords x (k % 8))
      | _, _ => .ok 0

/-- The fine-trace buffer and its PTR, open (R394, log 16). -/
def fineByte (t : Tst) (k : Nat) : Byte := match t.ftN with | some n => Config.freeByte n k | none => 0
def finePtr (t : Tst) : Nat := (fineByte t 65536).toNat + 256 * (fineByte t 65537).toNat

/-- Perturbation (R394, R395). -/
def readTst (b : Block) (i off : Nat) : Word :=
  let t := (getUnits b i).tst
  if off = 0x400 then joinFields [putNat 0 t.kind, putNat 2 t.unit, putBit 8 t.lcs, putNat 16 t.count]
  else if off = 0x408 then putNat 0 t.skew.toNat
  else if off = 0x410 then putNat 0 t.mint.toNat
  else if off = 0x418 then joinFields [putBit 0 t.ftEn, putNat 16 (if t.ftN.isSome then finePtr t else 0)]
  else if 0x10000 ≤ off ∧ off < 0x20000 then
    BitVec.ofNat 64 (leNat ((List.range 8).map (fun k => fineByte t (off - 0x10000 + k))))
  else
    match slotAt off 0x000 8 32, slotAt off 0x100 8 64 with
    | some n, _ => Sparse.get 0 t.mdelay n
    | _, some n => Sparse.get 0 t.lbp n
    | _, _ => 0

/-- Self-test results (R379, R383). -/
def readBst (b : Block) (i off : Nat) : Word :=
  match slotAt off 0x100 8 16, slotAt off 0x200 8 16 with
  | some u, _ =>
    let x := bstOf b i u
    joinFields [putNat 0 x.result, putNat 2 x.used, putNat 4 x.wave, putNat 8 x.lanes.toNat]
  | _, some u => (bstOf b i u).misr
  | _, _ => 0

/-- What a requester with the T attribute reads of the context window: the queues of its tag (Table 1.10). -/
def ctxReadable (b : Block) (z : ZReq) (off : Nat) : Bool :=
  z.attr != .t || (decide (0x20000 ≤ off ∧ off < 0x22000) && (getQueue b ((off - 0x20000) / 0x20)).tag == z.tag
    && (getQueue b ((off - 0x20000) / 0x20)).state != .free)

/-- M keeps to its own half of the Sage mailbox; K and D use both (log 114, DESIGN CHOICE: Table 1.10 says "own half" beside M only). -/
def mboxHalf (z : ZReq) (off : Nat) : Bool := !(z.attr == .m && decide (off < 0x18000))

/-- The value of a register that a requester may read. -/
def readWindow (b : Block) (z : ZReq) (off : Nat) : Except Status Word :=
  match windowOf off with
  | .ident => .ok (readIdent b z.inst off)
  | .mbox => if mboxHalf z off then .ok 0 else .error .notOwner
  | .mint => .ok (readMint b off)
  | .scu p => .ok (readScu b p (off % 0x1000))
  | .rgn => .ok (readRgn b off)
  | .mcs n => .ok (readMcs b n (off % 0x10000))
  | .lcs n => .ok (readLcs b n (off % 0x10000))
  | .esb => .ok (readEsb b z.inst (off - 0x700000))
  | .ctx => if ctxReadable b z (off - 0x800000) then .ok (readCtx b (off - 0x800000)) else .error .notOwner
  | .wtu => .ok (readWtu b z.inst (off - 0x900000))
  | .bay =>
    if z.attr = .m ∧ 0xA04000 ≤ off ∧ off < 0xA04200 then .error .notOwner else .ok (readBay b z.inst (off - 0xA00000))
  | .jnl => .ok (readJnl b z (off - 0xA80000))
  | .lcy => .ok (readLcy b z.inst (off - 0xB00000))
  | .ao => .ok (readAo b z.inst (off - 0xBC0000))
  | .thy => .ok (readThy b z.inst (off - 0xC00000))
  | .tel => readTel b z (off - 0xD00000)
  | .tst => .ok (readTst b z.inst (off - 0xE00000))
  | .bst => .ok (readBst b z.inst (off - 0xF00000))
  | .hole => .ok 0

/-- In the safe state, LCY_, BST_ and AO_ stay readable as R20 allows (R380); the boot master holds the primary's windows
before roles are given. -/
def safeReadable (b : Block) (z : ZReq) (w : Window) : Bool :=
  b.boot.halted && (getInst b z.inst).built && windowRight w false z.attr z.tag
    && (match w with
      | .lcy => b.boot.master == some z.inst
      | .ident | .bst | .ao => true
      | _ => false)

/-- A read on ZCP (R20 to R22, R51): status and data; a refused read returns zero. -/
def zcpRead (b : Block) (z : ZReq) (off : Nat) : Status × Word :=
  let off := zcpOff off
  let serve : Status × Word := match readWindow b z off with
    | .ok v => (.ok, v)
    | .error st => (st, 0)
  if (getInst b z.inst).released then
    match zcpRefusal b z false (windowOf off) with
    | some st => (st, 0)
    | none => serve
  else if safeReadable b z (windowOf off) then serve
  else (.ok, 0)

/-! Writes, by window. -/

/-- A command code without effect: nothing happens, but a write while BUSY = 1 is refused whatever it says (R21, R161). -/
def busyCmd (z : ZReq) (s : CmdSts) (b : Block) : Block := if s.busy then zcpRefuse z .badConfig b else b

/-- The Mint (R250). -/
def writeMint (z : ZReq) (off : Nat) (w : Word) (b : Block) : Block :=
  if off = 0x20000 then
    match fieldNat w 3 0 with
    | 1 => effDerive (.reg z w) [] .ok b
    | 2 => effGenerate (.reg z w) b
    | 3 => effImportKey (.reg z w) [] .ok b
    | 4 => effDecaps (.reg z w) [] .ok b
    | 5 => effInvalidate (.reg z w) b
    | 6 => effExportKey (.reg z w) b
    | _ => busyCmd z b.keys.mint.sts b
  else if off = 0x20008 then updMint (fun m => { m with arg := w &&& 0x0000FFFF03FFE0FF }) b
  else if off = 0x20010 then updMint (fun m => { m with budget := w &&& 0x0000FFFFFFFFFFFF }) b
  else if off = 0x20100 then updMint (fun m => { m with sel := fieldNat w 12 0 }) b
  else if 0x20800 ≤ off ∧ off < 0x21000 then
    let k := (off - 0x20800) / 8
    updMint (fun m => { m with data := Sparse.set 0 m.data k w, exported := m.exported.filter (· != k) }) b
  else b

/-- SCU_CMD of a page (R263, R264): ABORT before OP. -/
def writeScuCmd (z : ZReq) (w : Word) (b : Block) : Block :=
  if fieldBit w 48 then effScuAbort z b
  else
    match fieldNat w 7 0 with
    | 0x01 => effScuAes256Encrypt z w b
    | 0x02 => effScuAes256Decrypt z w b
    | 0x03 => effScuAes128Encrypt z w b
    | 0x04 => effScuAes128Decrypt z w b
    | 0x08 => effScuSha384 z w b
    | 0x09 => effScuKmac256 z w b
    | 0x10 => effScuMlkemKeygen z w b
    | 0x11 => effScuMlkemEncaps z w b
    | 0x12 => effScuMlkemDecaps z w b
    | 0x18 => effScuMldsaKeygen z w b
    | 0x19 => effScuMldsaSign z w b
    | 0x1A => effScuMldsaVerify z w b
    | 0x20 => effScuEcdsaKeygen z w b
    | 0x21 => effScuEcdsaSign z w b
    | 0x22 => effScuEcdsaVerify z w b
    | _ =>
      if (getScu b z.tag.toNat).busy then zcpRefuse z .badConfig b else scuEnd z.tag.toNat .badConfig b

/-- An SCU page (R264). -/
def writeScu (z : ZReq) (p off : Nat) (w : Word) (b : Block) : Block :=
  let z := { z with tag := BitVec.ofNat 6 p }
  if off = 0x000 then writeScuCmd z w b
  else if off = 0x008 then updScu p (fun s => { s with arg := w &&& 0x0000FFFFFFFFFFFF }) b
  else if off = 0x010 then if fieldBit w 12 then effScuXferOut z b else effScuXferIn z (BitVec.ofNat 12 (fieldNat w 11 0)) b
  else if 0x800 ≤ off then updScu p (fun s => { s with win := Sparse.set 0 s.win ((off - 0x800) / 8) w }) b
  else b

/-- The region table (R74). -/
def writeRgn (z : ZReq) (off : Nat) (w : Word) (b : Block) : Block :=
  if 0xC0000 ≤ off ∧ off < 0xC0040 then { b with rgn := { b.rgn with stage := setWord b.rgn.stage ((off - 0xC0000) / 8) w } }
  else if off = 0xC0040 then
    match fieldNat w 2 0 with
    | 1 => effCreate (.reg z w) b
    | 2 => effFinishLoad (.reg z w) b
    | 3 => effAdopt (.reg z w) b
    | 4 => effRetire (.reg z w) b
    | 5 => effRekey (.reg z w) b
    | 6 => effUpdate (.reg z w) b
    | _ => busyCmd z b.rgn.sts b
  else b

/-- MCS registers (R112, R116, R117, R126, R234). -/
def writeMcs (z : ZReq) (n off : Nat) (w : Word) (b : Block) : Block :=
  if off = 0x000 then effMcsDualWrite z false n w b
  else if off = 0x010 then updMcs n (fun m => { m with rate := min 10 (max 1 (fieldNat w 3 0)) }) b
  else
    match slotAt off 0x100 8 16, slotAt off 0x200 8 8, slotAt off 0x300 8 6 with
    | some k, _, _ =>
      if (getMcs b n).lock then b else updMcs n (fun m => { m with ways := m.ways.set k (BitVec.ofNat 6 (fieldNat w 5 0), fieldBit w 6) }) b
    | _, some c, _ => effMcsWalkWrite z n c w b
    | _, _, some k => effCoverageCounterWrite z false n k w b
    | _, _, _ => b

/-- LCS and Reduction Lane registers (R157, R227, R234). -/
def writeLcs (z : ZReq) (n off : Nat) (w : Word) (b : Block) : Block :=
  if off = 0x000 then effMcsDualWrite z true n w b
  else if off = 0x010 then updLcs n (fun l => { l with retryUs := max 1 (fieldNat w 7 0), attempts := max 1 (fieldNat w 11 8) }) b
  else if off = 0x018 then updLcs n (fun l => { l with thresh := fieldNat w 7 0 }) b
  else if off = 0x100 then effRlCtrlWrite z n w b
  else
    match slotAt off 0x40 8 8, slotAt off 0x200 8 6 with
    | some v, _ => effLcsRxvcWrite z n v w b
    | _, some k => effCoverageCounterWrite z true n k w b
    | _, _ => b

/-- ESB registers (R149, R150, R156). -/
def writeEsb (z : ZReq) (off : Nat) (w : Word) (b : Block) : Block :=
  if off = 0x00 then effEsbCtrlWrite z w b
  else if off = 0x40 then effEsbClassWrite z 6 w b
  else if off = 0x48 then updEsb z.inst (fun e => { e with spillRegion := fieldNat w 11 0 }) b
  else
    match slotAt off 0x10 8 5, slotAt off 0x80 8 3, slotAt off 0x100 8 128 with
    | some c, _, _ => effEsbClassWrite z c w b
    | _, some x, _ => effEsbWredWrite z x w b
    | _, _, some t => effEsbMeterWrite z (t / 2) (t % 2 == 1) w b
    | _, _, _ => b

/-- Context window (R313, R318, R325, R326, R333): T writes only the doorbells of its queues. -/
def writeCtx (z : ZReq) (off : Nat) (w : Word) (b : Block) : Block :=
  let k := b.cm.kport
  if 0x20000 ≤ off ∧ off < 0x22000 ∧ (off - 0x20000) % 0x20 = 0x08 then effCtxQtailWrite z ((off - 0x20000) / 0x20) w b
  else if z.attr ≠ .k then zcpRefuse z .notOwner b
  else if off = 0x00000 then effCtxStoreLock z w b
  else if 0x01000 ≤ off ∧ off < 0x01080 then
    { b with cm := { b.cm with kport := { k with slot := setWord k.slot ((off - 0x01000) / 8) w } } }
  else if off = 0x01080 then effKernelCommandGo z w b
  else if off = 0x40000 then { b with cm := { b.cm with fsel := fieldNat w 19 0 } }
  else
    match slotAt off 0x30008 8 3 with
    | some p => { b with cm := { b.cm with drr := b.cm.drr.set p (max 1 (fieldNat w 3 0)) } }
    | none => b

/-- Window table registers (R161, R178), where the instance holds them. -/
def writeWtu (z : ZReq) (off : Nat) (w : Word) (b : Block) : Block :=
  if !isPrimary b z.inst then b
  else if 0x80000 ≤ off ∧ off < 0x80020 then { b with fab := { b.fab with stage := setWord b.fab.stage ((off - 0x80000) / 8) w } }
  else if off = 0x80020 then
    match fieldNat w 1 0 with
    | 1 => effCreateWindow (.reg z w) b
    | 2 => effDelete (.reg z w) b
    | _ => busyCmd z b.fab.sts b
  else if off = 0x80030 then
    { b with fab := { b.fab with tbound := min 256 (max 4 (fieldNat w 8 0)), retain := max 20 (fieldNat w 23 16) } }
  else b

/-- Bay registers (R346, R364): every bit of BAY_CMD acts for itself; OOS_CLEAR needs a management session, which a plain
write does not name. -/
def writeBay (z : ZReq) (off : Nat) (w : Word) (b : Block) : Block :=
  if off = 0x00 then effBayCtrlWrite z w b
  else if off = 0x10 then
    let b := if fieldBit w 0 then effAbort z b else b
    let b := if fieldBit w 1 then effSoft z b else b
    let b := if fieldBit w 2 then effHard z b else b
    if fieldBit w 3 then effOosClear z (anyMgmt b) b else b
  else if off = 0x100 then
    match fieldNat w 1 0 with
    | 1 => effBayOltTakeOut z w b
    | 2 => effBayOltReturn z w b
    | _ => b
  else if z.attr = .m then zcpRefuse z .notOwner b else b

/-- Journal, life cycle and OTP selectors (R286, R360, R383). -/
def writeJnl (z : ZReq) (off : Nat) (w : Word) (b : Block) : Block :=
  if off = 0x00 then effJnlBaseLock z w b
  else if off = 0x10 then { b with jnl := { b.jnl with sel := fieldNat w 47 0 } } else b

def writeLcy (off : Nat) (w : Word) (b : Block) : Block :=
  if off = 0x00100 then updOtp (fun o => { o with sel := fieldNat w 8 0 }) b
  else if off = 0x40010 then updDom (fun d => { d with bindSel := fieldNat w 13 0 }) b
  else b

/-- Word 0 of a dump: CANCEL and ARM act, else its RW fields are written; the other words are written while it is idle or ended
(R393). -/
def writeDump (z : ZReq) (d k : Nat) (w : Word) (b : Block) : Block :=
  if k = 0 ∧ fieldBit w 1 = true then
    let b := effCancel z d w b
    if fieldBit w 0 then effArmDump z d w b else b
  else if k = 0 ∧ fieldBit w 0 = true then effArmDump z d w b
  else dumpDo z d (k == 0) (fun b =>
    if (getDump b d).state = 1 ∨ (getDump b d).state = 2 then zcpRefuse z .badConfig b
    else updDump d (fun x => if k = 0 then dumpWord0 z w x else dumpWordN k w x) b) b

/-- Telemetry registers (R384 to R393); M writes none (R385). -/
def writeTel (z : ZReq) (off : Nat) (w : Word) (b : Block) : Block :=
  let n := telCount' b z.inst
  if z.attr = .m then zcpRefuse z .notOwner b
  else if off = 0x3000 then
    if z.attr = .k then updTel z.inst (fun t => { t with snapT := w }) b else zcpRefuse z .notOwner b
  else if off = 0x3008 then effArmSnapshot z w b
  else
    match slotAt off 0x0000 8 n, slotAt off 0x1000 8 n, slotAt off 0x4000 0x10 4, slotAt off 0x5000 8 32 with
    | some k, _, _, _ => effTelCfgWrite z k w b
    | _, some k, _, _ => effTelCntWrite z k w b
    | _, _, some s, _ => effTelTrcWrite z s w b
    | _, _, _, some k => writeDump z (k / 8) (k % 8) w b
    | _, _, _, _ => b

/-- Perturbation registers (R394, R395). -/
def writeTst (z : ZReq) (off : Nat) (w : Word) (b : Block) : Block :=
  let upd := fun (f : Tst → Tst) => updUnits z.inst (fun u => { u with tst := f u.tst }) b
  if off = 0x400 then effTstForceWrite z w b
  else if off = 0x408 then upd (fun t => { t with skew := BitVec.ofNat 32 (fieldNat w 31 0) })
  else if off = 0x410 then upd (fun t => { t with mint := BitVec.ofNat 16 (fieldNat w 15 0) })
  else if off = 0x418 then upd (fun t => { t with ftEn := fieldBit w 0 })
  else
    match slotAt off 0x000 8 32, slotAt off 0x100 8 64 with
    | some n, _ => upd (fun t => { t with mdelay := Sparse.set 0 t.mdelay n (w &&& 0x3FFF) })
    | _, some n => upd (fun t => { t with lbp := Sparse.set 0 t.lbp n (joinFields [putNat 0 (min 100 (fieldNat w 6 0)), w &&& 0x180]) })
    | _, _ => b

/-- A write that a window serves. -/
def writeWindow (z : ZReq) (off : Nat) (w : Word) (b : Block) : Block :=
  match windowOf off with
  | .mbox => if mboxHalf z off then b else zcpRefuse z .notOwner b
  | .mint => writeMint z off w b
  | .scu p => writeScu z p (off % 0x1000) w b
  | .rgn => writeRgn z off w b
  | .mcs n => writeMcs z n (off % 0x10000) w b
  | .lcs n => writeLcs z n (off % 0x10000) w b
  | .esb => writeEsb z (off - 0x700000) w b
  | .ctx => writeCtx z (off - 0x800000) w b
  | .wtu => writeWtu z (off - 0x900000) w b
  | .bay => writeBay z (off - 0xA00000) w b
  | .jnl => writeJnl z (off - 0xA80000) w b
  | .lcy => writeLcy (off - 0xB00000) w b
  | .tel => writeTel z (off - 0xD00000) w b
  | .tst => writeTst z (off - 0xE00000) w b
  | .ident | .ao | .thy | .bst | .hole => b

/-- What a write does to the causes and the mask of the interrupt lines (R63): 1 clears a cause, the mask takes the written value. Where
their registers lie is open (log 112). -/
def intWrite (z : ZReq) (off : Nat) (w : Word) (b : Block) : Block :=
  let hit := fun (at' : Nat → Nat × Nat) (k : Nat) => (at' k).1 == off
  updInst z.inst (fun s =>
    { s with int := s.int &&& ~~~BitVec.ofNat 16 (joinFields ((List.range 16).map (fun k =>
                      putBit k (hit Config.intStatus k && w.getLsbD (Config.intStatus k).2)))).toNat
             intMask := BitVec.ofNat 16 (joinFields ((List.range 16).map (fun k =>
                      putBit k (if hit Config.intMask k then w.getLsbD (Config.intMask k).2 else s.intMask.getLsbD k)))).toNat }) b

/-- A read access (R21, R51): its answer on ZCP; a refused one returns zero and is counted. -/
def zcpReadAccess (z : ZReq) (off : Nat) (b : Block) : Block :=
  let (st, v) := zcpRead b z off
  if !(getInst b z.inst).released && !safeReadable b z (windowOf (zcpOff off)) then b
  else if st = .ok then updInst z.inst (fun s => { s with rsp := .ok, rspData := v }) b else zcpRefuse z st b

/-- REGISTER_WRITE (R6, R7, R20 to R22, R51): an access to any register, by offset, with ZCP_REQ_WR; a command register acts as its own
command does. -/
def effRegisterWrite (z : ZReq) (wr : Bool) (off : Nat) (w : Word) (b : Block) : Block :=
  if wr then zcpDo z true (windowOf (zcpOff off)) (fun b => intWrite z (zcpOff off) w (writeWindow z (zcpOff off) w b)) b
  else zcpReadAccess z off b

end Sys2Proof.Machine
end

