-- ==== Sys2Proof/Machine/Relay.lean ====
section
/-! DEFINITION. Messages that the relay delivers (R283): RELAY_IN brings a domain message to Sage, which acts on it as on the same message
from an UP pair. -/

namespace Sys2Proof.Machine

/-- A domain message takes effect. -/
def deliverMsg (x : DomMsg) (b : Block) : Block :=
  match x with
  | .join h => effJoin h b
  | .challenge h nonce => effChallengeDomain h nonce b
  | .evidence h e => effEvidence h e b
  | .admission h a => effAdmitMember h a b
  | .refuse h st => effRefuse h st b
  | .quarantine h p => effQuarantine h p b
  | .rebind h p i => effRebind h p i b
  | .release h p => effReleasePeer h p b
  | .leave h => effLeave h b
  | .bindQuery h p c a => effBindQuery h p c a b
  | .hello h ek l => effHello h ek l b
  | .helloAck h ct l => effHelloAck h ct l b
  | .helloFin h e => effHelloFin h e b
  | .heartbeat h => effHeartbeat h b
  | .takeover h => effTakeover h b
  | .takeoverAck h => effTakeoverAck h b
  | .oosNotice h => effOosNotice h b
  | .pkgLost h p => effPkgLost h p b
  | .epochGrant h m => effEpochGrant h m b
  | .restored h t => effRestored h t b
  | .commit h t g => effCommit h t g b
  | .change h c => effDomChange h c b
  | .copy h x => effDomCopy h x b

/-- RELAY_IN (R283): a domain message is delivered, with its checks. -/
def effRelayIn (m : MbReq) (x : DomMsg) (b : Block) : Block :=
  mbCommand m 0x0102 [.k] (fun j b => mbEnd j .ok [] (deliverMsg x b)) b

end Sys2Proof.Machine
end

