-- ==== Sys2Proof/Machine/Spill.lean ====
section
/-! DEFINITION. Spill mode of the Egress Staging Buffer (R156): the ring's lines are written and read through the MCSs of the instance,
as the region's owner, and a packet read back returns to its VOQ. -/

namespace Sys2Proof.Machine

/-- The request by which the buffer writes or reads a line of its ring: the region's owner and tag, the Layer ID of Table 14.2. -/
def spillReq (b : Block) (host : Nat) : MnReq :=
  match findRgn b host with
  | some (_, r) => ownReq r host
  | none => ownReq {} host

/-- The port that serves a line of the ring. -/
def spillPort (b : Block) (host : Nat) : Nat := ((mapLine b host).getD (0, 0)).1

/-- Whether a port takes an access of the buffer now, as it would one on MN_ (R118, R121, R257). -/
def spillTakes (b : Block) (n : Nat) (wr : Bool) : Bool :=
  let p := getPort b n
  (getMcs b n).state == .down
    || !(p.drain || p.soft || mnHeld b n wr || (if wr then decide (256 ≤ openHaz b n) else decide (64 ≤ p.pnt.length)))

/-- A line of the ring goes to its MCS; one that the MCS refuses is lost, and counted as a refused write. -/
def spillWrite (host : Nat) (w : MnWr) (b : Block) : Block :=
  let n := spillPort b host
  let rq := spillReq b host
  if (getMcs b n).state = .down then memFailure n rq .outOfService b
  else
    match judge b n rq (some w) with
    | .bad l _ => memFailures n rq l b
    | .ok k r => acceptWrite n rq w .none k r true b

/-- The lines that wait go to their MCSs in order, as far as these take them. -/
def spillPump (i : Nat) : List (Nat × MnWr) → Block → Block
  | [], b => b
  | (host, w) :: t, b =>
    if spillTakes b (spillPort b host) true then
      spillPump i t (spillWrite host w (updEsb i (fun e => { e with spillW := e.spillW.drop 1 }) b))
    else b

/-- Every instance's waiting lines. -/
def spillTurns (b : Block) : Block := b.esb.foldl (fun b e => spillPump e.1 (getEsb b e.1).spillW b) b

/-- Read a slot's line: where the read goes and its sequence number; none where the MCS refuses it, and the line is lost. -/
def spillRead (host : Nat) (b : Block) : Option (Nat × Nat) × Block :=
  let n := spillPort b host
  let rq := spillReq b host
  if (getMcs b n).state = .down then (none, memFailure n rq .outOfService b)
  else
    match judge b n rq none with
    | .bad l _ => (none, memFailures n rq l b)
    | .ok k r => (some (n, (getPort b n).seq), acceptRead n rq k r true b)

/-- Change the head of the ring. -/
def updSpill (i : Nat) (f : Spilled → Spilled) (b : Block) : Block :=
  updEsb i (fun e => { e with spill := e.spill.modify 0 f }) b

/-- The head slot is read back, once its lines have gone to their MCSs and every one of these takes the read. -/
def spillAsk (i : Nat) (s : Spilled) (b : Block) : Block :=
  let hosts := (List.range (s.nl + 1)).map (fun j => s.slot + j)
  if hosts.all (fun h => spillTakes b (spillPort b h) false && !(getEsb b i).spillW.any (fun w => w.1 == h)) then
    let (l, b) := hosts.zipIdx.foldl (fun a h =>
      match spillRead h.1 a.2 with
      | (some x, b) => (a.1 ++ [(h.2, x.1, x.2)], b)
      | (none, b) => (a.1, b)) (([] : List (Nat × Nat × Nat)), b)
    updSpill i (fun s => { s with asked := some l }) b
  else b

/-- The read of a slot's line that its MCS still holds. -/
def spillRd (b : Block) (a : Nat × Nat × Nat) : Option Rd := (getPort b a.2.1).reads.find? (fun r => r.seq == a.2.2)

/-- What a slot's line read gave; a line that no read answers, or whose read failed, is lost. -/
def spillGot (b : Block) (asked : List (Nat × Nat × Nat)) (j : Nat) : Option RdOut :=
  ((asked.find? (fun a => a.1 == j)).bind (fun a => (spillRd b a).bind (·.ready))).filter (fun o => !o.poison)

/-- The packet of a slot read back: a lost line is carried poisoned (Table 8.2). -/
def spillPkt (b : Block) (asked : List (Nat × Nat × Nat)) (nl : Nat) (hd : Line) : Pkt :=
  let q := (rxHeader (lineBytes hd)).pkt
  let got := (List.range nl).map (fun j => spillGot b asked (j + 1))
  let lost := (got.zipIdx.map (fun e => if e.1.isNone then 2 ^ e.2 else 0)).foldl (· + ·) 0
  { q with poison := q.poison ||| BitVec.ofNat 4 lost,
           lines := got.map (fun o => match o with
             | some o => (o.data, o.sorrel)
             | none => ((0 : Line), sorrelOf 0)) }

/-- The head packet, read back, enters its VOQ, behind requests to its destination that a path change holds (R174); each lost line counts. A
slot whose first line is lost tells no packet: it is discarded with its count (log 119). A packet of a pair that went DOWN is discarded (R143). -/
def spillTake (i : Nat) (s : Spilled) (asked : List (Nat × Nat × Nat)) (sh : Bool) (b : Block) : Block :=
  let who : Who := { inst := i, tag := some (s.tag) }
  let b' := dropReads s (updEsb i (fun e => { e with spill := e.spill.drop 1 }) b)
  match spillGot b asked 0 with
  | none => count who (evEsb 12) b'
  | some o =>
    let q := spillPkt b asked s.nl o.data
    let lost := ((List.range s.nl).filter (fun j => (spillGot b asked (j + 1)).isNone)).length
    let b' := (List.range lost).foldl (fun b _ => count who (evEsb 13) b) b'
    let st : Staged := { lcs := s.lcs, pkt := q, shared := sh, entry := none, tag := s.tag,
                         held := (getEsb b i).staged.any (fun x => x.held && x.pkt.dst == q.dst) }
    if pairGone b s.lcs q.dst q.dstLcs then dropDown st b' else enqueue i st sh b'

/-- SPILL_RETURN (R156, Table 8.2): the head slot is read back, verified before use, once its VOQ has room for it, and returns to the VOQ when
every line has come. -/
def effSpillReturn (i : Nat) (b : Block) : Block :=
  match (getEsb b i).spill with
  | [] => b
  | s :: _ =>
    match admission b i s.lcs clsMsg (pktFlits s.nl) false with
    | none => b
    | some sh =>
      match s.asked with
      | none => spillAsk i s b
      | some l => if l.all (fun a => (spillRd b a).all (fun r => r.ready.isSome)) then spillTake i s l sh b else b

end Sys2Proof.Machine
end

