-- ==== Sys2Proof/Machine/Settle.lean ====
section
/-! DEFINITION. What follows a command by itself (log 17): work that waits for the state the command left. -/

namespace Sys2Proof.Machine

/-- A Bay abort that is due starts (R347, R351). -/
def abortDue (b : Block) : Block :=
  match b.bay.due with
  | some (cause, origin) => startAbort cause origin b
  | none => b

/-- The fuses have nothing to do by themselves. -/
def otpCalm (b : Block) : Bool :=
  let o := b.otp
  o.job.isSome || (o.todo.isEmpty && o.why.isNone && o.later.isEmpty && (!o.own || decide (b.boot.step ≤ 2)))

/-- An instance's trace and fine trace have nothing to do by themselves. -/
def unitsCalm (u : InstUnits) : Bool := !u.tst.ftEn && u.tel.trc.all (fun s => s.buf.isEmpty)

/-- Nothing waits: no abort, reset, cascade, seal to open, leave, destroyed tenant, freeze, quiesce, fuse, spilled line, held plan
packet, dump or trace line. -/
def calm (b : Block) : Bool :=
  b.bay.due.isNone && b.bay.softDue.isEmpty && !b.bay.hardDue && b.bay.quiesce.isEmpty && b.cm.ended.isEmpty
    && b.cm.slots.all (fun s => s.2.wr.isNone) && (dumpsLive b).isEmpty && b.trust.dom.state != .leaving
    && b.trust.tinst.all (fun t => !t.2.dying) && b.trust.migs.all (fun g => !g.source || g.frozen)
    && otpCalm b && b.esb.all (fun e => e.2.spillW.isEmpty) && b.lport.all (fun e => e.2.held.isEmpty) && b.units.all (fun u => unitsCalm u.2)

/-- Plan packets behind one that an ended invocation gave up go on (R225). -/
def heldTurns (b : Block) : Block := b.lport.foldl (fun b e => drainHeld e.1 (getLport b e.1).held.length b) b

/-- Work of the parts that waits: cascades, seals, leaves, tenants, freezes, quiesces, fuses, dumps and traces. -/
def settleWork (b : Block) : Block :=
  let b := b.cm.ended.foldl (fun b c => ctxAdvance c b) b
  let b := b.cm.slots.foldl (fun b s => openSeal s.1 b) b
  let b := spillTurns (heldTurns b)
  let b := quiesceDone (freezesDone (reapTenants (leaveDone b)))
  let b := dumpTurns (otpTurns 8 b)
  fineTrace (traceDrain b)

/-- Everything that waits goes as far as it can; resets come last, and no abort is left due. -/
def settleAll (b : Block) : Block := abortDue (hardTurn (softTurns (abortDue (settleWork (abortDue b)))))

/-- The block after a command, once what waits has gone on. -/
def settle (b : Block) : Block := if calm b then b else settleAll b

/-- A command's effect on the block, and what follows it; the queue's rest stays. -/
def run (f : Block → Block) (s : State) : Host.Outcome State Fault Refusal := .next { s with b := settle (f s.b) }

end Sys2Proof.Machine
end

