-- ==== Sys2Proof/Machine/Exec.lean ====
section
/-! DEFINITION. The meaning of every command: its effect on the block (its family's file), then what follows by itself. -/

namespace Sys2Proof.Machine

/-- RST_HARD_N_ASSERT (R343). -/
def execRstHardNAssert (s : State) : Host.Outcome State Fault Refusal :=
  run effRstHardNAssert s
/-- RST_HARD_N_RELEASE (R374). -/
def execRstHardNRelease (s : State) : Host.Outcome State Fault Refusal :=
  run effRstHardNRelease s
/-- RST_SOFT (R343). -/
def execRstSoft (inst : Nat) (s : State) : Host.Outcome State Fault Refusal :=
  run (effRstSoft inst) s
/-- COMPUTE_RST_IND_RISE (R344). -/
def execComputeRstIndRise (inst : Nat) (s : State) : Host.Outcome State Fault Refusal :=
  run (effComputeRstIndRise inst) s
/-- COMPUTE_RST_IND_FALL (R344). -/
def execComputeRstIndFall (inst : Nat) (s : State) : Host.Outcome State Fault Refusal :=
  run (effComputeRstIndFall inst) s
/-- AO_POWER_CYCLE (R343). -/
def execAoPowerCycle (inst : Nat) (s : State) : Host.Outcome State Fault Refusal :=
  run (effAoPowerCycle inst) s
/-- VAO_GOOD_ASSERT (R17). -/
def execVaoGoodAssert (inst : Nat) (s : State) : Host.Outcome State Fault Refusal :=
  run (effVaoGoodAssert inst) s
/-- VDD_FAIL_SLEEP (R17). -/
def execVddFailSleep (inst : Nat) (s : State) : Host.Outcome State Fault Refusal :=
  run (effVddFailSleep inst) s
/-- MN_READ_REQUEST (R108). -/
def execMnReadRequest (n : Nat) (rq : MnReq) (hw : HwFault) (s : State) : Host.Outcome State Fault Refusal :=
  run (effMnReadRequest n rq hw) s
/-- MN_WRITE_REQUEST (R118). -/
def execMnWriteRequest (n : Nat) (rq : MnReq) (w : MnWr) (hw : HwFault) (s : State) : Host.Outcome State Fault Refusal :=
  run (effMnWriteRequest n rq w hw) s
/-- PAGE_REENCRYPTION_END (R91). -/
def execPageReencryptionEnd (n : Nat) (s : State) : Host.Outcome State Fault Refusal :=
  run (effPageReencryptionEnd n) s
/-- HAZARD_ENTRY_COMMIT (R118). -/
def execHazardEntryCommit (n : Nat) (seq : Nat) (s : State) : Host.Outcome State Fault Refusal :=
  run (effHazardEntryCommit n seq) s
/-- MS_READ_ISSUE (R36). -/
def execMsReadIssue (n : Nat) (what : MsWhat) (s : State) : Host.Outcome State Fault Refusal :=
  run (effMsReadIssue n what) s
/-- MS_WRITE_ISSUE (R36). -/
def execMsWriteIssue (n : Nat) (what : MsWhat) (s : State) : Host.Outcome State Fault Refusal :=
  run (effMsWriteIssue n what) s
/-- MS_RDATA_RETURN (R86). -/
def execMsRdataReturn (n : Nat) (id : BitVec 10) (data : Line) (sb : Sideband) (poison : Bool) (hw : HwFault) (s : State) : Host.Outcome State Fault Refusal :=
  run (effMsRdataReturn n id data sb poison hw) s
/-- MS_WACK_RETURN (R118). -/
def execMsWackReturn (n : Nat) (id : BitVec 10) (s : State) : Host.Outcome State Fault Refusal :=
  run (effMsWackReturn n id) s
/-- MS_CREDIT_RETURN (R36). -/
def execMsCreditReturn (n : Nat) (rd wr : BitVec 4) (s : State) : Host.Outcome State Fault Refusal :=
  run (effMsCreditReturn n rd wr) s
/-- DEFERRED_VERIFY_END (R109). -/
def execDeferredVerifyEnd (n : Nat) (id : BitVec 10) (hw : HwFault) (s : State) : Host.Outcome State Fault Refusal :=
  run (effDeferredVerifyEnd n id hw) s
/-- MN_RDATA_TRANSFER (R34). -/
def execMnRdataTransfer (n : Nat) (s : State) : Host.Outcome State Fault Refusal :=
  run (effMnRdataTransfer n) s
/-- MN_PNT_TRANSFER (R34). -/
def execMnPntTransfer (n : Nat) (s : State) : Host.Outcome State Fault Refusal :=
  run (effMnPntTransfer n) s
/-- WALK_FETCH_START (R116). -/
def execWalkFetchStart (n : Nat) (cls : Nat) (s : State) : Host.Outcome State Fault Refusal :=
  run (effWalkFetchStart n cls) s
/-- METADATA_EVICTION (R115). -/
def execMetadataEviction (n : Nat) (i : Item) (hw : HwFault) (s : State) : Host.Outcome State Fault Refusal :=
  run (effMetadataEviction n i hw) s
/-- KEY_WAIT_RELEASE (R257). -/
def execKeyWaitRelease (n : Nat) (s : State) : Host.Outcome State Fault Refusal :=
  run (effKeyWaitRelease n) s
/-- PAIR_TAKEOVER (R121). -/
def execPairTakeover (z : ZReq) (k : Nat) (s : State) : Host.Outcome State Fault Refusal :=
  run (effPairTakeover z k) s
/-- PAIR_TAKEOVER_DONE (R121). -/
def execPairTakeoverDone (k : Nat) (s : State) : Host.Outcome State Fault Refusal :=
  run (effPairTakeoverDone k) s
/-- PAIR_HANDBACK (R122). -/
def execPairHandback (z : ZReq) (k : Nat) (s : State) : Host.Outcome State Fault Refusal :=
  run (effPairHandback z k) s
/-- MCS_FAULT_TAKEOVER (R123). -/
def execMcsFaultTakeover (n : Nat) (sramOk : Bool) (s : State) : Host.Outcome State Fault Refusal :=
  run (effMcsFaultTakeover n sramOk) s
/-- CHIVE_LANE_FAILURE (R12). -/
def execChiveLaneFailure (isLcs : Bool) (n : Nat) (lane : Nat) (s : State) : Host.Outcome State Fault Refusal :=
  run (effChiveLaneFailure isLcs n lane) s
/-- MCS_DUAL_WRITE (R236). -/
def execMcsDualWrite (z : ZReq) (isLcs : Bool) (n : Nat) (w : Word) (s : State) : Host.Outcome State Fault Refusal :=
  run (effMcsDualWrite z isLcs n w) s
/-- MCS_WALK_WRITE (R117). -/
def execMcsWalkWrite (z : ZReq) (n : Nat) (c : Nat) (w : Word) (s : State) : Host.Outcome State Fault Refusal :=
  run (effMcsWalkWrite z n c w) s
/-- CREATE (R75). -/
def execCreate (src : Src) (s : State) : Host.Outcome State Fault Refusal :=
  run (effCreate src) s
/-- FINISH_LOAD (R101). -/
def execFinishLoad (src : Src) (s : State) : Host.Outcome State Fault Refusal :=
  run (effFinishLoad src) s
/-- ADOPT (R103). -/
def execAdopt (src : Src) (s : State) : Host.Outcome State Fault Refusal :=
  run (effAdopt src) s
/-- RETIRE (R77). -/
def execRetire (src : Src) (s : State) : Host.Outcome State Fault Refusal :=
  run (effRetire src) s
/-- RETIRE_COMPLETE (R77). -/
def execRetireComplete (index : Nat) (s : State) : Host.Outcome State Fault Refusal :=
  run (effRetireComplete index) s
/-- REKEY (R124). -/
def execRekey (src : Src) (s : State) : Host.Outcome State Fault Refusal :=
  run (effRekey src) s
/-- UPDATE (R74). -/
def execUpdate (src : Src) (s : State) : Host.Outcome State Fault Refusal :=
  run (effUpdate src) s
/-- REKEY_SWEEP_STEP (R126). -/
def execRekeySweepStep (n : Nat) (s : State) : Host.Outcome State Fault Refusal :=
  run (effRekeySweepStep n) s
/-- REKEY_SWEEP_END (R124). -/
def execRekeySweepEnd (index : Nat) (s : State) : Host.Outcome State Fault Refusal :=
  run (effRekeySweepEnd index) s
/-- CHECK_SWEEP_END (R102). -/
def execCheckSweepEnd (index : Nat) (ans : List MemAns) (s : State) : Host.Outcome State Fault Refusal :=
  run (effCheckSweepEnd index ans) s
/-- LT_OR_REQUEST (R165). -/
def execLtOrRequest (inst port : Nat) (xfers : List LtOr) (s : State) : Host.Outcome State Fault Refusal :=
  if 1 ≤ xfers.length ∧ xfers.length ≤ 4 then run (effLtOrRequest inst port xfers) s else .fault .illFormed
/-- TLB_MISS_FILL (R164). -/
def execTlbMissFill (inst port : Nat) (s : State) : Host.Outcome State Fault Refusal :=
  run (effTlbMissFill inst port) s
/-- LT_IC_COMPLETION (R40). -/
def execLtIcCompletion (n : Nat) (c : LtIc) (hw : HwFault) (s : State) : Host.Outcome State Fault Refusal :=
  run (effLtIcCompletion n c hw) s
/-- LT_OC_TRANSFER (R170). -/
def execLtOcTransfer (inst port : Nat) (s : State) : Host.Outcome State Fault Refusal :=
  run (effLtOcTransfer inst port) s
/-- EGRESS_SELECT (R152). -/
def execEgressSelect (n : Nat) (hw : HwFault) (s : State) : Host.Outcome State Fault Refusal :=
  run (effEgressSelect n hw) s
/-- LL_TX_CREDIT_RETURN (R43). -/
def execLlTxCreditReturn (n : Nat) (crd : BitVec 16) (s : State) : Host.Outcome State Fault Refusal :=
  run (effLlTxCreditReturn n crd) s
/-- LL_RX_PACKET (R137). -/
def execLlRxPacket (n : Nat) (l : List LlBeat) (hw : HwFault) (s : State) : Host.Outcome State Fault Refusal :=
  run (effLlRxPacket n l hw) s
/-- LL_UP_RISE (R43). -/
def execLlUpRise (n : Nat) (s : State) : Host.Outcome State Fault Refusal :=
  run (effLlUpRise n) s
/-- LL_UP_FALL (R43). -/
def execLlUpFall (n : Nat) (cut : Bool) (s : State) : Host.Outcome State Fault Refusal :=
  run (effLlUpFall n cut) s
/-- LL_RX_MODE_CHANGE (R144). -/
def execLlRxModeChange (n : Nat) (mode : Bool) (s : State) : Host.Outcome State Fault Refusal :=
  run (effLlRxModeChange n mode) s
/-- RETRAIN_LIMIT_EXPIRY (R46). -/
def execRetrainLimitExpiry (n : Nat) (s : State) : Host.Outcome State Fault Refusal :=
  run (effRetrainLimitExpiry n) s
/-- RESYNC_REQ (R142). -/
def execResyncReq (n : Nat) (l : List LlBeat) (s : State) : Host.Outcome State Fault Refusal :=
  run (effResyncReq n l) s
/-- RESYNC_ACK (R142). -/
def execResyncAck (n : Nat) (l : List LlBeat) (s : State) : Host.Outcome State Fault Refusal :=
  run (effResyncAck n l) s
/-- RESYNC_RETRY_TIMER (R143). -/
def execResyncRetryTimer (n : Nat) (pair : Nat) (s : State) : Host.Outcome State Fault Refusal :=
  run (effResyncRetryTimer n pair) s
/-- ESB_ADMISSION (R148). -/
def execEsbAdmission (inst : Nat) (port : Nat) (s : State) : Host.Outcome State Fault Refusal :=
  run (effEsbAdmission inst port) s
/-- SPILL_RETURN (R156). -/
def execSpillReturn (inst : Nat) (s : State) : Host.Outcome State Fault Refusal :=
  run (effSpillReturn inst) s
/-- ESB_CTRL_WRITE (R156). -/
def execEsbCtrlWrite (z : ZReq) (w : Word) (s : State) : Host.Outcome State Fault Refusal :=
  run (effEsbCtrlWrite z w) s
/-- ESB_CLASS_WRITE (R149). -/
def execEsbClassWrite (z : ZReq) (c : Nat) (w : Word) (s : State) : Host.Outcome State Fault Refusal :=
  run (effEsbClassWrite z c w) s
/-- ESB_WRED_WRITE (R150). -/
def execEsbWredWrite (z : ZReq) (x : Nat) (w : Word) (s : State) : Host.Outcome State Fault Refusal :=
  run (effEsbWredWrite z x w) s
/-- ESB_METER_WRITE (R150). -/
def execEsbMeterWrite (z : ZReq) (t : Nat) (hi : Bool) (w : Word) (s : State) : Host.Outcome State Fault Refusal :=
  run (effEsbMeterWrite z t hi w) s
/-- LCS_RXVC_WRITE (R157). -/
def execLcsRxvcWrite (z : ZReq) (n v : Nat) (w : Word) (s : State) : Host.Outcome State Fault Refusal :=
  run (effLcsRxvcWrite z n v w) s
/-- CREATE_WINDOW (R162). -/
def execCreateWindow (src : Src) (s : State) : Host.Outcome State Fault Refusal :=
  run (effCreateWindow src) s
/-- DELETE (R163). -/
def execDelete (src : Src) (s : State) : Host.Outcome State Fault Refusal :=
  run (effDelete src) s
/-- DELETE_COMPLETE (R163). -/
def execDeleteComplete (index : Nat) (s : State) : Host.Outcome State Fault Refusal :=
  run (effDeleteComplete index) s
/-- HOME_MASK_PUBLISH (R172). -/
def execHomeMaskPublish (s : State) : Host.Outcome State Fault Refusal :=
  run effHomeMaskPublish s
/-- HOME_MASK_RECEIVE (R172). -/
def execHomeMaskReceive (peer : Pkg) (mask : BitVec 64) (s : State) : Host.Outcome State Fault Refusal :=
  run (effHomeMaskReceive peer mask) s
/-- PATH_CHANGE_RELEASE (R174). -/
def execPathChangeRelease (inst : Nat) (dst : Pkg) (s : State) : Host.Outcome State Fault Refusal :=
  run (effPathChangeRelease inst dst) s
/-- READ_TIMEOUT (R177). -/
def execReadTimeout (inst : Nat) (entry : Nat) (s : State) : Host.Outcome State Fault Refusal :=
  run (effReadTimeout inst entry) s
/-- WRITE_TIMEOUT (R178). -/
def execWriteTimeout (inst : Nat) (entry : Nat) (s : State) : Host.Outcome State Fault Refusal :=
  run (effWriteTimeout inst entry) s
/-- ATOMIC_RESEND (R185). -/
def execAtomicResend (inst : Nat) (entry : Nat) (s : State) : Host.Outcome State Fault Refusal :=
  run (effAtomicResend inst entry) s
/-- ATOMIC_INDETERMINATE (R185). -/
def execAtomicIndeterminate (inst : Nat) (entry : Nat) (s : State) : Host.Outcome State Fault Refusal :=
  run (effAtomicIndeterminate inst entry) s
/-- ARC_ENTRY_EXPIRY (R183). -/
def execArcEntryExpiry (n : Nat) (src : Pkg) (iinst : BitVec 7) (reqid : BitVec 32) (s : State) : Host.Outcome State Fault Refusal :=
  run (effArcEntryExpiry n src iinst reqid) s
/-- ACQUIRE (R191). -/
def execAcquire (inst : Nat) (entry : Nat) (s : State) : Host.Outcome State Fault Refusal :=
  run (effAcquire inst entry) s
/-- PEER_DEAD (R179). -/
def execPeerDead (peer : Pkg) (s : State) : Host.Outcome State Fault Refusal :=
  run (effPeerDead peer) s
/-- PLAN_INSTALL (R217). -/
def execPlanInstall (src : Src) (image : Bytes) (rd : Status) (s : State) : Host.Outcome State Fault Refusal :=
  run (effPlanInstall src image rd) s
/-- PLAN_REMOVE (R217). -/
def execPlanRemove (src : Src) (s : State) : Host.Outcome State Fault Refusal :=
  run (effPlanRemove src) s
/-- PLAN_INVOKE (R218). -/
def execPlanInvoke (src : Src) (block : BitVec 512) (rd : Status) (s : State) : Host.Outcome State Fault Refusal :=
  run (effPlanInvoke src block rd) s
/-- HELD_PACKET_EXPIRY (R221). -/
def execHeldPacketExpiry (n : Nat) (s : State) : Host.Outcome State Fault Refusal :=
  run (effHeldPacketExpiry n) s
/-- STEP_LINE_PRODUCE (R219). -/
def execStepLineProduce (n : Nat) (hw : HwFault) (s : State) : Host.Outcome State Fault Refusal :=
  run (effStepLineProduce n hw) s
/-- OPERAND_PREFETCH_RETURN (R223). -/
def execOperandPrefetchReturn (inv step : Nat) (data : Line) (poison : Bool) (status : Status) (sorrel : BitVec 32) (s : State) : Host.Outcome State Fault Refusal :=
  run (effOperandPrefetchReturn inv step data poison status sorrel) s
/-- STEP_INPUT_TIMEOUT (R225). -/
def execStepInputTimeout (inv step : Nat) (s : State) : Host.Outcome State Fault Refusal :=
  run (effStepInputTimeout inv step) s
/-- INVOCATION_END (R225). -/
def execInvocationEnd (inv : Nat) (cause : InvCause) (s : State) : Host.Outcome State Fault Refusal :=
  run (effInvocationEnd inv cause) s
/-- INVOCATION_COMPLETE (R226). -/
def execInvocationComplete (inv : Nat) (s : State) : Host.Outcome State Fault Refusal :=
  run (effInvocationComplete inv) s
/-- ABORT_RECORD_EXPIRY (R398). -/
def execAbortRecordExpiry (n : Nat) (k : Nat) (s : State) : Host.Outcome State Fault Refusal :=
  run (effAbortRecordExpiry n k) s
/-- RL_CTRL_WRITE (R227). -/
def execRlCtrlWrite (z : ZReq) (n : Nat) (w : Word) (s : State) : Host.Outcome State Fault Refusal :=
  run (effRlCtrlWrite z n w) s
/-- SILENT_ERROR_REPORT (R235). -/
def execSilentErrorReport (r : RingIn) (s : State) : Host.Outcome State Fault Refusal :=
  run (effSilentErrorReport r) s
/-- COVERAGE_COUNTER_WRITE (R234). -/
def execCoverageCounterWrite (z : ZReq) (isLcs : Bool) (n k : Nat) (w : Word) (s : State) : Host.Outcome State Fault Refusal :=
  run (effCoverageCounterWrite z isLcs n k w) s
/-- DERIVE (R251). -/
def execDerive (src : Src) (data : Bytes) (rd : Status) (s : State) : Host.Outcome State Fault Refusal :=
  run (effDerive src data rd) s
/-- GENERATE (R251). -/
def execGenerate (src : Src) (s : State) : Host.Outcome State Fault Refusal :=
  run (effGenerate src) s
/-- IMPORT (R261). -/
def execImportKey (src : Src) (data : Bytes) (rd : Status) (s : State) : Host.Outcome State Fault Refusal :=
  run (effImportKey src data rd) s
/-- DECAPS (R262). -/
def execDecaps (src : Src) (data : Bytes) (rd : Status) (s : State) : Host.Outcome State Fault Refusal :=
  run (effDecaps src data rd) s
/-- INVALIDATE (R252). -/
def execInvalidate (src : Src) (s : State) : Host.Outcome State Fault Refusal :=
  run (effInvalidate src) s
/-- EXPORT (R251). -/
def execExportKey (src : Src) (s : State) : Host.Outcome State Fault Refusal :=
  run (effExportKey src) s
/-- MINT_COMPLETE (R251). -/
def execMintComplete (s : State) : Host.Outcome State Fault Refusal :=
  run effMintComplete s
/-- RUE_SWEEP_VISIT (R254). -/
def execRueSweepVisit (s : State) : Host.Outcome State Fault Refusal :=
  run effRueSweepVisit s
/-- KEYLOAD (R255). -/
def execKeyload (inst : Nat) (num : Nat) (role : Nat) (key : Key) (s : State) : Host.Outcome State Fault Refusal :=
  run (effKeyload inst num role key) s
/-- LAYOUT (R375). -/
def execLayout (r : RingIn) (s : State) : Host.Outcome State Fault Refusal :=
  run (effLayout r) s
/-- LAYOUT_ACK (R375). -/
def execLayoutAck (src : Nat) (data : List Bytes) (s : State) : Host.Outcome State Fault Refusal :=
  run (effLayoutAck src data) s
/-- LAYOUT_ACK_TIMEOUT (R375). -/
def execLayoutAckTimeout (inst : Nat) (s : State) : Host.Outcome State Fault Refusal :=
  run (effLayoutAckTimeout inst) s
/-- PUSH (R256). -/
def execPush (r : RingIn) (s : State) : Host.Outcome State Fault Refusal :=
  run (effPush r) s
/-- FILL_REQ (R257). -/
def execFillReq (r : RingIn) (s : State) : Host.Outcome State Fault Refusal :=
  run (effFillReq r) s
/-- FILL_NEG (R257). -/
def execFillNeg (r : RingIn) (s : State) : Host.Outcome State Fault Refusal :=
  run (effFillNeg r) s
/-- EVICT (R259). -/
def execEvict (r : RingIn) (s : State) : Host.Outcome State Fault Refusal :=
  run (effEvict r) s
/-- INVAL (R259). -/
def execInval (r : RingIn) (s : State) : Host.Outcome State Fault Refusal :=
  run (effInval r) s
/-- INVAL_ACK (R252). -/
def execInvalAck (r : RingIn) (s : State) : Host.Outcome State Fault Refusal :=
  run (effInvalAck r) s
/-- GRANT_REQ (R258). -/
def execGrantReq (r : RingIn) (s : State) : Host.Outcome State Fault Refusal :=
  run (effGrantReq r) s
/-- GRANT (R258). -/
def execGrant (r : RingIn) (s : State) : Host.Outcome State Fault Refusal :=
  run (effGrant r) s
/-- RECALL (R258). -/
def execRecall (r : RingIn) (s : State) : Host.Outcome State Fault Refusal :=
  run (effRecall r) s
/-- RECALL_ACK (R259). -/
def execRecallAck (r : RingIn) (s : State) : Host.Outcome State Fault Refusal :=
  run (effRecallAck r) s
/-- ZEROIZE (R275). -/
def execZeroize (r : RingIn) (s : State) : Host.Outcome State Fault Refusal :=
  run (effZeroize r) s
/-- ROOF_SLOT_READ_REPLY (R113). -/
def execRoofSlotReadReply (n : Nat) (node : Nat) (sealOk : Bool) (s : State) : Host.Outcome State Fault Refusal :=
  run (effRoofSlotReadReply n node sealOk) s
/-- RING_HOP_BROKEN (R56). -/
def execRingHopBroken (inst : Nat) (east : Bool) (s : State) : Host.Outcome State Fault Refusal :=
  run (effRingHopBroken inst east) s
/-- RING_HOP_RESTORED (R56). -/
def execRingHopRestored (inst : Nat) (east : Bool) (s : State) : Host.Outcome State Fault Refusal :=
  run (effRingHopRestored inst east) s
/-- SCU_AES256_ENCRYPT (R263). -/
def execScuAes256Encrypt (z : ZReq) (w : Word) (s : State) : Host.Outcome State Fault Refusal :=
  run (effScuAes256Encrypt z w) s
/-- SCU_AES256_DECRYPT (R263). -/
def execScuAes256Decrypt (z : ZReq) (w : Word) (s : State) : Host.Outcome State Fault Refusal :=
  run (effScuAes256Decrypt z w) s
/-- SCU_AES128_ENCRYPT (R263). -/
def execScuAes128Encrypt (z : ZReq) (w : Word) (s : State) : Host.Outcome State Fault Refusal :=
  run (effScuAes128Encrypt z w) s
/-- SCU_AES128_DECRYPT (R263). -/
def execScuAes128Decrypt (z : ZReq) (w : Word) (s : State) : Host.Outcome State Fault Refusal :=
  run (effScuAes128Decrypt z w) s
/-- SCU_SHA384 (R263). -/
def execScuSha384 (z : ZReq) (w : Word) (s : State) : Host.Outcome State Fault Refusal :=
  run (effScuSha384 z w) s
/-- SCU_KMAC256 (R263). -/
def execScuKmac256 (z : ZReq) (w : Word) (s : State) : Host.Outcome State Fault Refusal :=
  run (effScuKmac256 z w) s
/-- SCU_MLKEM_KEYGEN (R263). -/
def execScuMlkemKeygen (z : ZReq) (w : Word) (s : State) : Host.Outcome State Fault Refusal :=
  run (effScuMlkemKeygen z w) s
/-- SCU_MLKEM_ENCAPS (R263). -/
def execScuMlkemEncaps (z : ZReq) (w : Word) (s : State) : Host.Outcome State Fault Refusal :=
  run (effScuMlkemEncaps z w) s
/-- SCU_MLKEM_DECAPS (R263). -/
def execScuMlkemDecaps (z : ZReq) (w : Word) (s : State) : Host.Outcome State Fault Refusal :=
  run (effScuMlkemDecaps z w) s
/-- SCU_MLDSA_KEYGEN (R263). -/
def execScuMldsaKeygen (z : ZReq) (w : Word) (s : State) : Host.Outcome State Fault Refusal :=
  run (effScuMldsaKeygen z w) s
/-- SCU_MLDSA_SIGN (R267). -/
def execScuMldsaSign (z : ZReq) (w : Word) (s : State) : Host.Outcome State Fault Refusal :=
  run (effScuMldsaSign z w) s
/-- SCU_MLDSA_VERIFY (R263). -/
def execScuMldsaVerify (z : ZReq) (w : Word) (s : State) : Host.Outcome State Fault Refusal :=
  run (effScuMldsaVerify z w) s
/-- SCU_ECDSA_KEYGEN (R263). -/
def execScuEcdsaKeygen (z : ZReq) (w : Word) (s : State) : Host.Outcome State Fault Refusal :=
  run (effScuEcdsaKeygen z w) s
/-- SCU_ECDSA_SIGN (R263). -/
def execScuEcdsaSign (z : ZReq) (w : Word) (s : State) : Host.Outcome State Fault Refusal :=
  run (effScuEcdsaSign z w) s
/-- SCU_ECDSA_VERIFY (R263). -/
def execScuEcdsaVerify (z : ZReq) (w : Word) (s : State) : Host.Outcome State Fault Refusal :=
  run (effScuEcdsaVerify z w) s
/-- SCU_ABORT (R265). -/
def execScuAbort (z : ZReq) (s : State) : Host.Outcome State Fault Refusal :=
  run (effScuAbort z) s
/-- SCU_XFER_IN (R265). -/
def execScuXferIn (z : ZReq) (len : BitVec 12) (s : State) : Host.Outcome State Fault Refusal :=
  run (effScuXferIn z len) s
/-- SCU_XFER_OUT (R265). -/
def execScuXferOut (z : ZReq) (s : State) : Host.Outcome State Fault Refusal :=
  run (effScuXferOut z) s
/-- SCU_OP_COMPLETE (R265). -/
def execScuOpComplete (page : Nat) (s : State) : Host.Outcome State Fault Refusal :=
  run (effScuOpComplete page) s
/-- SERVICE_REQUEST_DESCRIPTOR (R266). -/
def execServiceRequestDescriptor (s : State) : Host.Outcome State Fault Refusal :=
  run effServiceRequestDescriptor s
/-- DRBG_HEALTH_FAILURE (R269). -/
def execDrbgHealthFailure (s : State) : Host.Outcome State Fault Refusal :=
  run effDrbgHealthFailure s
/-- SEALED_STORE_UPDATE (R272). -/
def execSealedStoreUpdate (s : State) : Host.Outcome State Fault Refusal :=
  run effSealedStoreUpdate s
/-- FL_RSP (R59). -/
def execFlRsp (data : Bytes) (err : BitVec 2) (s : State) : Host.Outcome State Fault Refusal :=
  run (effFlRsp data err) s
/-- FLASH_TIMEOUT (R59). -/
def execFlashTimeout (s : State) : Host.Outcome State Fault Refusal :=
  run effFlashTimeout s
/-- TAMPER_IN_EVENT (R362). -/
def execTamperInEvent (inst : Nat) (k : BitVec 2) (s : State) : Host.Outcome State Fault Refusal :=
  run (effTamperInEvent inst k) s
/-- TAMPER_GLITCH_EVENT (R362). -/
def execTamperGlitchEvent (inst : Nat) (k : BitVec 2) (s : State) : Host.Outcome State Fault Refusal :=
  run (effTamperGlitchEvent inst k) s
/-- MESH_TAMPER_EVENT (R67). -/
def execMeshTamperEvent (inst : Nat) (sns : Bool) (s : State) : Host.Outcome State Fault Refusal :=
  run (effMeshTamperEvent inst sns) s
/-- VOLTAGE_TAMPER_EVENT (R362). -/
def execVoltageTamperEvent (inst : Nat) (s : State) : Host.Outcome State Fault Refusal :=
  run (effVoltageTamperEvent inst) s
/-- CLOCK_GLITCH_EVENT (R15). -/
def execClockGlitchEvent (inst : Nat) (s : State) : Host.Outcome State Fault Refusal :=
  run (effClockGlitchEvent inst) s
/-- TEMPERATURE_TAMPER_EVENT (R362). -/
def execTemperatureTamperEvent (inst : Nat) (s : State) : Host.Outcome State Fault Refusal :=
  run (effTemperatureTamperEvent inst) s
/-- SCAN_REQUEST (R68). -/
def execScanRequest (inst : Nat) (s : State) : Host.Outcome State Fault Refusal :=
  run (effScanRequest inst) s
/-- TM_TICK (R62). -/
def execTmTick (inst : Nat) (time interp : BitVec 64) (s : State) : Host.Outcome State Fault Refusal :=
  run (effTmTick inst time interp) s
/-- EPOCH_BOUNDARY (R296). -/
def execEpochBoundary (s : State) : Host.Outcome State Fault Refusal :=
  run effEpochBoundary s
/-- PREVIOUS_EPOCH_KEY_ERASE (R296). -/
def execPreviousEpochKeyErase (s : State) : Host.Outcome State Fault Refusal :=
  run effPreviousEpochKeyErase s
/-- EPOCH_GRANT (R297). -/
def execEpochGrant (h : DomHdr) (max : BitVec 24) (s : State) : Host.Outcome State Fault Refusal :=
  run (effEpochGrant h max) s
/-- IDE_KEY_PROG (R49). -/
def execIdeKeyProg (sess : SpdmReq) (stream : BitVec 8) (sub : BitVec 2) (dir kset : Bool) (key : Key) (ifv : BitVec 64) (s : State) : Host.Outcome State Fault Refusal :=
  run (effIdeKeyProg sess stream sub dir kset key ifv) s
/-- IDE_K_SET_GO (R48). -/
def execIdeKSetGo (sess : SpdmReq) (stream : BitVec 8) (sub : BitVec 2) (dir kset : Bool) (s : State) : Host.Outcome State Fault Refusal :=
  run (effIdeKSetGo sess stream sub dir kset) s
/-- IDE_K_SET_STOP (R48). -/
def execIdeKSetStop (sess : SpdmReq) (stream : BitVec 8) (sub : BitVec 2) (dir kset : Bool) (s : State) : Host.Outcome State Fault Refusal :=
  run (effIdeKSetStop sess stream sub dir kset) s
/-- HK_ACK (R49). -/
def execHkAck (err : Bool) (s : State) : Host.Outcome State Fault Refusal :=
  run (effHkAck err) s
/-- HK_ACK_TIMEOUT (R49). -/
def execHkAckTimeout (s : State) : Host.Outcome State Fault Refusal :=
  run effHkAckTimeout s
/-- MG_PACKET (R57). -/
def execMgPacket (type : BitVec 8) (beats : List MgBeat) (s : State) : Host.Outcome State Fault Refusal :=
  run (effMgPacket type beats) s
/-- GET_VERSION (R278). -/
def execGetVersion (r : SpdmReq) (s : State) : Host.Outcome State Fault Refusal :=
  run (effGetVersion r) s
/-- GET_CAPABILITIES (R278). -/
def execGetCapabilities (r : SpdmReq) (s : State) : Host.Outcome State Fault Refusal :=
  run (effGetCapabilities r) s
/-- NEGOTIATE_ALGORITHMS (R278). -/
def execNegotiateAlgorithms (r : SpdmReq) (s : State) : Host.Outcome State Fault Refusal :=
  run (effNegotiateAlgorithms r) s
/-- GET_DIGESTS (R278). -/
def execGetDigests (r : SpdmReq) (s : State) : Host.Outcome State Fault Refusal :=
  run (effGetDigests r) s
/-- GET_CERTIFICATE (R277). -/
def execGetCertificate (r : SpdmReq) (slot : Nat) (s : State) : Host.Outcome State Fault Refusal :=
  run (effGetCertificate r slot) s
/-- CHALLENGE (R278). -/
def execChallenge (r : SpdmReq) (slot : Nat) (nonce : Key) (s : State) : Host.Outcome State Fault Refusal :=
  run (effChallenge r slot nonce) s
/-- GET_MEASUREMENTS (R279). -/
def execGetMeasurements (r : SpdmReq) (index : Nat) (signed : Bool) (nonce : Key) (s : State) : Host.Outcome State Fault Refusal :=
  run (effGetMeasurements r index signed nonce) s
/-- KEY_EXCHANGE (R278). -/
def execKeyExchange (r : SpdmReq) (mgmt : Bool) (exch : BitVec 768) (s : State) : Host.Outcome State Fault Refusal :=
  run (effKeyExchange r mgmt exch) s
/-- FINISH (R310). -/
def execFinish (r : SpdmReq) (chainRoot : Digest) (sigOk : Bool) (s : State) : Host.Outcome State Fault Refusal :=
  run (effFinish r chainRoot sigOk) s
/-- KEY_UPDATE (R278). -/
def execKeyUpdate (r : SpdmReq) (s : State) : Host.Outcome State Fault Refusal :=
  run (effKeyUpdate r) s
/-- HEARTBEAT_SPDM (R278). -/
def execHeartbeatSpdm (r : SpdmReq) (s : State) : Host.Outcome State Fault Refusal :=
  run (effHeartbeatSpdm r) s
/-- END_SESSION (R278). -/
def execEndSession (r : SpdmReq) (s : State) : Host.Outcome State Fault Refusal :=
  run (effEndSession r) s
/-- CHUNK_SEND (R278). -/
def execChunkSend (r : SpdmReq) (seq : Nat) (last : Bool) (data : Bytes) (s : State) : Host.Outcome State Fault Refusal :=
  run (effChunkSend r seq last data) s
/-- CHUNK_GET (R278). -/
def execChunkGet (r : SpdmReq) (seq : Nat) (s : State) : Host.Outcome State Fault Refusal :=
  run (effChunkGet r seq) s
/-- DOM_POLICY (R282). -/
def execDomPolicy (r : SpdmReq) (image : Bytes) (s : State) : Host.Outcome State Fault Refusal :=
  run (effDomPolicy r image) s
/-- DOM_RESOLVE (R287). -/
def execDomResolve (r : SpdmReq) (pkg : Pkg) (keep : Digest) (s : State) : Host.Outcome State Fault Refusal :=
  run (effDomResolve r pkg keep) s
/-- DOM_ABORT (R347). -/
def execDomAbort (r : SpdmReq) (tag : Tag) (s : State) : Host.Outcome State Fault Refusal :=
  run (effDomAbort r tag) s
/-- GET_BUNDLE (R292). -/
def execGetBundle (r : SpdmReq) (off len : Nat) (s : State) : Host.Outcome State Fault Refusal :=
  run (effGetBundle r off len) s
/-- GET_MEMBER_EVIDENCE (R292). -/
def execGetMemberEvidence (r : SpdmReq) (pkg : Pkg) (s : State) : Host.Outcome State Fault Refusal :=
  run (effGetMemberEvidence r pkg) s
/-- GET_PQ_CHAIN (R279). -/
def execGetPqChain (r : SpdmReq) (s : State) : Host.Outcome State Fault Refusal :=
  run (effGetPqChain r) s
/-- GET_TDISP_VERSION (R300). -/
def execGetTdispVersion (r : SpdmReq) (s : State) : Host.Outcome State Fault Refusal :=
  run (effGetTdispVersion r) s
/-- GET_TDISP_CAPABILITIES (R300). -/
def execGetTdispCapabilities (r : SpdmReq) (s : State) : Host.Outcome State Fault Refusal :=
  run (effGetTdispCapabilities r) s
/-- LOCK_INTERFACE_REQUEST (R302). -/
def execLockInterfaceRequest (r : SpdmReq) (tag : Tag) (stream : BitVec 8) (s : State) : Host.Outcome State Fault Refusal :=
  run (effLockInterfaceRequest r tag stream) s
/-- GET_DEVICE_INTERFACE_REPORT (R302). -/
def execGetDeviceInterfaceReport (r : SpdmReq) (tag : Tag) (s : State) : Host.Outcome State Fault Refusal :=
  run (effGetDeviceInterfaceReport r tag) s
/-- GET_DEVICE_INTERFACE_STATE (R300). -/
def execGetDeviceInterfaceState (r : SpdmReq) (tag : Tag) (s : State) : Host.Outcome State Fault Refusal :=
  run (effGetDeviceInterfaceState r tag) s
/-- START_INTERFACE_REQUEST (R302). -/
def execStartInterfaceRequest (r : SpdmReq) (tag : Tag) (s : State) : Host.Outcome State Fault Refusal :=
  run (effStartInterfaceRequest r tag) s
/-- STOP_INTERFACE_REQUEST (R303). -/
def execStopInterfaceRequest (r : SpdmReq) (tag : Tag) (s : State) : Host.Outcome State Fault Refusal :=
  run (effStopInterfaceRequest r tag) s
/-- RELAY_OUT (R283). -/
def execRelayOut (m : MbReq) (s : State) : Host.Outcome State Fault Refusal :=
  run (effRelayOut m) s
/-- RELAY_IN (R283). -/
def execRelayIn (m : MbReq) (x : DomMsg) (s : State) : Host.Outcome State Fault Refusal :=
  run (effRelayIn m x) s
/-- CERT_LOAD (R277). -/
def execCertLoad (m : MbReq) (c : CertChain) (s : State) : Host.Outcome State Fault Refusal :=
  run (effCertLoad m c) s
/-- DOM_JOIN (R284). -/
def execDomJoin (m : MbReq) (dka : Pkg) (domain : BitVec 64) (s : State) : Host.Outcome State Fault Refusal :=
  run (effDomJoin m dka domain) s
/-- DOM_LEAVE (R290). -/
def execDomLeave (m : MbReq) (s : State) : Host.Outcome State Fault Refusal :=
  run (effDomLeave m) s
/-- PAIR_CONNECT (R289). -/
def execPairConnect (m : MbReq) (inst : Nat) (peer : Pkg) (s : State) : Host.Outcome State Fault Refusal :=
  run (effPairConnect m inst peer) s
/-- PAIR_CONNECT_TIMEOUT (R289). -/
def execPairConnectTimeout (peer : Pkg) (s : State) : Host.Outcome State Fault Refusal :=
  run (effPairConnectTimeout peer) s
/-- TINST_CREATE (R301). -/
def execTinstCreate (m : MbReq) (tag : Tag) (pasid : BitVec 20) (tdisp : Bool) (ifid : BitVec 16) (s : State) : Host.Outcome State Fault Refusal :=
  run (effTinstCreate m tag pasid tdisp ifid) s
/-- TINST_DESTROY (R303). -/
def execTinstDestroy (m : MbReq) (tag : Tag) (s : State) : Host.Outcome State Fault Refusal :=
  run (effTinstDestroy m tag) s
/-- MIG_OPEN (R305). -/
def execMigOpen (m : MbReq) (tag : Tag) (peer : Pkg) (source : Bool) (evidenceOk : Bool) (kem : BitVec 12544) (transcript : Bytes) (s : State) : Host.Outcome State Fault Refusal :=
  run (effMigOpen m tag peer source evidenceOk kem transcript) s
/-- MIG_FREEZE (R306). -/
def execMigFreeze (m : MbReq) (tag : Tag) (s : State) : Host.Outcome State Fault Refusal :=
  run (effMigFreeze m tag) s
/-- MIG_EXPORT (R307). -/
def execMigExport (m : MbReq) (tag : Tag) (s : State) : Host.Outcome State Fault Refusal :=
  run (effMigExport m tag) s
/-- MIG_RESTORE (R309). -/
def execMigRestore (m : MbReq) (tag : Tag) (blob : MigBlob) (data : List Byte) (s : State) : Host.Outcome State Fault Refusal :=
  run (effMigRestore m tag blob data) s
/-- MIG_ABORT (R309). -/
def execMigAbort (m : MbReq) (tag : Tag) (s : State) : Host.Outcome State Fault Refusal :=
  run (effMigAbort m tag) s
/-- RESTORED (R309). -/
def execRestored (h : DomHdr) (tag : Tag) (s : State) : Host.Outcome State Fault Refusal :=
  run (effRestored h tag) s
/-- COMMIT (R309). -/
def execCommit (h : DomHdr) (tag : Tag) (go : Bool) (s : State) : Host.Outcome State Fault Refusal :=
  run (effCommit h tag go) s
/-- MIGRATION_ANSWER_TIMEOUT (R309). -/
def execMigrationAnswerTimeout (tag : Tag) (released : Bool) (s : State) : Host.Outcome State Fault Refusal :=
  run (effMigrationAnswerTimeout tag released) s
/-- JOIN (R284). -/
def execJoin (h : DomHdr) (s : State) : Host.Outcome State Fault Refusal :=
  run (effJoin h) s
/-- CHALLENGE_DOMAIN (R284). -/
def execChallengeDomain (h : DomHdr) (nonce : Key) (s : State) : Host.Outcome State Fault Refusal :=
  run (effChallengeDomain h nonce) s
/-- EVIDENCE (R284). -/
def execEvidence (h : DomHdr) (e : Evidence) (s : State) : Host.Outcome State Fault Refusal :=
  run (effEvidence h e) s
/-- ADMISSION_TIMEOUT (R284). -/
def execAdmissionTimeout (ident : Digest) (s : State) : Host.Outcome State Fault Refusal :=
  run (effAdmissionTimeout ident) s
/-- ADMIT (R285). -/
def execAdmitMember (h : DomHdr) (a : Admit) (s : State) : Host.Outcome State Fault Refusal :=
  run (effAdmitMember h a) s
/-- REFUSE (R284). -/
def execRefuse (h : DomHdr) (st : Status) (s : State) : Host.Outcome State Fault Refusal :=
  run (effRefuse h st) s
/-- QUARANTINE (R287). -/
def execQuarantine (h : DomHdr) (pkg : Pkg) (s : State) : Host.Outcome State Fault Refusal :=
  run (effQuarantine h pkg) s
/-- REBIND (R287). -/
def execRebind (h : DomHdr) (pkg : Pkg) (ident : Digest) (s : State) : Host.Outcome State Fault Refusal :=
  run (effRebind h pkg ident) s
/-- RELEASE_PEER (R290). -/
def execReleasePeer (h : DomHdr) (pkg : Pkg) (s : State) : Host.Outcome State Fault Refusal :=
  run (effReleasePeer h pkg) s
/-- LEAVE (R290). -/
def execLeave (h : DomHdr) (s : State) : Host.Outcome State Fault Refusal :=
  run (effLeave h) s
/-- BIND_QUERY (R286). -/
def execBindQuery (h : DomHdr) (pkg : Pkg) (claim : Option Digest) (answer : Option (Digest × Digest × Bool)) (s : State) : Host.Outcome State Fault Refusal :=
  run (effBindQuery h pkg claim answer) s
/-- HELLO (R289). -/
def execHello (h : DomHdr) (ek : BitVec 12544) (lcs : List Nat) (s : State) : Host.Outcome State Fault Refusal :=
  run (effHello h ek lcs) s
/-- HELLO_ACK (R289). -/
def execHelloAck (h : DomHdr) (ct : BitVec 12544) (pairs : List (Nat × Nat × Bytes)) (s : State) : Host.Outcome State Fault Refusal :=
  run (effHelloAck h ct pairs) s
/-- HELLO_FIN (R289). -/
def execHelloFin (h : DomHdr) (epoch : BitVec 24) (s : State) : Host.Outcome State Fault Refusal :=
  run (effHelloFin h epoch) s
/-- HEARTBEAT (R294). -/
def execHeartbeat (h : DomHdr) (s : State) : Host.Outcome State Fault Refusal :=
  run (effHeartbeat h) s
/-- DKA_HEARTBEAT_TIMER (R294). -/
def execDkaHeartbeatTimer (s : State) : Host.Outcome State Fault Refusal :=
  run effDkaHeartbeatTimer s
/-- STANDBY_HEARTBEAT_LOSS (R294). -/
def execStandbyHeartbeatLoss (s : State) : Host.Outcome State Fault Refusal :=
  run effStandbyHeartbeatLoss s
/-- TAKEOVER (R294). -/
def execTakeover (h : DomHdr) (s : State) : Host.Outcome State Fault Refusal :=
  run (effTakeover h) s
/-- TAKEOVER_ACK (R294). -/
def execTakeoverAck (h : DomHdr) (s : State) : Host.Outcome State Fault Refusal :=
  run (effTakeoverAck h) s
/-- DOMAIN_REPLICATION_ACK (R293). -/
def execDomainReplicationAck (s : State) : Host.Outcome State Fault Refusal :=
  run effDomainReplicationAck s
/-- DOMAIN_REPLICATION_TIMEOUT (R293). -/
def execDomainReplicationTimeout (s : State) : Host.Outcome State Fault Refusal :=
  run effDomainReplicationTimeout s
/-- OOS_NOTICE (R346). -/
def execOosNotice (h : DomHdr) (s : State) : Host.Outcome State Fault Refusal :=
  run (effOosNotice h) s
/-- PKG_LOST (R354). -/
def execPkgLost (h : DomHdr) (pkg : Pkg) (s : State) : Host.Outcome State Fault Refusal :=
  run (effPkgLost h pkg) s
/-- CTX_QTAIL_WRITE (R318). -/
def execCtxQtailWrite (z : ZReq) (q : Nat) (w : Word) (s : State) : Host.Outcome State Fault Refusal :=
  run (effCtxQtailWrite z q w) s
/-- QUEUE_COMMAND_START (R321). -/
def execQueueCommandStart (q : Nat) (slots : Line) (rd : Status) (s : State) : Host.Outcome State Fault Refusal :=
  run (effQueueCommandStart q slots rd) s
/-- COMPLETION_RECORD_WRITE (R321). -/
def execCompletionRecordWrite (q : Nat) (wr : Status) (s : State) : Host.Outcome State Fault Refusal :=
  run (effCompletionRecordWrite q wr) s
/-- NOP (R320). -/
def execNop (src : Src) (s : State) : Host.Outcome State Fault Refusal :=
  run (effNop src) s
/-- CTX_DEFINE (R320). -/
def execCtxDefine (src : Src) (s : State) : Host.Outcome State Fault Refusal :=
  run (effCtxDefine src) s
/-- CTX_DESTROY (R317). -/
def execCtxDestroy (src : Src) (s : State) : Host.Outcome State Fault Refusal :=
  run (effCtxDestroy src) s
/-- CTX_SEAL (R337). -/
def execCtxSeal (src : Src) (s : State) : Host.Outcome State Fault Refusal :=
  run (effCtxSeal src) s
/-- CTX_RESTORE (R338). -/
def execCtxRestore (src : Src) (s : State) : Host.Outcome State Fault Refusal :=
  run (effCtxRestore src) s
/-- Q_CREATE (R320). -/
def execQCreate (src : Src) (s : State) : Host.Outcome State Fault Refusal :=
  run (effQCreate src) s
/-- Q_DESTROY (R315). -/
def execQDestroy (src : Src) (s : State) : Host.Outcome State Fault Refusal :=
  run (effQDestroy src) s
/-- Q_RESTART (R322). -/
def execQRestart (src : Src) (s : State) : Host.Outcome State Fault Refusal :=
  run (effQRestart src) s
/-- FNC_CREATE (R326). -/
def execFncCreate (src : Src) (s : State) : Host.Outcome State Fault Refusal :=
  run (effFncCreate src) s
/-- HOLD (R315). -/
def execHold (src : Src) (s : State) : Host.Outcome State Fault Refusal :=
  run (effHold src) s
/-- RELEASE (R315). -/
def execRelease (src : Src) (s : State) : Host.Outcome State Fault Refusal :=
  run (effRelease src) s
/-- OBJECT_FREE (R316). -/
def execObjectFree (type : BitVec 4) (index : Nat) (s : State) : Host.Outcome State Fault Refusal :=
  run (effObjectFree type index) s
/-- KERNEL_COMMAND_GO (R325). -/
def execKernelCommandGo (z : ZReq) (w : Word) (s : State) : Host.Outcome State Fault Refusal :=
  run (effKernelCommandGo z w) s
/-- CTX_STORE_LOCK (R313). -/
def execCtxStoreLock (z : ZReq) (w : Word) (s : State) : Host.Outcome State Fault Refusal :=
  run (effCtxStoreLock z w) s
/-- JNL_BASE_LOCK (R360). -/
def execJnlBaseLock (z : ZReq) (w : Word) (s : State) : Host.Outcome State Fault Refusal :=
  run (effJnlBaseLock z w) s
/-- FENCE_SIGNAL_APPLY (R327). -/
def execFenceSignalApply (src : Src) (s : State) : Host.Outcome State Fault Refusal :=
  run (effFenceSignalApply src) s
/-- FENCE_WAIT_SATISFIED (R328). -/
def execFenceWaitSatisfied (q : Nat) (s : State) : Host.Outcome State Fault Refusal :=
  run (effFenceWaitSatisfied q) s
/-- SIGNAL (R329). -/
def execSignal (f : FenceLine) (s : State) : Host.Outcome State Fault Refusal :=
  run (effSignal f) s
/-- SIGNAL_ACK (R329). -/
def execSignalAck (f : FenceLine) (s : State) : Host.Outcome State Fault Refusal :=
  run (effSignalAck f) s
/-- SIGNAL_RESEND_TIMER (R329). -/
def execSignalResendTimer (src : Src) (s : State) : Host.Outcome State Fault Refusal :=
  run (effSignalResendTimer src) s
/-- SUBSCRIBE (R329). -/
def execSubscribe (f : FenceLine) (s : State) : Host.Outcome State Fault Refusal :=
  run (effSubscribe f) s
/-- UNSUBSCRIBE (R330). -/
def execUnsubscribe (f : FenceLine) (s : State) : Host.Outcome State Fault Refusal :=
  run (effUnsubscribe f) s
/-- UPDATE_FENCE (R329). -/
def execUpdateFence (f : FenceLine) (s : State) : Host.Outcome State Fault Refusal :=
  run (effUpdateFence f) s
/-- QUERY (R329). -/
def execQuery (f : FenceLine) (s : State) : Host.Outcome State Fault Refusal :=
  run (effQuery f) s
/-- QUERY_TIMER (R329). -/
def execQueryTimer (index : Nat) (s : State) : Host.Outcome State Fault Refusal :=
  run (effQueryTimer index) s
/-- FENCE_SLOT_FREE (R331). -/
def execFenceSlotFree (index : Nat) (s : State) : Host.Outcome State Fault Refusal :=
  run (effFenceSlotFree index) s
/-- SEAL_STREAM_LINE (R337). -/
def execSealStreamLine (n : Nat) (write : Bool) (rq : MnReq) (data : Line) (sb : Sideband) (s : State) : Host.Outcome State Fault Refusal :=
  run (effSealStreamLine n write rq data sb) s
/-- SEAL_END (R337). -/
def execSealEnd (slot : Nat) (s : State) : Host.Outcome State Fault Refusal :=
  run (effSealEnd slot) s
/-- RESTORE_END (R338). -/
def execRestoreEnd (slot : Nat) (s : State) : Host.Outcome State Fault Refusal :=
  run (effRestoreEnd slot) s
/-- SEAL_TIMEOUT (R339). -/
def execSealTimeout (slot : Nat) (restore : Bool) (s : State) : Host.Outcome State Fault Refusal :=
  run (effSealTimeout slot restore) s
/-- ABORT (R351). -/
def execAbort (z : ZReq) (s : State) : Host.Outcome State Fault Refusal :=
  run (effAbort z) s
/-- SOFT (R345). -/
def execSoft (z : ZReq) (s : State) : Host.Outcome State Fault Refusal :=
  run (effSoft z) s
/-- HARD (R345). -/
def execHard (z : ZReq) (s : State) : Host.Outcome State Fault Refusal :=
  run (effHard z) s
/-- OOS_CLEAR (R346). -/
def execOosClear (z : ZReq) (sess : Option Nat) (s : State) : Host.Outcome State Fault Refusal :=
  run (effOosClear z sess) s
/-- ABORT_FLIT_RECEIVE (R350). -/
def execAbortFlitReceive (n : Nat) (f : Flit) (s : State) : Host.Outcome State Fault Refusal :=
  run (effAbortFlitReceive n f) s
/-- BAY_FREEZE_RELEASE (R351). -/
def execBayFreezeRelease (s : State) : Host.Outcome State Fault Refusal :=
  run effBayFreezeRelease s
/-- BAY_CTRL_WRITE (R346). -/
def execBayCtrlWrite (z : ZReq) (w : Word) (s : State) : Host.Outcome State Fault Refusal :=
  run (effBayCtrlWrite z w) s
/-- REPLICATION_ACK (R355). -/
def execReplicationAck (s : State) : Host.Outcome State Fault Refusal :=
  run effReplicationAck s
/-- REPLICATION_TIMEOUT (R355). -/
def execReplicationTimeout (s : State) : Host.Outcome State Fault Refusal :=
  run effReplicationTimeout s
/-- SP_FULL_COPY_END (R355). -/
def execSpFullCopyEnd (s : State) : Host.Outcome State Fault Refusal :=
  run effSpFullCopyEnd s
/-- LEASE_RENEWAL_TIMER (R356). -/
def execLeaseRenewalTimer (reached : Nat) (s : State) : Host.Outcome State Fault Refusal :=
  run (effLeaseRenewalTimer reached) s
/-- LEASE_EXPIRY (R356). -/
def execLeaseExpiry (s : State) : Host.Outcome State Fault Refusal :=
  run effLeaseExpiry s
/-- PP_HEARTBEAT (R356). -/
def execPpHeartbeat (s : State) : Host.Outcome State Fault Refusal :=
  run effPpHeartbeat s
/-- PP_HEARTBEAT_LOSS (R356). -/
def execPpHeartbeatLoss (s : State) : Host.Outcome State Fault Refusal :=
  run effPpHeartbeatLoss s
/-- LEASE_REQ (R356). -/
def execLeaseReq (pkg : Pkg) (afterExpiry : Nat) (s : State) : Host.Outcome State Fault Refusal :=
  run (effLeaseReq pkg afterExpiry) s
/-- LEASE_GRANT (R357). -/
def execLeaseGrant (s : State) : Host.Outcome State Fault Refusal :=
  run effLeaseGrant s
/-- RELINQUISH (R357). -/
def execRelinquish (s : State) : Host.Outcome State Fault Refusal :=
  run effRelinquish s
/-- BAY_OLT_TAKE_OUT (R364). -/
def execBayOltTakeOut (z : ZReq) (w : Word) (s : State) : Host.Outcome State Fault Refusal :=
  run (effBayOltTakeOut z w) s
/-- BAY_OLT_RETURN (R364). -/
def execBayOltReturn (z : ZReq) (w : Word) (s : State) : Host.Outcome State Fault Refusal :=
  run (effBayOltReturn z w) s
/-- LCS_REJOIN_HOLD_EXPIRY (R364). -/
def execLcsRejoinHoldExpiry (n : Nat) (s : State) : Host.Outcome State Fault Refusal :=
  run (effLcsRejoinHoldExpiry n) s
/-- SLICE_REJOIN_BIST (R16). -/
def execSliceRejoinBist (isLcs : Bool) (n : Nat) (s : State) : Host.Outcome State Fault Refusal :=
  run (effSliceRejoinBist isLcs n) s
/-- OT_GNT (R60). -/
def execOtGnt (inst : Nat) (level : Bool) (s : State) : Host.Outcome State Fault Refusal :=
  run (effOtGnt inst level) s
/-- OT_RSP (R61). -/
def execOtRsp (data : BitVec 32) (err : Bool) (s : State) : Host.Outcome State Fault Refusal :=
  run (effOtRsp data err) s
/-- BOOT_REQ (R374). -/
def execBootReq (s : State) : Host.Outcome State Fault Refusal :=
  run effBootReq s
/-- BOOT_DATA (R374). -/
def execBootData (off : Nat) (data : Bytes) (s : State) : Host.Outcome State Fault Refusal :=
  if data.length ≤ 4096 then run (effBootData off data) s else .fault .illFormed
/-- BOOT_END (R374). -/
def execBootEnd (img : BootImg) (s : State) : Host.Outcome State Fault Refusal :=
  run (effBootEnd img) s
/-- BIST_WAVE_END (R376). -/
def execBistWaveEnd (res : List (Nat × Nat × BitVec 24 × BitVec 64)) (s : State) : Host.Outcome State Fault Refusal :=
  run (effBistWaveEnd res) s
/-- BOOT_RELEASE (R374). -/
def execBootRelease (s : State) : Host.Outcome State Fault Refusal :=
  run effBootRelease s
/-- LCY_ADVANCE (R368). -/
def execLcyAdvance (m : MbReq) (target : BitVec 2) (serial : BitVec 64) (s : State) : Host.Outcome State Fault Refusal :=
  run (effLcyAdvance m target serial) s
/-- OTP_FUSE_HASH (R371). -/
def execOtpFuseHash (m : MbReq) (layoutKey : Bool) (hash : Digest) (s : State) : Host.Outcome State Fault Refusal :=
  run (effOtpFuseHash m layoutKey hash) s
/-- DBG_CHALLENGE (R372). -/
def execDbgChallenge (m : MbReq) (s : State) : Host.Outcome State Fault Refusal :=
  run (effDbgChallenge m) s
/-- DBG_AUTH (R372). -/
def execDbgAuth (m : MbReq) (token : Bytes) (s : State) : Host.Outcome State Fault Refusal :=
  run (effDbgAuth m token) s
/-- FW_STAGE (R383). -/
def execFwStage (m : MbReq) (img : FwImg) (s : State) : Host.Outcome State Fault Refusal :=
  run (effFwStage m img) s
/-- FW_ACTIVATE (R383). -/
def execFwActivate (m : MbReq) (reset : Bool) (s : State) : Host.Outcome State Fault Refusal :=
  run (effFwActivate m reset) s
/-- TEL_CFG_WRITE (R385). -/
def execTelCfgWrite (z : ZReq) (k : Nat) (w : Word) (s : State) : Host.Outcome State Fault Refusal :=
  run (effTelCfgWrite z k w) s
/-- TEL_CNT_WRITE (R384). -/
def execTelCntWrite (z : ZReq) (k : Nat) (w : Word) (s : State) : Host.Outcome State Fault Refusal :=
  run (effTelCntWrite z k w) s
/-- ARM_SNAPSHOT (R387). -/
def execArmSnapshot (z : ZReq) (w : Word) (s : State) : Host.Outcome State Fault Refusal :=
  run (effArmSnapshot z w) s
/-- SNAPSHOT_LATCH (R387). -/
def execSnapshotLatch (inst : Nat) (s : State) : Host.Outcome State Fault Refusal :=
  run (effSnapshotLatch inst) s
/-- TEL_TRC_WRITE (R388). -/
def execTelTrcWrite (z : ZReq) (sv : Nat) (w : Word) (s : State) : Host.Outcome State Fault Refusal :=
  run (effTelTrcWrite z sv w) s
/-- TRACE_LINE_FLUSH (R389). -/
def execTraceLineFlush (inst : Nat) (sv : Nat) (s : State) : Host.Outcome State Fault Refusal :=
  run (effTraceLineFlush inst sv) s
/-- ARM_DUMP (R391). -/
def execArmDump (z : ZReq) (d : Nat) (w : Word) (s : State) : Host.Outcome State Fault Refusal :=
  run (effArmDump z d w) s
/-- CANCEL (R392). -/
def execCancel (z : ZReq) (d : Nat) (w : Word) (s : State) : Host.Outcome State Fault Refusal :=
  run (effCancel z d w) s
/-- DUMP_START (R392). -/
def execDumpStart (d : Nat) (s : State) : Host.Outcome State Fault Refusal :=
  run (effDumpStart d) s
/-- DUMP_END (R392). -/
def execDumpEnd (d : Nat) (lines : List (Line × Status)) (s : State) : Host.Outcome State Fault Refusal :=
  run (effDumpEnd d lines) s
/-- TST_FORCE_WRITE (R395). -/
def execTstForceWrite (z : ZReq) (w : Word) (s : State) : Host.Outcome State Fault Refusal :=
  run (effTstForceWrite z w) s
/-- REGISTER_WRITE (R6). -/
def execRegisterWrite (z : ZReq) (wr : Bool) (off : Nat) (w : Word) (s : State) : Host.Outcome State Fault Refusal :=
  run (effRegisterWrite z wr off w) s
/-- LCY_ADVANCE_RESET (R368). -/
def execLcyAdvanceReset (s : State) : Host.Outcome State Fault Refusal :=
  run effLcyAdvanceReset s
/-- OT_RSP_TIMEOUT (R61). -/
def execOtRspTimeout (s : State) : Host.Outcome State Fault Refusal :=
  run effOtRspTimeout s
/-- BASIL_TEST_END (R378). -/
def execBasilTestEnd (isLcs : Bool) (n : Nat) (lane : Option Nat) (failLanes : BitVec 24) (misr : BitVec 64) (s : State) : Host.Outcome State Fault Refusal :=
  run (effBasilTestEnd isLcs n lane failLanes misr) s
/-- MIG_FREEZE_TIMEOUT (R306). -/
def execMigFreezeTimeout (tag : Tag) (s : State) : Host.Outcome State Fault Refusal :=
  run (effMigFreezeTimeout tag) s
/-- QUARANTINE_CHALLENGE_TIMEOUT (R287). -/
def execQuarantineChallengeTimeout (pkg : Pkg) (s : State) : Host.Outcome State Fault Refusal :=
  run (effQuarantineChallengeTimeout pkg) s
/-- PKG_LOST_WAIT_EXPIRY (R354). -/
def execPkgLostWaitExpiry (pkg : Pkg) (s : State) : Host.Outcome State Fault Refusal :=
  run (effPkgLostWaitExpiry pkg) s
/-- MN_WACK_TRANSFER (R32). -/
def execMnWackTransfer (n : Nat) (s : State) : Host.Outcome State Fault Refusal :=
  run (effMnWackTransfer n) s
/-- LT_IR_TRANSFER (R157). -/
def execLtIrTransfer (n : Nat) (s : State) : Host.Outcome State Fault Refusal :=
  run (effLtIrTransfer n) s
/-- HK_READY_ACCEPT (R49). -/
def execHkReadyAccept (s : State) : Host.Outcome State Fault Refusal :=
  run effHkReadyAccept s
/-- WAKE_FROM_SLEEP (R363). -/
def execWakeFromSleep (inst : Nat) (s : State) : Host.Outcome State Fault Refusal :=
  run (effWakeFromSleep inst) s
/-- SNAPSHOT_ARM_ARRIVAL (R387). -/
def execSnapshotArmArrival (r : RingIn) (s : State) : Host.Outcome State Fault Refusal :=
  run (effSnapshotArmArrival r) s
/-- ROOF_SLOT_WRITE (R115). -/
def execRoofSlotWrite (n : Nat) (node slot : Nat) (s : State) : Host.Outcome State Fault Refusal :=
  run (effRoofSlotWrite n node slot) s
/-- ESCALATION_WINDOW_EXPIRY (R346). -/
def execEscalationWindowExpiry (s : State) : Host.Outcome State Fault Refusal :=
  run effEscalationWindowExpiry s
/-- STANDBY_CATCH_UP (R293). -/
def execStandbyCatchUp (s : State) : Host.Outcome State Fault Refusal :=
  run effStandbyCatchUp s

end Sys2Proof.Machine
end

