-- ==== Sys2Proof/Machine/Dispatch.lean ====
section
/-! DEFINITION. The meaning of each command, one arm per constructor of `Instr`. -/

namespace Sys2Proof.Machine

def exec (i : Instr) (s : State) : Host.Outcome State Fault Refusal :=
  match i with
  | .rstHardNAssert => Sys2Proof.Machine.execRstHardNAssert s
  | .rstHardNRelease => Sys2Proof.Machine.execRstHardNRelease s
  | .rstSoft inst => Sys2Proof.Machine.execRstSoft inst s
  | .computeRstIndRise inst => Sys2Proof.Machine.execComputeRstIndRise inst s
  | .computeRstIndFall inst => Sys2Proof.Machine.execComputeRstIndFall inst s
  | .aoPowerCycle inst => Sys2Proof.Machine.execAoPowerCycle inst s
  | .vaoGoodAssert inst => Sys2Proof.Machine.execVaoGoodAssert inst s
  | .vddFailSleep inst => Sys2Proof.Machine.execVddFailSleep inst s
  | .mnReadRequest n rq hw => Sys2Proof.Machine.execMnReadRequest n rq hw s
  | .mnWriteRequest n rq w hw => Sys2Proof.Machine.execMnWriteRequest n rq w hw s
  | .pageReencryptionEnd n => Sys2Proof.Machine.execPageReencryptionEnd n s
  | .hazardEntryCommit n seq => Sys2Proof.Machine.execHazardEntryCommit n seq s
  | .msReadIssue n what => Sys2Proof.Machine.execMsReadIssue n what s
  | .msWriteIssue n what => Sys2Proof.Machine.execMsWriteIssue n what s
  | .msRdataReturn n id data sb poison hw => Sys2Proof.Machine.execMsRdataReturn n id data sb poison hw s
  | .msWackReturn n id => Sys2Proof.Machine.execMsWackReturn n id s
  | .msCreditReturn n rd wr => Sys2Proof.Machine.execMsCreditReturn n rd wr s
  | .deferredVerifyEnd n id hw => Sys2Proof.Machine.execDeferredVerifyEnd n id hw s
  | .mnRdataTransfer n => Sys2Proof.Machine.execMnRdataTransfer n s
  | .mnPntTransfer n => Sys2Proof.Machine.execMnPntTransfer n s
  | .walkFetchStart n cls => Sys2Proof.Machine.execWalkFetchStart n cls s
  | .metadataEviction n item hw => Sys2Proof.Machine.execMetadataEviction n item hw s
  | .keyWaitRelease n => Sys2Proof.Machine.execKeyWaitRelease n s
  | .pairTakeover z k => Sys2Proof.Machine.execPairTakeover z k s
  | .pairTakeoverDone k => Sys2Proof.Machine.execPairTakeoverDone k s
  | .pairHandback z k => Sys2Proof.Machine.execPairHandback z k s
  | .mcsFaultTakeover n sramOk => Sys2Proof.Machine.execMcsFaultTakeover n sramOk s
  | .chiveLaneFailure isLcs n lane => Sys2Proof.Machine.execChiveLaneFailure isLcs n lane s
  | .mcsDualWrite z isLcs n w => Sys2Proof.Machine.execMcsDualWrite z isLcs n w s
  | .mcsWalkWrite z n c w => Sys2Proof.Machine.execMcsWalkWrite z n c w s
  | .create src => Sys2Proof.Machine.execCreate src s
  | .finishLoad src => Sys2Proof.Machine.execFinishLoad src s
  | .adopt src => Sys2Proof.Machine.execAdopt src s
  | .retire src => Sys2Proof.Machine.execRetire src s
  | .retireComplete index => Sys2Proof.Machine.execRetireComplete index s
  | .rekey src => Sys2Proof.Machine.execRekey src s
  | .update src => Sys2Proof.Machine.execUpdate src s
  | .rekeySweepStep n => Sys2Proof.Machine.execRekeySweepStep n s
  | .rekeySweepEnd index => Sys2Proof.Machine.execRekeySweepEnd index s
  | .checkSweepEnd index ans => Sys2Proof.Machine.execCheckSweepEnd index ans s
  | .ltOrRequest inst port xfers => Sys2Proof.Machine.execLtOrRequest inst port xfers s
  | .tlbMissFill inst port => Sys2Proof.Machine.execTlbMissFill inst port s
  | .ltIcCompletion n c hw => Sys2Proof.Machine.execLtIcCompletion n c hw s
  | .ltOcTransfer inst port => Sys2Proof.Machine.execLtOcTransfer inst port s
  | .egressSelect n hw => Sys2Proof.Machine.execEgressSelect n hw s
  | .llTxCreditReturn n crd => Sys2Proof.Machine.execLlTxCreditReturn n crd s
  | .llRxPacket n p hw => Sys2Proof.Machine.execLlRxPacket n p hw s
  | .llUpRise n => Sys2Proof.Machine.execLlUpRise n s
  | .llUpFall n cut => Sys2Proof.Machine.execLlUpFall n cut s
  | .llRxModeChange n mode => Sys2Proof.Machine.execLlRxModeChange n mode s
  | .retrainLimitExpiry n => Sys2Proof.Machine.execRetrainLimitExpiry n s
  | .resyncReq n p => Sys2Proof.Machine.execResyncReq n p s
  | .resyncAck n p => Sys2Proof.Machine.execResyncAck n p s
  | .resyncRetryTimer n pair => Sys2Proof.Machine.execResyncRetryTimer n pair s
  | .esbAdmission inst port => Sys2Proof.Machine.execEsbAdmission inst port s
  | .spillReturn inst => Sys2Proof.Machine.execSpillReturn inst s
  | .esbCtrlWrite z w => Sys2Proof.Machine.execEsbCtrlWrite z w s
  | .esbClassWrite z c w => Sys2Proof.Machine.execEsbClassWrite z c w s
  | .esbWredWrite z x w => Sys2Proof.Machine.execEsbWredWrite z x w s
  | .esbMeterWrite z t hi w => Sys2Proof.Machine.execEsbMeterWrite z t hi w s
  | .lcsRxvcWrite z n v w => Sys2Proof.Machine.execLcsRxvcWrite z n v w s
  | .createWindow src => Sys2Proof.Machine.execCreateWindow src s
  | .delete src => Sys2Proof.Machine.execDelete src s
  | .deleteComplete index => Sys2Proof.Machine.execDeleteComplete index s
  | .homeMaskPublish => Sys2Proof.Machine.execHomeMaskPublish s
  | .homeMaskReceive peer mask => Sys2Proof.Machine.execHomeMaskReceive peer mask s
  | .pathChangeRelease inst dst => Sys2Proof.Machine.execPathChangeRelease inst dst s
  | .readTimeout inst entry => Sys2Proof.Machine.execReadTimeout inst entry s
  | .writeTimeout inst entry => Sys2Proof.Machine.execWriteTimeout inst entry s
  | .atomicResend inst entry => Sys2Proof.Machine.execAtomicResend inst entry s
  | .atomicIndeterminate inst entry => Sys2Proof.Machine.execAtomicIndeterminate inst entry s
  | .arcEntryExpiry n src iinst reqid => Sys2Proof.Machine.execArcEntryExpiry n src iinst reqid s
  | .acquire inst entry => Sys2Proof.Machine.execAcquire inst entry s
  | .peerDead peer => Sys2Proof.Machine.execPeerDead peer s
  | .planInstall src image rd => Sys2Proof.Machine.execPlanInstall src image rd s
  | .planRemove src => Sys2Proof.Machine.execPlanRemove src s
  | .planInvoke src block rd => Sys2Proof.Machine.execPlanInvoke src block rd s
  | .heldPacketExpiry n => Sys2Proof.Machine.execHeldPacketExpiry n s
  | .stepLineProduce n hw => Sys2Proof.Machine.execStepLineProduce n hw s
  | .operandPrefetchReturn inv step data poison status sorrel => Sys2Proof.Machine.execOperandPrefetchReturn inv step data poison status sorrel s
  | .stepInputTimeout inv step => Sys2Proof.Machine.execStepInputTimeout inv step s
  | .invocationEnd inv cause => Sys2Proof.Machine.execInvocationEnd inv cause s
  | .invocationComplete inv => Sys2Proof.Machine.execInvocationComplete inv s
  | .abortRecordExpiry n k => Sys2Proof.Machine.execAbortRecordExpiry n k s
  | .rlCtrlWrite z n w => Sys2Proof.Machine.execRlCtrlWrite z n w s
  | .silentErrorReport r => Sys2Proof.Machine.execSilentErrorReport r s
  | .coverageCounterWrite z isLcs n k w => Sys2Proof.Machine.execCoverageCounterWrite z isLcs n k w s
  | .derive src data rd => Sys2Proof.Machine.execDerive src data rd s
  | .generate src => Sys2Proof.Machine.execGenerate src s
  | .importKey src data rd => Sys2Proof.Machine.execImportKey src data rd s
  | .decaps src data rd => Sys2Proof.Machine.execDecaps src data rd s
  | .invalidate src => Sys2Proof.Machine.execInvalidate src s
  | .exportKey src => Sys2Proof.Machine.execExportKey src s
  | .mintComplete => Sys2Proof.Machine.execMintComplete s
  | .rueSweepVisit => Sys2Proof.Machine.execRueSweepVisit s
  | .keyload inst num role key => Sys2Proof.Machine.execKeyload inst num role key s
  | .layout r => Sys2Proof.Machine.execLayout r s
  | .layoutAck src data => Sys2Proof.Machine.execLayoutAck src data s
  | .layoutAckTimeout inst => Sys2Proof.Machine.execLayoutAckTimeout inst s
  | .push r => Sys2Proof.Machine.execPush r s
  | .fillReq r => Sys2Proof.Machine.execFillReq r s
  | .fillNeg r => Sys2Proof.Machine.execFillNeg r s
  | .evict r => Sys2Proof.Machine.execEvict r s
  | .inval r => Sys2Proof.Machine.execInval r s
  | .invalAck r => Sys2Proof.Machine.execInvalAck r s
  | .grantReq r => Sys2Proof.Machine.execGrantReq r s
  | .grant r => Sys2Proof.Machine.execGrant r s
  | .recall r => Sys2Proof.Machine.execRecall r s
  | .recallAck r => Sys2Proof.Machine.execRecallAck r s
  | .zeroize r => Sys2Proof.Machine.execZeroize r s
  | .roofSlotReadReply n node sealOk => Sys2Proof.Machine.execRoofSlotReadReply n node sealOk s
  | .ringHopBroken inst east => Sys2Proof.Machine.execRingHopBroken inst east s
  | .ringHopRestored inst east => Sys2Proof.Machine.execRingHopRestored inst east s
  | .scuAes256Encrypt z w => Sys2Proof.Machine.execScuAes256Encrypt z w s
  | .scuAes256Decrypt z w => Sys2Proof.Machine.execScuAes256Decrypt z w s
  | .scuAes128Encrypt z w => Sys2Proof.Machine.execScuAes128Encrypt z w s
  | .scuAes128Decrypt z w => Sys2Proof.Machine.execScuAes128Decrypt z w s
  | .scuSha384 z w => Sys2Proof.Machine.execScuSha384 z w s
  | .scuKmac256 z w => Sys2Proof.Machine.execScuKmac256 z w s
  | .scuMlkemKeygen z w => Sys2Proof.Machine.execScuMlkemKeygen z w s
  | .scuMlkemEncaps z w => Sys2Proof.Machine.execScuMlkemEncaps z w s
  | .scuMlkemDecaps z w => Sys2Proof.Machine.execScuMlkemDecaps z w s
  | .scuMldsaKeygen z w => Sys2Proof.Machine.execScuMldsaKeygen z w s
  | .scuMldsaSign z w => Sys2Proof.Machine.execScuMldsaSign z w s
  | .scuMldsaVerify z w => Sys2Proof.Machine.execScuMldsaVerify z w s
  | .scuEcdsaKeygen z w => Sys2Proof.Machine.execScuEcdsaKeygen z w s
  | .scuEcdsaSign z w => Sys2Proof.Machine.execScuEcdsaSign z w s
  | .scuEcdsaVerify z w => Sys2Proof.Machine.execScuEcdsaVerify z w s
  | .scuAbort z => Sys2Proof.Machine.execScuAbort z s
  | .scuXferIn z len => Sys2Proof.Machine.execScuXferIn z len s
  | .scuXferOut z => Sys2Proof.Machine.execScuXferOut z s
  | .scuOpComplete page => Sys2Proof.Machine.execScuOpComplete page s
  | .serviceRequestDescriptor => Sys2Proof.Machine.execServiceRequestDescriptor s
  | .drbgHealthFailure => Sys2Proof.Machine.execDrbgHealthFailure s
  | .sealedStoreUpdate => Sys2Proof.Machine.execSealedStoreUpdate s
  | .flRsp data err => Sys2Proof.Machine.execFlRsp data err s
  | .flashTimeout => Sys2Proof.Machine.execFlashTimeout s
  | .tamperInEvent inst k => Sys2Proof.Machine.execTamperInEvent inst k s
  | .tamperGlitchEvent inst k => Sys2Proof.Machine.execTamperGlitchEvent inst k s
  | .meshTamperEvent inst sns => Sys2Proof.Machine.execMeshTamperEvent inst sns s
  | .voltageTamperEvent inst => Sys2Proof.Machine.execVoltageTamperEvent inst s
  | .clockGlitchEvent inst => Sys2Proof.Machine.execClockGlitchEvent inst s
  | .temperatureTamperEvent inst => Sys2Proof.Machine.execTemperatureTamperEvent inst s
  | .scanRequest inst => Sys2Proof.Machine.execScanRequest inst s
  | .tmTick inst time interp => Sys2Proof.Machine.execTmTick inst time interp s
  | .epochBoundary => Sys2Proof.Machine.execEpochBoundary s
  | .previousEpochKeyErase => Sys2Proof.Machine.execPreviousEpochKeyErase s
  | .epochGrant h max => Sys2Proof.Machine.execEpochGrant h max s
  | .ideKeyProg sess stream sub dir kset key ifv => Sys2Proof.Machine.execIdeKeyProg sess stream sub dir kset key ifv s
  | .ideKSetGo sess stream sub dir kset => Sys2Proof.Machine.execIdeKSetGo sess stream sub dir kset s
  | .ideKSetStop sess stream sub dir kset => Sys2Proof.Machine.execIdeKSetStop sess stream sub dir kset s
  | .hkAck err => Sys2Proof.Machine.execHkAck err s
  | .hkAckTimeout => Sys2Proof.Machine.execHkAckTimeout s
  | .mgPacket type beats => Sys2Proof.Machine.execMgPacket type beats s
  | .getVersion r => Sys2Proof.Machine.execGetVersion r s
  | .getCapabilities r => Sys2Proof.Machine.execGetCapabilities r s
  | .negotiateAlgorithms r => Sys2Proof.Machine.execNegotiateAlgorithms r s
  | .getDigests r => Sys2Proof.Machine.execGetDigests r s
  | .getCertificate r slot => Sys2Proof.Machine.execGetCertificate r slot s
  | .challenge r slot nonce => Sys2Proof.Machine.execChallenge r slot nonce s
  | .getMeasurements r index signed nonce => Sys2Proof.Machine.execGetMeasurements r index signed nonce s
  | .keyExchange r mgmt exch => Sys2Proof.Machine.execKeyExchange r mgmt exch s
  | .finish r chainRoot sigOk => Sys2Proof.Machine.execFinish r chainRoot sigOk s
  | .keyUpdate r => Sys2Proof.Machine.execKeyUpdate r s
  | .heartbeatSpdm r => Sys2Proof.Machine.execHeartbeatSpdm r s
  | .endSession r => Sys2Proof.Machine.execEndSession r s
  | .chunkSend r seq last data => Sys2Proof.Machine.execChunkSend r seq last data s
  | .chunkGet r seq => Sys2Proof.Machine.execChunkGet r seq s
  | .domPolicy r image => Sys2Proof.Machine.execDomPolicy r image s
  | .domResolve r pkg keep => Sys2Proof.Machine.execDomResolve r pkg keep s
  | .domAbort r tag => Sys2Proof.Machine.execDomAbort r tag s
  | .getBundle r off len => Sys2Proof.Machine.execGetBundle r off len s
  | .getMemberEvidence r pkg => Sys2Proof.Machine.execGetMemberEvidence r pkg s
  | .getPqChain r => Sys2Proof.Machine.execGetPqChain r s
  | .getTdispVersion r => Sys2Proof.Machine.execGetTdispVersion r s
  | .getTdispCapabilities r => Sys2Proof.Machine.execGetTdispCapabilities r s
  | .lockInterfaceRequest r tag stream => Sys2Proof.Machine.execLockInterfaceRequest r tag stream s
  | .getDeviceInterfaceReport r tag => Sys2Proof.Machine.execGetDeviceInterfaceReport r tag s
  | .getDeviceInterfaceState r tag => Sys2Proof.Machine.execGetDeviceInterfaceState r tag s
  | .startInterfaceRequest r tag => Sys2Proof.Machine.execStartInterfaceRequest r tag s
  | .stopInterfaceRequest r tag => Sys2Proof.Machine.execStopInterfaceRequest r tag s
  | .relayOut m => Sys2Proof.Machine.execRelayOut m s
  | .relayIn m x => Sys2Proof.Machine.execRelayIn m x s
  | .certLoad m c => Sys2Proof.Machine.execCertLoad m c s
  | .domJoin m dka domain => Sys2Proof.Machine.execDomJoin m dka domain s
  | .domLeave m => Sys2Proof.Machine.execDomLeave m s
  | .pairConnect m inst peer => Sys2Proof.Machine.execPairConnect m inst peer s
  | .pairConnectTimeout peer => Sys2Proof.Machine.execPairConnectTimeout peer s
  | .tinstCreate m tag pasid tdisp ifid => Sys2Proof.Machine.execTinstCreate m tag pasid tdisp ifid s
  | .tinstDestroy m tag => Sys2Proof.Machine.execTinstDestroy m tag s
  | .migOpen m tag peer source evidenceOk kem transcript => Sys2Proof.Machine.execMigOpen m tag peer source evidenceOk kem transcript s
  | .migFreeze m tag => Sys2Proof.Machine.execMigFreeze m tag s
  | .migExport m tag => Sys2Proof.Machine.execMigExport m tag s
  | .migRestore m tag blob data => Sys2Proof.Machine.execMigRestore m tag blob data s
  | .migAbort m tag => Sys2Proof.Machine.execMigAbort m tag s
  | .restored h tag => Sys2Proof.Machine.execRestored h tag s
  | .commit h tag go => Sys2Proof.Machine.execCommit h tag go s
  | .migrationAnswerTimeout tag released => Sys2Proof.Machine.execMigrationAnswerTimeout tag released s
  | .join h => Sys2Proof.Machine.execJoin h s
  | .challengeDomain h nonce => Sys2Proof.Machine.execChallengeDomain h nonce s
  | .evidence h e => Sys2Proof.Machine.execEvidence h e s
  | .admissionTimeout ident => Sys2Proof.Machine.execAdmissionTimeout ident s
  | .admitMember h a => Sys2Proof.Machine.execAdmitMember h a s
  | .refuse h st => Sys2Proof.Machine.execRefuse h st s
  | .quarantine h pkg => Sys2Proof.Machine.execQuarantine h pkg s
  | .rebind h pkg ident => Sys2Proof.Machine.execRebind h pkg ident s
  | .releasePeer h pkg => Sys2Proof.Machine.execReleasePeer h pkg s
  | .leave h => Sys2Proof.Machine.execLeave h s
  | .bindQuery h pkg claim answer => Sys2Proof.Machine.execBindQuery h pkg claim answer s
  | .hello h ek lcs => Sys2Proof.Machine.execHello h ek lcs s
  | .helloAck h ct pairs => Sys2Proof.Machine.execHelloAck h ct pairs s
  | .helloFin h epoch => Sys2Proof.Machine.execHelloFin h epoch s
  | .heartbeat h => Sys2Proof.Machine.execHeartbeat h s
  | .dkaHeartbeatTimer => Sys2Proof.Machine.execDkaHeartbeatTimer s
  | .standbyHeartbeatLoss => Sys2Proof.Machine.execStandbyHeartbeatLoss s
  | .takeover h => Sys2Proof.Machine.execTakeover h s
  | .takeoverAck h => Sys2Proof.Machine.execTakeoverAck h s
  | .domainReplicationAck => Sys2Proof.Machine.execDomainReplicationAck s
  | .domainReplicationTimeout => Sys2Proof.Machine.execDomainReplicationTimeout s
  | .oosNotice h => Sys2Proof.Machine.execOosNotice h s
  | .pkgLost h pkg => Sys2Proof.Machine.execPkgLost h pkg s
  | .ctxQtailWrite z q w => Sys2Proof.Machine.execCtxQtailWrite z q w s
  | .queueCommandStart q slots rd => Sys2Proof.Machine.execQueueCommandStart q slots rd s
  | .completionRecordWrite q wr => Sys2Proof.Machine.execCompletionRecordWrite q wr s
  | .nop src => Sys2Proof.Machine.execNop src s
  | .ctxDefine src => Sys2Proof.Machine.execCtxDefine src s
  | .ctxDestroy src => Sys2Proof.Machine.execCtxDestroy src s
  | .ctxSeal src => Sys2Proof.Machine.execCtxSeal src s
  | .ctxRestore src => Sys2Proof.Machine.execCtxRestore src s
  | .qCreate src => Sys2Proof.Machine.execQCreate src s
  | .qDestroy src => Sys2Proof.Machine.execQDestroy src s
  | .qRestart src => Sys2Proof.Machine.execQRestart src s
  | .fncCreate src => Sys2Proof.Machine.execFncCreate src s
  | .hold src => Sys2Proof.Machine.execHold src s
  | .release src => Sys2Proof.Machine.execRelease src s
  | .objectFree type index => Sys2Proof.Machine.execObjectFree type index s
  | .kernelCommandGo z w => Sys2Proof.Machine.execKernelCommandGo z w s
  | .ctxStoreLock z w => Sys2Proof.Machine.execCtxStoreLock z w s
  | .jnlBaseLock z w => Sys2Proof.Machine.execJnlBaseLock z w s
  | .fenceSignalApply src => Sys2Proof.Machine.execFenceSignalApply src s
  | .fenceWaitSatisfied q => Sys2Proof.Machine.execFenceWaitSatisfied q s
  | .signal f => Sys2Proof.Machine.execSignal f s
  | .signalAck f => Sys2Proof.Machine.execSignalAck f s
  | .signalResendTimer src => Sys2Proof.Machine.execSignalResendTimer src s
  | .subscribe f => Sys2Proof.Machine.execSubscribe f s
  | .unsubscribe f => Sys2Proof.Machine.execUnsubscribe f s
  | .updateFence f => Sys2Proof.Machine.execUpdateFence f s
  | .query f => Sys2Proof.Machine.execQuery f s
  | .queryTimer index => Sys2Proof.Machine.execQueryTimer index s
  | .fenceSlotFree index => Sys2Proof.Machine.execFenceSlotFree index s
  | .sealStreamLine n write rq data sb => Sys2Proof.Machine.execSealStreamLine n write rq data sb s
  | .sealEnd slot => Sys2Proof.Machine.execSealEnd slot s
  | .restoreEnd slot => Sys2Proof.Machine.execRestoreEnd slot s
  | .sealTimeout slot restore => Sys2Proof.Machine.execSealTimeout slot restore s
  | .abort z => Sys2Proof.Machine.execAbort z s
  | .soft z => Sys2Proof.Machine.execSoft z s
  | .hard z => Sys2Proof.Machine.execHard z s
  | .oosClear z sess => Sys2Proof.Machine.execOosClear z sess s
  | .abortFlitReceive n f => Sys2Proof.Machine.execAbortFlitReceive n f s
  | .bayFreezeRelease => Sys2Proof.Machine.execBayFreezeRelease s
  | .bayCtrlWrite z w => Sys2Proof.Machine.execBayCtrlWrite z w s
  | .replicationAck => Sys2Proof.Machine.execReplicationAck s
  | .replicationTimeout => Sys2Proof.Machine.execReplicationTimeout s
  | .spFullCopyEnd => Sys2Proof.Machine.execSpFullCopyEnd s
  | .leaseRenewalTimer reached => Sys2Proof.Machine.execLeaseRenewalTimer reached s
  | .leaseExpiry => Sys2Proof.Machine.execLeaseExpiry s
  | .ppHeartbeat => Sys2Proof.Machine.execPpHeartbeat s
  | .ppHeartbeatLoss => Sys2Proof.Machine.execPpHeartbeatLoss s
  | .leaseReq pkg afterExpiry => Sys2Proof.Machine.execLeaseReq pkg afterExpiry s
  | .leaseGrant => Sys2Proof.Machine.execLeaseGrant s
  | .relinquish => Sys2Proof.Machine.execRelinquish s
  | .bayOltTakeOut z w => Sys2Proof.Machine.execBayOltTakeOut z w s
  | .bayOltReturn z w => Sys2Proof.Machine.execBayOltReturn z w s
  | .lcsRejoinHoldExpiry n => Sys2Proof.Machine.execLcsRejoinHoldExpiry n s
  | .sliceRejoinBist isLcs n => Sys2Proof.Machine.execSliceRejoinBist isLcs n s
  | .otGnt inst level => Sys2Proof.Machine.execOtGnt inst level s
  | .otRsp data err => Sys2Proof.Machine.execOtRsp data err s
  | .bootReq => Sys2Proof.Machine.execBootReq s
  | .bootData off data => Sys2Proof.Machine.execBootData off data s
  | .bootEnd img => Sys2Proof.Machine.execBootEnd img s
  | .bistWaveEnd res => Sys2Proof.Machine.execBistWaveEnd res s
  | .bootRelease => Sys2Proof.Machine.execBootRelease s
  | .lcyAdvance m target serial => Sys2Proof.Machine.execLcyAdvance m target serial s
  | .otpFuseHash m layoutKey hash => Sys2Proof.Machine.execOtpFuseHash m layoutKey hash s
  | .dbgChallenge m => Sys2Proof.Machine.execDbgChallenge m s
  | .dbgAuth m token => Sys2Proof.Machine.execDbgAuth m token s
  | .fwStage m img => Sys2Proof.Machine.execFwStage m img s
  | .fwActivate m reset => Sys2Proof.Machine.execFwActivate m reset s
  | .telCfgWrite z k w => Sys2Proof.Machine.execTelCfgWrite z k w s
  | .telCntWrite z k w => Sys2Proof.Machine.execTelCntWrite z k w s
  | .armSnapshot z w => Sys2Proof.Machine.execArmSnapshot z w s
  | .snapshotLatch inst => Sys2Proof.Machine.execSnapshotLatch inst s
  | .telTrcWrite z sv w => Sys2Proof.Machine.execTelTrcWrite z sv w s
  | .traceLineFlush inst sv => Sys2Proof.Machine.execTraceLineFlush inst sv s
  | .armDump z d w => Sys2Proof.Machine.execArmDump z d w s
  | .cancel z d w => Sys2Proof.Machine.execCancel z d w s
  | .dumpStart d => Sys2Proof.Machine.execDumpStart d s
  | .dumpEnd d lines => Sys2Proof.Machine.execDumpEnd d lines s
  | .tstForceWrite z w => Sys2Proof.Machine.execTstForceWrite z w s
  | .registerWrite z wr off w => Sys2Proof.Machine.execRegisterWrite z wr off w s
  | .lcyAdvanceReset => Sys2Proof.Machine.execLcyAdvanceReset s
  | .otRspTimeout => Sys2Proof.Machine.execOtRspTimeout s
  | .basilTestEnd isLcs n lane failLanes misr => Sys2Proof.Machine.execBasilTestEnd isLcs n lane failLanes misr s
  | .migFreezeTimeout tag => Sys2Proof.Machine.execMigFreezeTimeout tag s
  | .quarantineChallengeTimeout pkg => Sys2Proof.Machine.execQuarantineChallengeTimeout pkg s
  | .pkgLostWaitExpiry pkg => Sys2Proof.Machine.execPkgLostWaitExpiry pkg s
  | .mnWackTransfer n => Sys2Proof.Machine.execMnWackTransfer n s
  | .ltIrTransfer n => Sys2Proof.Machine.execLtIrTransfer n s
  | .hkReadyAccept => Sys2Proof.Machine.execHkReadyAccept s
  | .wakeFromSleep inst => Sys2Proof.Machine.execWakeFromSleep inst s
  | .snapshotArmArrival r => Sys2Proof.Machine.execSnapshotArmArrival r s
  | .roofSlotWrite n node slot => Sys2Proof.Machine.execRoofSlotWrite n node slot s
  | .escalationWindowExpiry => Sys2Proof.Machine.execEscalationWindowExpiry s
  | .standbyCatchUp => Sys2Proof.Machine.execStandbyCatchUp s

end Sys2Proof.Machine
end

