-- ==== Sys2Proof/Safety.lean ====
section
/-! DEFINITION. What counts as a safe run of the block, and the conditions on a state in which a command is served,
in the terms the statements use. -/

namespace Sys2Proof.Machine

/-- The state after some steps; none where one of them faults or refuses. -/
def steps : Nat → State → Option State
  | 0, s => some s
  | n + 1, s =>
    match step s with
    | .next t => steps n t
    | _ => none

/-- No Bay abort that is due waits to start (R347, R351). -/
abbrev noAbortWaits (s : State) : Prop := s.b.bay.due = none

/-- A finite exact sum is normalised, or as R199 says where EXP would go below its range. -/
def xpStored : Xp → Prop
  | .fin sig ex => (sig = 0 ∧ ex = 0)
      ∨ (-32767 ≤ ex ∧ ex ≤ 32767 ∧ ((2 ^ 142 ≤ sig ∧ sig < 2 ^ 143) ∨ (-(2 ^ 143) ≤ sig ∧ sig < -(2 ^ 142))))
      ∨ (ex = -32767 ∧ -(2 ^ 142) ≤ sig ∧ sig < 2 ^ 142)
  | _ => True

/-- The state with a block that an effect has left, once what follows by itself has gone on (log 17); the queue is as it
was. -/
def State.settled (s : State) (b : Block) : State := { s with b := settle b }

/-- The state after an effect on the block, and what follows it. -/
def after (f : Block → Block) (s : State) : State := s.settled (f s.b)

/-- A ZCP write is served (R21, R22, R29): the instance is released and nothing refuses the access. -/
abbrev served (b : Block) (z : ZReq) (w : Window) : Prop :=
  (getInst b z.inst).released = true ∧ zcpRefusal b z true w = none

/-- The block once an engine's register has taken a command (R20, R69, R360): answered OK, at the acting primary, the
engine idle, the journal locked and with room; busy with its journal entry. None where it is not taken. -/
def takenReg (e : Eng) (z : ZReq) (sub : Nat) (b : Block) : Option Block :=
  if (getInst b z.inst).released && (zcpRefusal b z true (engWindow e)).isNone && e != .none then
    let b := zcpRsp z.inst .ok b
    let s := engSts b e
    if isPrimary b z.inst && !s.busy && b.jnl.lock then
      match jnlAccept 1 0 0 sub 0 0 0 b with
      | some (q, b) => some (setEngSts e { s with busy := true, lastOp := sub, jseq := q } b)
      | none => none
    else none
  else none

/-- The block once a queue's or the kernel command port's ready command of an operation has begun at its engine, its turn
come (R321, R325, R332). -/
def takenReady (src : Src) (op : Nat) (more : Cmd → Bool) (b : Block) : Option Block :=
  match srcCmd b src with
  | none => none
  | some c =>
    if c.phase = .ready ∧ c.op = op ∧ more c then
      match opEngine op with
      | none => some (updCmd src (fun c => { c with phase := .running }) b)
      | some e =>
        match arbPick (engineHeads b e) b.cm.drr (Sparse.get {} b.cm.arb e) with
        | some (h, a) =>
          if h.who = srcHead src then
            some (updCmd src (fun c => { c with phase := .running }) { b with cm := { b.cm with arb := Sparse.set {} b.cm.arb e a } })
          else none
        | none => none
    else none

/-- The block once a command of an engine is taken, in either form (R74, R163, R250, R321, R325). -/
def taken (e : Eng) (src : Src) (op sub : Nat) (b : Block) : Option Block :=
  match src with
  | .reg z _ => takenReg e z sub b
  | s => takenReady s op (fun cmd => e == .none || engOp e (opWord cmd 40) == sub) b

/-- The block once a queue's or the kernel command port's command without a register form has begun. -/
def takenLocal (src : Src) (op : Nat) (b : Block) : Option Block :=
  match src with
  | .reg _ _ => none
  | s => takenReady s op (fun _ => true) b

/-- A domain message is taken (R283): by its signature or the UP pair it came over, its DOMAIN_ID, its sequence number, and a
sender that `known` says is admitted or in a handshake. -/
def heardOk (h : DomHdr) (known : Block → Bool) (b : Block) : Bool :=
  let last := ((b.trust.dom.seen.find? (fun e => e.1 == h.ident)).map (·.2)).getD 0
  mailUp b && ((if h.onPair then upWith b h.sender else h.sigOk) && h.domain == b.trust.dom.id && decide (last < h.seq.toNat) && known b)

/-- The block once a domain message is taken: its number is the last one seen of its sender. -/
def heard (h : DomHdr) (known : Block → Bool) (b : Block) : Option Block :=
  if heardOk h known b then some (updDom (fun d => { d with seen := (h.ident, h.seq.toNat) :: d.seen.filter (fun e => e.1 != h.ident) }) b)
  else none

/-- The message and the block once a sealed message of a kind reaches an instance (R55, R56, R255): the first of its source on an open
way, all its transfers there and past the seal check; what came in and the SEQ of its source are kept. -/
def ringHeard (r : RingIn) (p : RingMsg → Bool) (b : Block) : Option (RingPkt × Block) :=
  match ringTake r.inst p b with
  | none => none
  | some (e, b) =>
    if ringGood b r.inst r.data && decide (r.data.length = ringParts e.msg) then
      some (e, updInst r.inst (fun s => { s with prRx := r.data, ringRx := ringSeen s.ringRx r.data }) b)
    else none

/-- The responder answers (R278): the acting primary is released, and the boot has not halted. -/
abbrev answering (b : Block) : Prop := mailUp b = true ∧ b.boot.halted = false

/-- A request speaks in the open secured session `x`, which is not the management one (R278, R310, R311). -/
abbrev speaksIn (r : SpdmReq) (x : Sess) (b : Block) : Prop :=
  answering b ∧ r.sess.bind (openSess b (some r.tr)) = some x ∧ x.mgmt = false

/-- A mailbox command is taken (R52, R311, R360): the boot has not halted, the mailbox answers, the requester has the right,
and the journal takes its entry. -/
def mailTaken (m : MbReq) (code : Nat) (who : List Attr) (b : Block) : Option (MbJob × Block) :=
  if !b.boot.halted && mailUp b && who.contains m.attr && (m.attr != .m || mgmtSess b m.sess) then
    match jnlAccept (if m.attr = .m then 3 else 2) 0 code 0 0 m.token 0 b with
    | some (q, b) => some ({ code := code, req := m, jseq := q, arg := 0 }, b)
    | none => none
  else none

end Sys2Proof.Machine
end

