-- ==== Sys2Proof/WellFormed.lean ====
section
/-! DEFINITION. Commands that a sender can send: byte strings no longer than what carries them. -/

namespace Sys2Proof

/-- BOOT_DATA carries at most 4 KiB (13, Boot); a request on LT_OR has one to four transfers (R167). -/
def wellFormed : Instr → Bool
  | .bootData _ data => decide (data.length ≤ 4096)
  | .ltOrRequest _ _ xfers => decide (1 ≤ xfers.length ∧ xfers.length ≤ 4)
  | _ => true

end Sys2Proof
end

