-- ==== Sys2Proof/Certificates/Slice0/Obligations.lean ====
section
/-! DEFINITION. The statements for the provers. A completion statement gives the next state of a command as its own effect on
the block, under conditions on the state and the operands alone; `after f` and `settled` add what follows by itself (log 17),
and leave the queue as it was. What a named effect leaves out of its record update is unchanged: that is its frame. -/

section
open Sys2Proof Sys2Proof.Machine

/-- R343, R29: hard reset and the AO island. RST_HARD_N low leaves an instance's build, its AO island and the firmware slot
state, and everything else at reset; its release starts the boot (step 2, R374); an AO power cycle clears the
island as well; VAO_GOOD rising starts the boot of a package that has come up; VDD lost with VAO held is sleep (R17, R363), and
the wake from it is Out-of-Service where the island latched tamper in sleep. -/
def Obligations.HardResetEvents : Prop :=
  (∀ s : State, exec .rstHardNAssert s = .next { s with b :=
      { freeCtr := s.b.freeCtr
        inst := Sparse.mapAll {} s.b.inst (fun _ d => { built := d.built, nMcs := d.nMcs, nLcs := d.nLcs, primary := d.primary, ao := d.ao })
        boot := { hard := true, aoFw := s.b.boot.aoFw } } })
  ∧ (∀ s : State, s.b.boot.hard = true → s.b.boot.step = 0 → s.b.inst.all (fun e => !e.2.ao.asleep) = true →
      s.b.inst.any (fun e => e.2.built && e.2.primary && e.2.ao.good) = true →
      exec .rstHardNRelease s = .next (after (fun b =>
        { b with boot := { b.boot with hard := false, step := 2 }, otp := { b.otp with own := true } }) s))
  ∧ (∀ (s : State) (i : Nat), (getInst s.b i).built = true → (getInst s.b i).primary = false →
      exec (.aoPowerCycle i) s = .next (after (fun b => startBoot (updAo i (fun _ => { cold := true }) (hardReset b))) s))
  ∧ (∀ (s : State) (i : Nat), (getInst s.b i).built = true →
      exec (.vaoGoodAssert i) s = .next (after (fun b => startBoot (updAo i (fun a => { a with good := true }) b)) s))
  ∧ (∀ (s : State) (i : Nat), (getInst s.b i).built = true → (getInst s.b i).ao.good = true → (getInst s.b i).ao.asleep = false →
      exec (.vddFailSleep i) s = .next (after (fun b => updAo i (fun a => { a with asleep := true }) (hardReset b)) s))
  ∧ (∀ (s : State) (i : Nat), (getInst s.b i).ao.asleep = true →
      exec (.wakeFromSleep i) s = .next (after (fun b =>
        startBoot (updAo i (fun a => { a with asleep := false, oos := a.oos || (a.sleep && a.latch != 0) }) b)) s))

/-- R66, R343 to R346: the block soft reset through RST_SOFT begins at a released instance and runs as `softBegin` (its ports
take nothing more; its fabric requests and invocations end ABORTED); BAY_CMD.SOFT and HARD from the kernel are owed and taken
once no Sealed Store update is in progress; a compute reset's rise counts towards the escalation and ends the die's work with
ABORTED, its fall lets queues restart, and an escalation window's end takes one from the count. -/
def Obligations.SoftAndComputeResets : Prop :=
  (∀ (s : State) (i : Nat), (getInst s.b i).released = true → s.b.bay.softDue = [] →
      exec (.rstSoft i) s = .next (after (fun b => softBegin i { b with bay := { b.bay with softDue := [(i, false)] } }) s))
  ∧ (∀ (s : State) (z : ZReq), served s.b z .bay → z.attr = .k →
      exec (.soft z) s = .next (after (fun b => let b := zcpRsp z.inst .ok b
        { b with bay := { b.bay with softDue := b.bay.softDue ++ [(z.inst, true)] } }) s))
  ∧ (∀ (s : State) (z : ZReq), served s.b z .bay → z.attr = .k →
      exec (.hard z) s = .next (after (fun b => let b := zcpRsp z.inst .ok b
        ideStopAll { b with bay := { b.bay with hardDue := true } }) s))
  ∧ (∀ (s : State) (i : Nat), (getInst s.b i).released = true → (getInst s.b i).crst = false →
      exec (.computeRstIndRise i) s = .next (after (fun b =>
        let b := count { inst := i } (evBay 1) (updInst i (fun d => { d with crst := true }) b)
        let mine := fun (c : Ctx) => (ctxsOn b i).contains c.toNat
        let b := { b with bay := { b.bay with quiesce := b.bay.quiesce
          ++ ((ctxsOn b i).map (fun c => BitVec.ofNat 16 c)).filter (fun c => !b.bay.quiesce.contains c) } }
        let b := (b.cm.queues.filter (fun q => q.2.state != .free && mine q.2.ctx)).foldl (fun b q => abortQueue q.1 b) b
        let b := stopSeals mine .aborted b
        let b := (b.mcs.filter (fun m => m.2.present && m.2.inst == i)).foldl (fun b m => killMn m.1 (fun _ => true) .aborted b) b
        let b := killInst i (fun _ => true) .aborted .aborted (killHeld i (fun _ => true) .aborted .aborted b)
        let b := copyEsc { b with bay := { b.bay with crst := min 15 (b.bay.crst + 1) } }
        if b.bay.escN ≤ b.bay.crst ∧ packageOos b = false then enterOos .outOfService b else b) s))
  ∧ (∀ (s : State) (i : Nat), exec (.computeRstIndFall i) s = .next (after (updInst i (fun d => { d with crst := false })) s))
  ∧ (∀ s : State, exec .escalationWindowExpiry s = .next (after (fun b =>
      copyEsc { b with bay := { b.bay with crst := b.bay.crst - 1 } }) s))

/-- R67, R362, R363: each of the nine tamper sources of Table 12.9, at an armed die after release and awake, latches its own bit,
counts, raises INT[8], sends the origin's abort flits while K_BAY is there, zeroizes and enters Out-of-Service, and owes a Bay
abort with cause TAMPER and this package as origin; at a die that is not armed nothing happens. The mesh source is
the third sample in a row that differs from the level driven; an equal sample starts the count afresh. -/
def Obligations.TamperEvents : Prop :=
  (∀ (s : State) (i bit : Nat), (getInst s.b i).ao.armed = true → (getInst s.b i).ao.asleep = false →
      (getInst s.b i).released = true → s.b.boot.hard = false →
      tamper i bit s.b =
        (let b := updAo i (fun a => { a with latch := a.latch ||| BitVec.ofNat 9 (2 ^ bit), count := min 65535 (a.count + 1), sleep := a.sleep || a.asleep }) s.b
         let b := count { inst := i } (evBay 4) (raise i 8 b)
         let b := if b.bay.state != 1 && inDomain b then floodAbort .tamper b else b
         let b := enterOos .tamper (zeroize i b)
         { b with bay := { b.bay with due := some (.tamper, b.trust.dom.pkg) } }))
  ∧ (∀ (s : State) (i bit : Nat), (getInst s.b i).ao.armed = false → tamper i bit s.b = s.b)
  ∧ (∀ (s : State) (i : Nat) (k : BitVec 2),
      exec (.tamperInEvent i k) s = .next (after (tamper i k.toNat) s)
      ∧ exec (.tamperGlitchEvent i k) s = .next (after (tamper i 4) s)
      ∧ exec (.meshTamperEvent i (!Config.meshDrive i (getInst s.b i).ao.meshN)) s = .next (after (fun b =>
          if (getInst b i).ao.meshMiss < 2 then updAo i (fun a => { a with meshN := a.meshN + 1, meshMiss := (getInst b i).ao.meshMiss + 1 }) b
          else tamper i 5 (updAo i (fun a => { a with meshN := a.meshN + 1, meshMiss := 0 }) b)) s)
      ∧ exec (.meshTamperEvent i (Config.meshDrive i (getInst s.b i).ao.meshN)) s = .next (after
          (updAo i (fun a => { a with meshN := a.meshN + 1, meshMiss := 0 })) s)
      ∧ exec (.voltageTamperEvent i) s = .next (after (tamper i 6) s)
      ∧ exec (.clockGlitchEvent i) s = .next (after (tamper i 7) s)
      ∧ exec (.temperatureTamperEvent i) s = .next (after (tamper i 8) s))

/-- R68: a scan request in the TEST state is granted; outside it, at a released and armed die whose scan log has room, the AO
count rises, the block zeroizes and enters Out-of-Service with cause TAMPER, and the request is put to SCAN_LOG. -/
def Obligations.ScanRequest : Prop :=
  (∀ (s : State) (i : Nat), (getInst s.b i).built = true → s.b.boot.hard = false → 3 ≤ s.b.boot.step → s.b.otp.lc = .test →
      exec (.scanRequest i) s = .next (after (updUnits i (fun u => { u with scan := some .ok })) s))
  ∧ (∀ (s : State) (i : Nat), (getInst s.b i).built = true → s.b.boot.hard = false → 3 ≤ s.b.boot.step → s.b.otp.lc ≠ .test →
      (getInst s.b i).ao.armed = true → (getInst s.b i).released = true →
      let b := updAo i (fun a => { a with count := min 65535 (a.count + 1) }) s.b
      let b := enterOos .tamper (zeroize i (count { inst := i } (evBay 4) (raise i 8 b)))
      scanCount b + scanWaiting b < 64 →
      exec (.scanRequest i) s = .next (s.settled (otpQueue (.scan i) (updUnits i (fun u => { u with scan := none }) b))))

/-- R346, R347, R351: BAY_CMD.ABORT and BAY_CTRL from the kernel and OOS_CLEAR from an open management session, each served,
have their effects; the end of the freeze of a package outside a domain and without an armed Out-of-Service copy returns it to
normal; an accepted abort flit (domain, tag, time and order good) owes the abort it carries. -/
def Obligations.BayControl : Prop :=
  (∀ (s : State) (z : ZReq), served s.b z .bay → z.attr = .k →
      exec (.abort z) s = .next (after (fun b => let b := zcpRsp z.inst .ok b
        { b with bay := { b.bay with due := b.bay.due.or (some (.aborted, b.trust.dom.pkg)) } }) s))
  ∧ (∀ (s : State) (z : ZReq) (w : Word), served s.b z .bay → z.attr = .k →
      exec (.bayCtrlWrite z w) s = .next (after (fun b => let b := zcpRsp z.inst .ok b
        copyEsc { b with bay := { b.bay with
          tagTh := fieldNat w 7 0, sorTh := fieldNat w 15 8, resTh := fieldNat w 23 16, winMs := max 1 (fieldNat w 31 24),
          escN := max 1 (fieldNat w 35 32), escWin := max 1 (fieldNat w 63 48) } }) s))
  ∧ (∀ (s : State) (z : ZReq) (n : Nat), served s.b z .bay → z.attr = .m → mgmtSess s.b (some n) = true →
      exec (.oosClear z (some n)) s = .next (after (fun b =>
        let b := updArmed (fun a => { a with oos := false, latch := 0, sleep := false, crst := 0 }) (jnlWhole 3 0 3 0 0 0 .ok 0 (zcpRsp z.inst .ok b))
        { b with bay := { b.bay with state := if b.bay.state = 2 then 0 else b.bay.state, crst := 0 } }) s))
  ∧ (∀ s : State, s.b.bay.state = 1 → domRest s.b = true → inDomain s.b = false → s.b.bay.cause ≠ .tamper →
      s.b.inst.any (fun e => e.2.ao.armed && e.2.ao.oos) = false →
      exec .bayFreezeRelease s = .next (after (fun b =>
        let b := { b with bay := { b.bay with state := 0, lastRel := b.time }, inst := Sparse.mapAll {} b.inst (fun _ d => { d with freeze := false }) }
        b.esb.foldl (fun b e => stageWaiting e.1 b) b) s))
  ∧ (∀ (s : State) (n : Nat) (f : Flit) (key : Key), (getLcs s.b n).present = true → (getInst s.b (getLcs s.b n).inst).released = true →
      (getLport s.b n).up = true → (getLport s.b n).mode = false → (getLport s.b n).rxOpen = none →
      (getLport s.b n).rxStray.contains (ctlVc s.b n) = false → ctlVc s.b n < 8 → 0 < (getLport s.b n).rxGrant.getD (ctlVc s.b n) 0 →
      (bytesOfFlits [f]).take 8 = abortMarker →
      let b := giveFlits n (ctlVc s.b n) 1 (updLport n (fun x => { x with rxOpen := none }) (holdFlit n (ctlVc s.b n) s.b))
      let l := leBytes 64 f.toNat
      let t := leNat ((l.drop 20).take 8)
      let now := (thyme b (getLcs b n).inst).toNat
      l.take 8 = abortMarker → leNat ((l.drop 8).take 8) = b.trust.dom.id.toNat → b.trust.dom.state = .admitted → (getLport b n).kBay = some key →
      gcmTag (keyBytes key) ((l.drop 20).take 8 ++ (l.drop 16).take 2 ++ [0, 0]) (l.take 48) [] = l.drop 48 →
      t ≤ now + 1000000 → now ≤ t + 1000000 → b.bay.lastRel.toNat < t → b.bay.state ≠ 1 → b.bay.due = none →
      let due := some (statusOf ((l[18]?).getD 0).toNat, BitVec.ofNat 14 (leNat ((l.drop 16).take 2)))
      exec (.abortFlitReceive n f) s = .next (s.settled { b with bay := { b.bay with due := due } }))

/-- R16, R364, R378: online test and rejoin. Taking a lane out on a spare, the return of a unit, the rejoin of an LCS that is
out, the outcome of a slice's rejoin test and of a lane's online test, a lane's own failure on a spare (R12, R359), and the end
of the 24 µs for which an LCS that left stays out of the home mask. -/
def Obligations.OnlineTest : Prop :=
  (∀ (s : State) (z : ZReq) (w : Word), served s.b z .bay → z.attr = .k →
      let b := zcpRsp z.inst .ok s.b
      let o := oltOf w
      o.kind = 2 → o.isLcs = true → o.lane < 18 → (getUnits b z.inst).olt.busy = false → oltHeld b z.inst 2 o.unit true = true →
      laneIsOut b z.inst o = false → 0 < (getLcs b o.unit).spares →
      exec (.bayOltTakeOut z w) s = .next (s.settled (oltEnd z.inst .ok (laneOut true o.unit o.lane b))))
  ∧ (∀ (s : State) (z : ZReq) (w : Word), served s.b z .bay → z.attr = .k →
      let b := zcpRsp z.inst .ok s.b
      let o := oltOf w
      o.kind = 1 → (getUnits b z.inst).olt.busy = false → oltHeld b z.inst 1 o.unit o.isLcs = true → (getLcs b o.unit).state = .outOfService →
      exec (.bayOltReturn z w) s = .next (s.settled (updOlt z.inst (fun _ => { o with testing := true }) b)))
  ∧ (∀ (s : State) (n : Nat), (getLcs s.b n).present = true → (getLcs s.b n).state = .outOfService →
      (getUnits s.b (getLcs s.b n).inst).rejoin.contains (true, n) = false → (getInst s.b (getLcs s.b n).inst).released = true →
      exec (.sliceRejoinBist true n) s = .next (after (fun b => updUnits (getLcs b n).inst (fun u => { u with rejoin := u.rejoin ++ [(true, n)] }) b) s))
  ∧ (∀ (s : State) (n : Nat) (lanes : BitVec 24) (misr : BitVec 64), let i := (getLcs s.b n).inst
      let used := ((List.range 24).filter (fun k => lanes.getLsbD k)).length
      misrOk (bstUnit s.b true n) misr = true → used ≤ min 2 (getLcs s.b n).spares → (getUnits s.b i).olt.busy = false → (getUnits s.b i).rejoin.contains (true, n) = true →
      exec (.basilTestEnd true n none lanes misr) s = .next (after (fun b => raise i 10 (updLcs n (fun x => { x with state := .inService, spares := x.spares - used })
        (updUnits i (fun u => { u with rejoin := u.rejoin.filter (· != (true, n)) }) (setBst i (bstUnit b true n) true lanes misr b)))) s))
  ∧ (∀ (s : State) (n lane : Nat), (getLcs s.b n).present = true → 0 < (getLcs s.b n).spares →
      exec (.chiveLaneFailure true n lane) s = .next (after (laneOut true n lane) s))
  ∧ (∀ (s : State) (n : Nat) (t : BitVec 64), (getLport s.b n).leftMask = some t → t.toNat + 24000 ≤ s.b.time.toNat →
      exec (.lcsRejoinHoldExpiry n) s = .next (after (updLport n (fun p => { p with leftMask := none })) s))

/-- R32 to R34, R69, R90, R118: what MN_ takes and gives. A read that is judged good at an MCS in service is kept with its
region as it was matched and goes as far as it can; a write judged good without a check value (R101) gets a hazard entry; a
refused read is answered at once with its status, a zero line and poison; and the oldest line, acknowledgement and poison notice
each leave when they are accepted. -/
def Obligations.MemoryRequests : Prop :=
  (∀ (s : State) (n : Nat) (rq : MnReq) (k : Nat) (r : Rgn), (getMcs s.b n).present = true → (getInst s.b (getMcs s.b n).inst).released = true →
      (getMcs s.b n).state ≠ .down → (getPort s.b n).drain = false → (getPort s.b n).soft = false → (getPort s.b n).pnt.length < 64 →
      rdIdBusy (getPort s.b n) rq.id = false → judge s.b n rq none = .ok k r → mnHeld s.b n false = false →
      exec (.mnReadRequest n rq .none) s = .next (after (fun b =>
        let rd : Rd := { seq := (getPort b n).seq, rq := rq, ridx := k, rgn := r, gline := groupLine b rq.addr.toNat, vbu := needsVbu b n rq r,
                         useNew := usesNew b n k r rq.addr.toNat (groupLine b rq.addr.toNat) false, dual := (engMcs b n).dual }
        let b := updPort n (fun p => { p with reads := p.reads ++ [rd], seq := p.seq + 1 }) b
        progress n (count (whoMn b n rq) (evMcs (modeNum r.mode)) b)) s))
  ∧ (∀ (s : State) (n : Nat) (rq : MnReq) (hw : HwFault) (l : List Status), (getMcs s.b n).present = true →
      (getInst s.b (getMcs s.b n).inst).released = true →
      (getMcs s.b n).state ≠ .down → (getPort s.b n).drain = false → (getPort s.b n).soft = false → (getPort s.b n).pnt.length < 64 →
      rdIdBusy (getPort s.b n) rq.id = false → judge s.b n rq none = .bad l false → mnHeld s.b n false = false →
      exec (.mnReadRequest n rq hw) s = .next (after (fun b => memFailures n rq l (rdataNow n (rdOut rq.id (statusWorst l) 0 0 false) b)) s))
  ∧ (∀ (s : State) (n : Nat) (rq : MnReq) (w : MnWr) (k : Nat) (r : Rgn), (getMcs s.b n).present = true →
      (getInst s.b (getMcs s.b n).inst).released = true → (getMcs s.b n).state ≠ .down → (getPort s.b n).drain = false → (getPort s.b n).soft = false →
      openHaz s.b n < 256 → wrIdBusy (getPort s.b n) rq.id = false → judge s.b n rq (some w) = .ok k r →
      mnHeld s.b n true = false → w.svalid = false →
      exec (.mnWriteRequest n rq w .none) s = .next (after (fun b =>
        let h : Haz := { seq := (getPort b n).seq, rq := rq, wr := w, ridx := k, rgn := r, gline := groupLine b rq.addr.toNat,
                         poison := w.poison, inexact := laneInexact b rq w, ack := .ok }
        let b := updPort n (fun p => { p with haz := p.haz ++ [h], seq := p.seq + 1 }) b
        progress n (count (whoMn b n rq) (evMcs (4 + modeNum r.mode)) b)) s))
  ∧ (∀ (s : State) (n seq : Nat) (out : RdOut) (rest : List (Nat × RdOut)), (getPort s.b n).rdata = (seq, out) :: rest →
      exec (.mnRdataTransfer n) s = .next (after (updPort n (fun p => { p with
        rdata := rest, lastRd := some out,
        reads := (p.reads.filter (fun r => !(r.seq == seq && !r.verify))).map (fun r => if r.seq = seq then { r with delivered := true } else r) })) s))
  ∧ (∀ (s : State) (n : Nat) (x : WackOut) (rest : List WackOut), (getPort s.b n).wack = x :: rest →
      exec (.mnWackTransfer n) s = .next (after (updPort n (fun p => { p with wack := rest, lastWk := some x })) s))
  ∧ (∀ (s : State) (n : Nat) (x : PntOut) (rest : List PntOut), (getPort s.b n).pnt = x :: rest →
      exec (.mnPntTransfer n) s = .next (after (updPort n (fun p => fillNotices { p with pnt := rest, lastPnt := some x })) s))

/-- R32, R36, R37, R91, R106, R113, R115, R118, R119, R126: MS_. Each transfer takes one credit of its kind on the channel that R106
names, the lowest free identifier and its own content on MS_: a data read for whose line there is space and no older write is open;
a metadata item whose fetch holds a slot and no write-back of it is open; a line of a page job, or one that an engine of the block posted; a committed write whose line has no
older access, which is acknowledged with it; and a write-back whose parent slot is written. What returns under an identifier closes the
transfer and goes to what asked: a data line joins its read, a metadata item its fetch, a completion ends its write, write-back or line.
Returned credits add up; one above 255 is discarded and is a port error. -/
def Obligations.MemoryTransfers : Prop :=
  let put := fun (n g : Nat) (wr : Bool) (what : MsWhat) (seq : Nat) (data : Line) (sb : Sideband) (id : BitVec 10) (b : Block) (p : MPort) =>
    { p with
        rdCrd := if wr then p.rdCrd else listMod p.rdCrd (chanOf b n g).1 (· - 1),
        wrCrd := if wr then listMod p.wrCrd (chanOf b n g).1 (· - 1) else p.wrCrd,
        out := p.out ++ [{ id := id, wr := wr, ch := (chanOf b n g).1, g := g, what := what, seq := seq, drop := false }],
        lastMs := some { wr := wr, ch := (chanOf b n g).1, addr := BitVec.ofNat 40 (chanOf b n g).2, id := id, data := data, sb := sb } }
  let can := fun (b : Block) (n g : Nat) (wr : Bool) (id : BitVec 10) =>
    freeMsId (getPort b n) = some id ∧ (if wr then (getPort b n).wrCrd else (getPort b n).rdCrd).getD (chanOf b n g).1 0 ≠ 0
      ∧ lineFree (getPort b n) g wr = true
  (∀ (s : State) (n : Nat) (rid id : BitVec 10) (rd : Rd),
      (getPort s.b n).reads.find? (fun r => r.rq.id == rid && r.mem == .toIssue && r.ready.isNone) = some rd →
      (getPort s.b n).haz.any (fun h => h.rq.addr == rd.rq.addr && decide (h.seq < rd.seq)) = false → linesHeld (getPort s.b n) < Config.lineSpace →
      can s.b n rd.gline false id →
      exec (.msReadIssue n (.data rid)) s = .next (after (fun b => updPort n (fun p =>
        mapRd rd.seq (fun r => { r with mem := .onMs }) (put n rd.gline false (.data rid) rd.seq 0 0 id b p)) b) s))
  ∧ (∀ (s : State) (n : Nat) (i : Item) (id : BitVec 10), (getPort s.b n).fetch.any (fun f => f.item == i && f.phase == .slot) = true →
      (getPort s.b n).back.any (fun x => x.item == i) = false → (getPort s.b n).out.any (fun o => o.what == .item i) = false →
      can s.b n (itemLine s.b (getRgn s.b i.region) i) false id →
      exec (.msReadIssue n (.item i)) s = .next (after (fun b => updPort n (fun p =>
        let p := put n (itemLine b (getRgn b i.region) i) false (.item i) 0 0 0 id b p
        { p with fetch := updateWhere (fun f => f.item == i) (fun f => { f with phase := .onMs }) p.fetch }) b) s))
  ∧ (∀ (s : State) (n host : Nat) (w : PageWork) (j : LineJob) (id : BitVec 10), pageJobOf (getPort s.b n) host .toRead .reading = some (w, j) →
      can s.b n j.g false id →
      exec (.msReadIssue n (.line host)) s = .next (after (fun b => updPort n (fun p =>
        setLine w host .onRd (put n j.g false (.line host) w.seq 0 0 id b p)) b) s))
  ∧ (∀ (s : State) (n seq : Nat) (h : Haz) (id : BitVec 10), (getPort s.b n).haz.find? (fun h => h.seq == seq && h.phase == .committed) = some h →
      (getPort s.b n).haz.any (fun x => x.rq.addr == h.rq.addr && decide (x.seq < h.seq)) = false →
      (getPort s.b n).reads.any (fun r => r.rq.addr == h.rq.addr && decide (r.seq < h.seq) && r.ready.isNone) = false →
      can s.b n h.gline true id →
      exec (.msWriteIssue n (.entry seq)) s = .next (after (fun b =>
        let b := updPort n (fun p => mapHaz h.seq (fun x => { x with phase := .issued, acked := true })
          (put n h.gline true (.entry h.seq) h.seq h.data h.sb id b p)) b
        progress n (covMcs n (covWrite h.rgn.spol h.origin) (if h.acked then b else wackNow n h.rq.id h.ack b))) s))
  ∧ (∀ (s : State) (n : Nat) (i : Item) (x : BackItem) (id : BitVec 10), (getPort s.b n).back.find? (fun x => x.item == i) = some x → x.phase = .ready →
      can s.b n (itemLine s.b (getRgn s.b i.region) i) true id →
      exec (.msWriteIssue n (.back i)) s = .next (after (fun b => updPort n (fun p =>
        let p := put n (itemLine b (getRgn b i.region) i) true (.back i) 0 x.data 0 id b p
        { p with back := updateFirst (fun y => y.item == i) (fun y => { y with phase := .onMs }) p.back }) b) s))
  ∧ (∀ (s : State) (n host : Nat) (w : PageWork) (j : LineJob) (id : BitVec 10), pageJobOf (getPort s.b n) host .toWrite .writing = some (w, j) →
      can s.b n j.g true id →
      exec (.msWriteIssue n (.line host)) s = .next (after (fun b => covMcs n (covWrite w.rgn.spol j.origin) (updPort n (fun p =>
        setLine w host .onWr (put n j.g true (.line host) w.seq j.data j.sb id b p)) b)) s))
  ∧ (∀ (s : State) (n host : Nat) (x : Posted) (id : BitVec 10), pageJobOf (getPort s.b n) host .toWrite .writing = none →
      (getPort s.b n).posted.find? (fun x => x.line == host && !x.onMs) = some x → can s.b n x.g true id →
      exec (.msWriteIssue n (.line host)) s = .next (after (fun b =>
        let b := covMcs n 1 (updPort n (fun p =>
          let p := put n x.g true (.line host) 0 x.data x.sb id b p
          { p with posted := updateFirst (fun y => y.line == host && !y.onMs) (fun y => { y with onMs := true }) p.posted }) b)
        match x.ack with
        | some a => wackNow n a .ok b
        | none => b) s))
  ∧ (∀ (s : State) (n : Nat) (id : BitVec 10) (data : Line) (sb : Sideband) (poison : Bool) (o : MsOut) (rid : BitVec 10) (rd : Rd),
      (getPort s.b n).out.find? (fun o => o.id == id && !o.wr) = some o → o.drop = false → o.what = .data rid →
      let b := updPort n (fun p => { p with out := p.out.filter (fun x => !(x.id == id && !x.wr)) }) s.b
      (getPort b n).reads.find? (fun r => r.seq == o.seq && r.mem == .onMs) = some rd →
      exec (.msRdataReturn n id data sb poison .none) s = .next (s.settled
        (progress n (updPort n (mapRd rd.seq (fun r => { r with mem := .here data sb poison })) b))))
  ∧ (∀ (s : State) (n : Nat) (id : BitVec 10) (data : Line) (sb : Sideband) (o : MsOut) (i : Item) (f : Fetch),
      (getPort s.b n).out.find? (fun o => o.id == id && !o.wr) = some o → o.drop = false → o.what = .item i →
      let b := updPort n (fun p => { p with out := p.out.filter (fun x => !(x.id == id && !x.wr)) }) s.b
      (getPort b n).fetch.find? (fun f => f.item == i && f.phase == .onMs) = some f →
      exec (.msRdataReturn n id data sb false .none) s = .next (s.settled
        (progress n (updPort n (fun p => { p with fetch := updateWhere (fun f => f.item == i) (fun f => { f with phase := .arrived data }) p.fetch }) b))))
  ∧ (∀ (s : State) (n : Nat) (id : BitVec 10) (o : MsOut), (getPort s.b n).out.find? (fun o => o.id == id && o.wr) = some o →
      let b := updPort n (fun p => { p with out := p.out.filter (fun x => !(x.id == id && x.wr)) }) s.b
      (∀ seq, o.what = .entry seq →
        exec (.msWackReturn n id) s = .next (s.settled (progress n (updPort n (fun p => { p with haz := p.haz.filter (fun h => h.seq != seq) }) b))))
      ∧ (∀ i, o.what = .back i →
        exec (.msWackReturn n id) s = .next (s.settled (progress n (updPort n (fun p =>
          { p with back := p.back.filter (fun x => !(x.item == i && x.phase == .onMs)) }) b))))
      ∧ (∀ host w j, o.what = .line host → pageJobOf (getPort b n) host .onWr .writing = some (w, j) →
        exec (.msWackReturn n id) s = .next (s.settled (progress n (updPort n (setLine w host .done) b)))))
  ∧ (∀ (s : State) (n : Nat) (rd wr : BitVec 4), (getMcs s.b n).present = true → (getInst s.b (getMcs s.b n).inst).released = true →
      (∀ c ∈ (getPort s.b n).rdCrd, c < 255) → (∀ c ∈ (getPort s.b n).wrCrd, c < 255) →
      exec (.msCreditReturn n rd wr) s = .next (after (updPort n (fun p => { p with
        rdCrd := p.rdCrd.zipIdx.map (fun e => if rd.getLsbD e.2 then e.1 + 1 else e.1),
        wrCrd := p.wrCrd.zipIdx.map (fun e => if wr.getLsbD e.2 then e.1 + 1 else e.1) })) s))
  ∧ (∀ (s : State) (n c : Nat) (rd wr : BitVec 4), (getMcs s.b n).present = true → (getInst s.b (getMcs s.b n).inst).released = true →
      (255, c) ∈ (getPort s.b n).rdCrd.zipIdx → rd.getLsbD c = true →
      exec (.msCreditReturn n rd wr) s = .next (after (fun b => portError { inst := (getMcs b n).inst } 8 (updPort n (fun p => { p with
        rdCrd := p.rdCrd.zipIdx.map (fun e => if rd.getLsbD e.2 then min 255 (e.1 + 1) else e.1),
        wrCrd := p.wrCrd.zipIdx.map (fun e => if wr.getLsbD e.2 then min 255 (e.1 + 1) else e.1) }) b)) s))

/-- R34, R109, R111, R115, R116, R118, R257: inside an M-port. A checked write commits; a delivered read whose open verification
passes retires; a waiting fetch takes a slot its class may take; a cached item without a fault leaves its cache, to its
write-back if modified; and requests that wait for a key are tried again, oldest first. -/
def Obligations.MemoryPath : Prop :=
  (∀ (s : State) (n seq : Nat), (getPort s.b n).haz.any (fun h => h.seq == seq && h.phase == .checked) = true →
      exec (.hazardEntryCommit n seq) s = .next (after (fun b => progress n (updPort n (mapHaz seq (fun h => { h with phase := .committed })) b)) s))
  ∧ (∀ (s : State) (n : Nat) (id : BitVec 10) (rd : Rd), (getPort s.b n).reads.find? (fun r => r.rq.id == id && r.verify && r.needs.isEmpty) = some rd →
      rd.late = [] → rd.lateDual = false → rd.delivered = true →
      exec (.deferredVerifyEnd n id .none) s = .next (after (updPort n (fun p => { p with reads := p.reads.filter (fun r => r.seq != rd.seq) })) s))
  ∧ (∀ (s : State) (n cls : Nat) (f : Fetch), slotFree (engMcs s.b n) (fetchesOf s.b n) cls = true →
      (getPort s.b n).fetch.find? (fun f => f.cls == cls && f.phase == .waiting) = some f →
      exec (.walkFetchStart n cls) s = .next (after (fun b => progress n (count (whoMcs b n f.tag) (evMcs 12)
        (updPort n (fun p => { p with fetch := updateWhere (fun x => x.item == f.item) (fun x => { x with phase := .slot }) p.fetch }) b))) s))
  ∧ (∀ (s : State) (n : Nat) (i : Item) (c : CacheItem), cachedItem s.b i = some c →
      exec (.metadataEviction n i .none) s = .next (after (fun b => progress i.share (evictItem c b)) s))
  ∧ (∀ (s : State) (n : Nat), exec (.keyWaitRelease n) s = .next (after (fun b =>
      let p := getPort b n
      releaseFirst n (((p.reads.filter (fun r => r.hold == .key)).map (·.seq) ++ (p.haz.filter (fun h => h.hold == .key)).map (·.seq)).mergeSort (fun a c => decide (a ≤ c))) b) s))

/-- R16, R117, R121 to R123, R234, R236: an MCS pair and its slice registers. A takeover or handback ordered at an idle pair
busies both slices and drains the partner's port; a drained takeover leaves one slice carrying and the other carried, with
INT[10]; a fault ends a slice as R123 says; the control, walk-class and coverage registers take what is written. -/
def Obligations.MemorySlices : Prop :=
  (∀ (s : State) (z : ZReq) (k : Nat), served s.b z (.mcs k) →
      let b := zcpRsp z.inst .ok s.b
      (getMcs b k).busy = false → (getMcs b (partner k)).busy = false → (getMcs b k).state = .inService → (getMcs b (partner k)).state = .inService →
      (getMcs b (partner k)).present = true →
      exec (.pairTakeover z k) s = .next (s.settled (progress (partner k) (updPort (partner k) (fun p => { p with drain := true })
        (updMcs (partner k) (fun m => { m with busy := true }) (updMcs k (fun m => { m with busy := true }) b))))))
  ∧ (∀ (s : State) (k : Nat), (getMcs s.b k).busy = true → (getMcs s.b (partner k)).busy = true → (getMcs s.b k).state = .inService →
      (getMcs s.b (partner k)).state = .inService → drained s.b (partner k) = true →
      exec (.pairTakeoverDone k) s = .next (after (fun b =>
        let b := updMcs k (fun m => { m with state := .carrying, busy := false, lastSts := .ok }) b
        let b := updMcs (partner k) (fun m => { m with state := .carried, busy := false }) b
        let b := updPort (partner k) (fun p => { p with drain := false, cache := [], nodes := [] }) b
        let b := raise (getMcs b k).inst 10 b
        updUnits (getMcs b k).inst (fun u =>
          if u.olt.busy && u.olt.kind == 0 && u.olt.unit == partner k then { u with olt := { u.olt with busy := false, status := .ok } } else u) b) s))
  ∧ (∀ (s : State) (z : ZReq) (k : Nat), served s.b z (.mcs k) →
      let b := zcpRsp z.inst .ok s.b
      (getMcs b k).busy = false → (getMcs b (partner k)).busy = false → (getMcs b k).state = .carrying →
      exec (.pairHandback z k) s = .next (s.settled (progress (partner k) (updPort (partner k) (fun p => { p with drain := true })
        (updMcs (partner k) (fun m => { m with busy := true }) (updMcs k (fun m => { m with busy := true }) b))))))
  ∧ (∀ (s : State) (n : Nat) (sramOk : Bool), (getMcs s.b n).present = true →
      exec (.mcsFaultTakeover n sramOk) s = .next (after (sliceFault n sramOk) s))
  ∧ (∀ (s : State) (z : ZReq) (n : Nat) (w : Word), served s.b z (.mcs n) → fieldNat w 3 2 = 0 →
      exec (.mcsDualWrite z false n w) s = .next (after (fun b => updMcs n (fun m =>
        { m with dual := fieldBit w 0, vbuAll := fieldBit w 1, lock := m.lock || fieldBit w 4 }) (zcpRsp z.inst .ok b)) s))
  ∧ (∀ (s : State) (z : ZReq) (n : Nat) (w : Word), served s.b z (.lcs n) →
      exec (.mcsDualWrite z true n w) s = .next (after (fun b => judgeMode n (updLcs n (fun l =>
        { l with dual := fieldBit w 0, z2 := fieldBit w 1, retrainMs := max 1 (fieldNat w 15 8), holdoff := fieldNat w 23 16 }) (zcpRsp z.inst .ok b))) s))
  ∧ (∀ (s : State) (z : ZReq) (n c : Nat) (w : Word), served s.b z (.mcs n) → c < 8 → fieldNat w 5 0 ≤ fieldNat w 14 8 → fieldNat w 14 8 ≤ 64 →
      let b := zcpRsp z.inst .ok s.b
      let walk := (getMcs b n).walk.set c (fieldNat w 5 0, fieldNat w 14 8)
      (walk.map (·.1)).foldl (· + ·) 0 ≤ 64 →
      exec (.mcsWalkWrite z n c w) s = .next (s.settled (updMcs n (fun m => { m with walk := walk }) b)))
  ∧ (∀ (s : State) (z : ZReq) (n k : Nat) (w : Word),
      (served s.b z (.mcs n) → exec (.coverageCounterWrite z false n k w) s = .next (after (fun b =>
        updMcs n (fun m => { m with cov := listMod m.cov k (fun _ => fieldNat w 47 0) }) (zcpRsp z.inst .ok b)) s))
      ∧ (served s.b z (.lcs n) → exec (.coverageCounterWrite z true n k w) s = .next (after (fun b =>
        updLcs n (fun l => { l with cov := listMod l.cov k (fun _ => fieldNat w 47 0) }) (zcpRsp z.inst .ok b)) s)))

/-- R91, R113, R115, R356: metadata steps inside an MCS. A page whose re-encryption has reached memory, its counter block with it, is
released, and what was held for it goes on; a Tree Roof node's authentic answer fills the cache, and one whose seal is broken fails
what was fetched under it; a write-back that waits on a roof slot stores its tree MAC there and goes on. -/
def Obligations.TreeSteps : Prop :=
  (∀ (s : State) (n : Nat) (w : PageWork) (rest : List PageWork),
      takeFirst (fun (w : PageWork) => !w.sweep && w.stage == .done) (getPort s.b n).pages = some (w, rest) →
      exec (.pageReencryptionEnd n) s = .next (after (fun b => progress n (updPort n (fun p => { p with pages := rest }) b)) s))
  ∧ (∀ (s : State) (n node : Nat) (i : Item), (getPort s.b n).roofAsk.contains node = true → roofItem s.b node = some i →
      exec (.roofSlotReadReply n node true) s = .next (after (fun b => progress n
        (fillItem i (getRgn b i.region).tag (Sparse.get 0 b.rgn.roof node) false
          (updPort n (fun p => { p with roofAsk := p.roofAsk.filter (· != node) }) b))) s)
      ∧ exec (.roofSlotReadReply n node false) s = .next (after (fun b =>
          progress n (failItem i .tagFail false (sealFail (getMcs b n).inst b))) s))
  ∧ (∀ (s : State) (n node slot : Nat) (x : BackItem) (mac : Word), replicating s.b = false →
      (getPort s.b n).back.find? (fun x => (roofMac x).isSome && x.item.index % 16 == slot
        && roofNode s.b (getRgn s.b x.item.region) x.item.share (x.item.index / 16) == node) = some x → x.phase = .roofAsked mac →
      exec (.roofSlotWrite n node slot) s = .next (after (fun b =>
        progress n (setBack x.item .ready (writeRoof (parentItem x.item) slot mac b))) s))

/-- R73 to R77, R101 to R103, R124: region commands, in both forms. CREATE and ADOPT of a good staged entry take the lowest free
entry and answer it; FINISH_LOAD, UPDATE, REKEY and RETIRE act on an entry in a state that allows them for a requester that may
act on it. -/
def Obligations.RegionCommands : Prop :=
  (∀ (s : State) (src : Src) (b : Block) (t : Option (Nat × Nat × Nat)) (i : Nat), taken .rgn src 0x50 1 s.b = some b → replicating b = false →
      createChecks b (stageOf b src) false = ([], t) → ((reqOf b src).kernel && kClosed b (stageOf b src).tag) = false →
      lowestFrom (fun k => (getRgn b k).state == .free) 4096 0 = some i →
      exec (.create src) s = .next (s.settled (cmdDone .rgn src .ok (handleOf (makeRgn false (stageOf b src) t i b) tyRgn i) i (makeRgn false (stageOf b src) t i b))))
  ∧ (∀ (s : State) (src : Src) (b : Block) (t : Option (Nat × Nat × Nat)) (i : Nat), taken .rgn src 0x50 3 s.b = some b → replicating b = false →
      createChecks b (stageOf b src) true = ([], t) → ((reqOf b src).kernel && kClosed b (stageOf b src).tag) = false →
      lowestFrom (fun k => (getRgn b k).state == .free) 4096 0 = some i →
      exec (.adopt src) s = .next (s.settled (cmdDone .rgn src .ok (handleOf (makeRgn true (stageOf b src) t i b) tyRgn i) i (makeRgn true (stageOf b src) t i b))))
  ∧ (∀ (s : State) (src : Src) (b : Block), taken .rgn src 0x50 2 s.b = some b → replicating b = false →
      let i := rgnIndex b src
      (getRgn b i).state = .loading → mayAct b (reqOf b src) (getRgn b i).owner (getRgn b i).tag = true →
      exec (.finishLoad src) s = .next (s.settled (cmdDone .rgn src .ok 0 i (regionState i .checking b))))
  ∧ (∀ (s : State) (src : Src) (b : Block), taken .rgn src 0x50 6 s.b = some b → replicating b = false →
      let i := rgnIndex b src
      [RgnState.loading, .checking, .active, .rekey].contains (getRgn b i).state = true →
      mayAct b (reqOf b src) (getRgn b i).owner (getRgn b i).tag = true →
      exec (.update src) s = .next (s.settled (cmdDone .rgn src .ok 0 i
        (setRgn i { getRgn b i with vbu := (stageOf b src).vbu, wclass := (stageOf b src).wclass } b))))
  ∧ (∀ (s : State) (src : Src) (b : Block), taken .rgn src 0x50 4 s.b = some b → replicating b = false →
      let i := rgnIndex b src
      [RgnState.loading, .checking, .active, .rekey, .failed].contains (getRgn b i).state = true →
      mayAct b (reqOf b src) (getRgn b i).owner (getRgn b i).tag = true →
      exec (.retire src) s = .next (s.settled (startRetire i (some src) b)))
  ∧ (∀ (s : State) (src : Src) (b : Block), taken .rgn src 0x50 5 s.b = some b → replicating b = false →
      let i := rgnIndex b src
      let r := getRgn b i
      let k := (stageOf b src).key
      r.state = .active → mayAct b (reqOf b src) r.owner r.tag = true → (r.mode = .xts ∨ r.mode = .rw) → keyChecks b r.mode r.owner k = [] → k ≠ r.key →
      exec (.rekey src) s = .next (s.settled (
        let r := { r with prevKey := r.key, prevGen := r.keyGen, key := k, keyGen := (r.keyGen + 1) % 256 }
        let b := pushRegionKey r k (updKey k (fun e => { e with pins := e.pins + 1, rwUsed := e.rwUsed || r.mode == .rw }) (setRgn i r b))
        let b := (shares b r).foldl (fun b n =>
          updMcs n (fun m => { m with sweeps := m.sweeps ++ [{ region := i, ptr := 0, done := false, stopped := false }] }) b) b
        cmdDone .rgn src .ok 0 i (regionState i .rekey b))))

/-- R77, R102, R124 to R126: the ends of region work. RETIRE_COMPLETE of a region without open accesses drops its cached items,
unpins and invalidates its keys, frees its entry and completes RETIRE; a sweep step takes up the next page of an RW-AUTH share
or the next line of an XTS region, and its end moves the pointer past it; the sweep's end invalidates the old key; and the check sweep makes a region active whose
lines all verify and whose digest is as staged. -/
def Obligations.RegionSweeps : Prop :=
  (∀ (s : State) (i : Nat) (r : Rgn) (src : Option Src), replicating s.b = false → getRgn s.b i = r → r.state = .retiring → regionIdle s.b i = true →
      s.b.rgn.retireSrc.find? (fun e => e.1 == i) = some (i, src) → r.mode = .plain →
      (r.prevGen != r.keyGen && r.prevKey != 0) = false →
      exec (.retireComplete i) s = .next (after (fun b =>
        let b := freeRef tyRgn i (regionState i .free (dropRegionItems i b))
        let b := setRgn i {} { b with rgn := { b.rgn with retireSrc := b.rgn.retireSrc.filter (fun e => e.1 != i) } }
        match src with
        | some c => cmdDone .rgn c .ok 0 i b
        | none => b) s))
  ∧ (∀ (s : State) (i : Nat) (r : Rgn), replicating s.b = false → getRgn s.b i = r → r.state = .retiring → regionIdle s.b i = true →
      s.b.rgn.retireSrc.find? (fun e => e.1 == i) = some (i, none) → r.mode = .rw →
      (r.prevGen != r.keyGen && r.prevKey != 0) = false →
      exec (.retireComplete i) s = .next (after (fun b =>
        let b := freeRef tyRgn i (regionState i .free (invalidateKey r.key (unpin r.key (dropRegionItems i b))))
        setRgn i {} { b with rgn := { b.rgn with retireSrc := b.rgn.retireSrc.filter (fun e => e.1 != i) } }) s))
  ∧ (∀ (s : State) (n : Nat) (sw : Sweep) (w : PageWork), (getPort s.b n).pages.find? (fun w => w.sweep) = none → currentSweep s.b n = some sw →
      (getPort s.b n).drain = false → (getPort s.b n).soft = false → (getMcs s.b n).state ≠ .down → sweepJob s.b n sw = some w →
      exec (.rekeySweepStep n) s = .next (after (fun b =>
        progress n (updPort n (fun p => { p with pages := p.pages ++ [w], seq := p.seq + 1 }) b)) s))
  ∧ (∀ (s : State) (n : Nat) (w : PageWork), (getPort s.b n).pages.find? (fun w => w.sweep) = some w → w.stage = .done →
      exec (.rekeySweepStep n) s = .next (after (fun b =>
        let size := sweepSize b w.rgn n
        let b := updMcs n (fun m => { m with
          sweeps := updateWhere (fun s => s.region == w.region) (fun s => { s with ptr := s.ptr + 1, done := decide (size ≤ s.ptr + 1) }) m.sweeps }) b
        progress n (updPort n (fun p => { p with pages := p.pages.filter (fun x => !x.sweep) }) b)) s))
  ∧ (∀ (s : State) (i : Nat), replicating s.b = false → (getRgn s.b i).state = .rekey →
      s.b.mcs.all (fun e => e.2.sweeps.all (fun s => s.region != i || s.done)) = true →
      exec (.rekeySweepEnd i) s = .next (after (fun b =>
        let r := getRgn b i
        let b := { b with mcs := Sparse.mapAll {} b.mcs (fun _ m => { m with sweeps := m.sweeps.filter (fun s => s.region != i) }) }
        let b := invalidateKey r.prevKey (unpin r.prevKey b)
        raisePrimary 2 (regionState i .active (setRgn i { r with prevKey := 0, prevGen := 0 } b))) s))
  ∧ (∀ (s : State) (i : Nat) (ans : List MemAns), replicating s.b = false → (getRgn s.b i).state = .checking → ans ≠ [] →
      (regionKeys s.b (getRgn s.b i)).contains .wait = false → keyGone (regionKeys s.b (getRgn s.b i)) = none →
      (List.range ((getRgn s.b i).size * unitLines)).foldl
        (checkSweepLine (getRgn s.b i) (workKeys (getKey s.b (getRgn s.b i).key).key) ans) ([], 0) = ([], (getRgn s.b i).digest) →
      exec (.checkSweepEnd i ans) s = .next (after (fun b => raisePrimary 2 (regionState i .active b)) s))

/-- R164 to R171, R174, R176: an initiator's LT_ port. A read whose import is in the TLB, whose transfers pass every check and
that finds an entry, a path and cells is on its way under a fresh REQID; a miss waits for its window's entry, and goes on with
it; the oldest completion transfers; a request that waited for cells or an entry is admitted when they are there. -/
def Obligations.InitiatorPorts : Prop :=
  (∀ (s : State) (i port : Nat) (h : LtOr) (k e n home : Nat) (b' : Block),
      let seq := (getFab s.b i).order
      let b := updFab i (fun f => { f with tlb := tlbUse k f.tlb }) (updFab i (fun f => { f with order := f.order + 1 }) s.b)
      let w := getWin b k
      let loff := h.addr.toNat - w.base * 16384
      let reqid := reqidOf e (getOut b i e)
      let b1 := updOut i e (fun o =>
        { o with live := true, port := port, id := h.id, op := 0, win := k, dst := w.peer, tag := h.tag, ctx := h.ctx,
                 layer := h.layer, opid := h.opid, group := loff / 4, order := seq, st := .ok, sends := 0, waiting := false }) b
      (getInst s.b i).released = true → port < (getInst s.b i).nLcs → s.b.bay.state ≠ 1 → s.b.bay.softDue.contains (i, false) = false →
      (getFab s.b i).held.any (fun x => x.port == port) = false → h.op = 0 → contOf h = 0 →
      lowestFrom (fun e => !(getOut s.b i e).live) 32768 0 ≠ none → tagGate s.b h.tag = none → syntaxBad [h] = false →
      (getFab s.b i).tlb.find? (fun k => importHit s.b k h) = some k → transBad b i k [h] = [] → lineBlocked b i seq [h] = false →
      b.fab.dead.contains w.peer = false → (esbClass (getEsb b i) clsReq).en = true → choosePath b i w.peer w.peerExp (loff / 4) = some (n, home) →
      lowestFrom (fun e => !(getOut b i e).live) 32768 0 = some e →
      stageEntry i e n home (reqPkt b i 0 w.peer n home w.peerExp loff h.tag false reqid [] 0 0) h.tag (pathHolds b i w.peer) b1 = some b' →
      exec (.ltOrRequest i port [h]) s = .next (s.settled (count (whoOr i port h) (evFab 0) b')))
  ∧ (∀ (s : State) (i port : Nat) (h : LtOr),
      (getInst s.b i).released = true → port < (getInst s.b i).nLcs → s.b.bay.state ≠ 1 → s.b.bay.softDue.contains (i, false) = false →
      (getFab s.b i).held.any (fun x => x.port == port) = false → contOf h = 0 →
      lowestFrom (fun e => !(getOut s.b i e).live) 32768 0 ≠ none → tagGate s.b h.tag = none → syntaxBad [h] = false →
      (getFab s.b i).tlb.find? (fun k => importHit s.b k h) = none →
      exec (.ltOrRequest i port [h]) s = .next (after (fun b => count (whoOr i port h) (evFab 3)
        (updFab i (fun f => { f with held := f.held ++ [{ port := port, seq := (getFab b i).order, xfers := [h], why := .tlb, win := none }] })
          (updFab i (fun f => { f with order := f.order + 1 }) b))) s))
  ∧ (∀ (s : State) (i port : Nat) (w : LtHeld) (h : LtOr) (t : List LtOr) (k : Nat) (x : Win),
      (getFab s.b i).held.find? (fun x => x.port == port && x.why == .tlb) = some w → w.xfers = h :: t →
      s.b.fab.table.find? (fun e => importHit s.b e.1 h) = some (k, x) →
      exec (.tlbMissFill i port) s = .next (after (fun b => proceed i port (h :: t) k w.seq
        (updFab i (fun f => { f with tlb := tlbUse k f.tlb }) (updFab i (fun f => { f with held := f.held.filter (fun x => x != w) }) b))) s))
  ∧ (∀ (s : State) (i port : Nat) (e : Nat × LtOc) (r : List (Nat × LtOc)), takeFirst (fun e => e.1 == port) (getFab s.b i).oc = some (e, r) →
      exec (.ltOcTransfer i port) s = .next (after (updFab i (fun f => { f with oc := r, lastOc := some e.2 })) s))
  ∧ (∀ (s : State) (i port k : Nat) (w : LtHeld) (b' : Block), s.b.bay.state ≠ 1 →
      (getFab (stageWaiting i s.b) i).held.find? (fun x => x.port == port && x.why != .tlb) = some w → w.win = some k →
      launch i port w.xfers k w.seq (stageWaiting i s.b) = .done b' →
      exec (.esbAdmission i port) s = .next (s.settled (updFab i (fun f => { f with held := f.held.filter (fun x => x.port != port) }) b')))

/-- R174, R177, R178, R185, R191: an initiator's outstanding requests. Requests held for a path go once none is outstanding on an
earlier path; a read, an Acquire and a posted write that run out of time end TIMEOUT; an atomic is sent again with RETRY and the
same REQID, at most twice, and ends INDETERMINATE at its bound; a held Acquire goes once the requests before it have completed. -/
def Obligations.OutstandingRequests : Prop :=
  (∀ (s : State) (i : Nat) (d : Pkg),
      let held := (getEsb s.b i).staged.filter (fun s => s.held && s.pkt.dst == d)
      (getFab s.b i).outst.any (fun e => e.2.live && !e.2.waiting && e.2.dst == d && e.2.path != pathSig s.b i d && !held.any (fun s => s.entry == some e.1)) = false →
      exec (.pathChangeRelease i d) s = .next (after (fun b => held.foldl (fun b s => repath i s b) b) s))
  ∧ (∀ (s : State) (i e : Nat), (getOut s.b i e).live = true → (getOut s.b i e).waiting = false → (getOut s.b i e).op ∈ [0x00, 0x02, 0x03] →
      exec (.readTimeout i e) s = .next (after (fun b => let o := getOut b i e
        completeReq i e .timeout 0 false 0 false (count { inst := i, tag := some o.tag, layer := o.layer, opid := o.opid } (evFab 4) b)) s))
  ∧ (∀ (s : State) (i e : Nat), (getOut s.b i e).live = true → (getOut s.b i e).op = 0x01 →
      exec (.writeTimeout i e) s = .next (after (fun b => let o := getOut b i e
        completeReq i e .timeout 0 false 0 false (count { inst := i, tag := some o.tag, layer := o.layer, opid := o.opid } (evFab 4) b)) s))
  ∧ (∀ (s : State) (i e n home : Nat) (q : Pkt), (getOut s.b i e).pkt = some q → (getOut s.b i e).live = true → opAtomic (getOut s.b i e).op = true →
      (getOut s.b i e).sends ≠ 0 → (getOut s.b i e).sends < 3 → choosePath s.b i (getOut s.b i e).dst (txnExport q.txn) (getOut s.b i e).group = some (n, home) →
      exec (.atomicResend i e) s = .next (after (fun b =>
        let o := getOut b i e
        let q := { q with srcLcs := n, dstLcs := home, txn := q.txn ||| BitVec.ofNat 96 (2 ^ 63) }
        let b := updOut i e (fun o => { o with sends := o.sends + 1, lcs := n, home := home, path := pathSig b i o.dst, pkt := some q }) b
        stageOrWait i { lcs := n, pkt := q, shared := false, entry := some e, tag := o.tag, held := false } b) s))
  ∧ (∀ (s : State) (i e : Nat), (getOut s.b i e).live = true → opAtomic (getOut s.b i e).op = true →
      exec (.atomicIndeterminate i e) s = .next (after (fun b => let o := getOut b i e
        completeReq i e .indeterminate 0 false 0 false (count { inst := i, tag := some o.tag, layer := o.layer, opid := o.opid } (evFab 5) b)) s))
  ∧ (∀ (s : State) (i e n home : Nat) (q : Pkt) (b' : Block), (getOut s.b i e).pkt = some q → (getOut s.b i e).live = true → (getOut s.b i e).waiting = true →
      acquireBlocked s.b i (getOut s.b i e).win (getOut s.b i e).tag (getOut s.b i e).order = false → s.b.fab.dead.contains (getOut s.b i e).dst = false →
      choosePath s.b i (getOut s.b i e).dst (txnExport q.txn) (getOut s.b i e).group = some (n, home) →
      stageEntry i e n home { q with srcLcs := n, dstLcs := home } (getOut s.b i e).tag (pathHolds s.b i (getOut s.b i e).dst) s.b = some b' →
      exec (.acquire i e) s = .next (s.settled b'))

/-- R40, R157, R175, R178, R183, R187, R223: a target's deliveries. The oldest one transfers on LT_IR under the lowest free
identifier, and its packet's flits go back with its last line; LT_IC completes the delivery its identifier names, and Acquires
whose deliveries are done are answered; a step's local line returns to it; an expired retention entry makes room. -/
def Obligations.TargetDeliveries : Prop :=
  (∀ (s : State) (n : Nat) (x : Inb) (id : BitVec 12), (getLport s.b n).inb.find? (fun x => !x.sent) = some x → freeIrId (getLport s.b n) = some id →
      exec (.ltIrTransfer n) s = .next (after (fun b =>
        let y := { x with sent := true, id := id }
        let b := updLport n (fun p => { p with inb := updateWhere (fun z => z == x) (fun _ => y) p.inb, lastIr := some y }) b
        if x.flits = 0 then b else giveFlits n x.vc x.flits b) s))
  ∧ (∀ (s : State) (n : Nat) (c : LtIc) (hw : HwFault) (x : Inb), (getLport s.b n).inb.find? (fun x => x.sent && x.done.isNone && x.id == c.id) = some x →
      exec (.ltIcCompletion n c hw) s = .next (after (fun b => answerAcquires n (completeInb n x c hw b)) s))
  ∧ (∀ (s : State) (n pair : Nat) (q : Pkt) (x : Inb) (c : LtIc) (hw : HwFault), x.use = .read pair q → c.poison = false →
      forced true n 2 (dropInb n x s.b) = (false, dropInb n x s.b) → sorrelOf c.data = c.sorrel →
      completeInb n x c hw s.b = respond n pair q false c.status c.data c.sorrel c.sorigin false (dropInb n x s.b))
  ∧ (∀ (s : State) (k sidx : Nat) (data : Line) (poison : Bool) (st : Status) (sorrel : BitVec 32) (n : Nat) (p : LPort) (x : Inb),
      s.b.lport.find? (fun e => e.2.inb.any (asksFor k sidx)) = some (n, p) → p.inb.find? (asksFor k sidx) = some x →
      exec (.operandPrefetchReturn k sidx data poison st sorrel) s = .next (after
        (completeInb n x { id := x.id, data := data, poison := poison, status := st, sorrel := sorrel, sorigin := false } .none) s))
  ∧ (∀ (s : State) (n : Nat) (src : Pkg) (iinst : BitVec 7) (reqid : BitVec 32),
      let mine := fun (a : Arc) => a.src == src && a.iinst == iinst.toNat && a.reqid == reqid.toNat && !a.pending
      (getLport s.b n).arc.any mine = true →
      exec (.arcEntryExpiry n src iinst reqid) s = .next (after (fun b =>
        let b := updLport n (fun p => { p with arc := p.arc.filter (fun a => !mine a) }) b
        drainArrivals n b) s))

/-- R43, R131, R135, R136, R152, R153: egress. A released LCS whose link is up sends what comes first: a packet to be sent again, a
Bay abort flit, a resync packet owed (with three credits), a control packet, then the round's next. -/
def Obligations.Egress : Prop :=
  ∀ (s : State) (n : Nat) (hw : HwFault), canSend s.b n = true →
    let b := txLeft n s.b
    keyless b n = false →
    (∀ x, resendHead b n = some x →
      exec (.egressSelect n hw) s = .next (s.settled (updLport n (fun p => { p with sending := some x, lastTx := llBeats (txRate b n) x.vc x.flits })
        (takeCrd n x.vc x.flits.length (updLport n (fun p => { p with resend := none }) b)))))
    ∧ (∀ f, resendHead b n = none → (getLport b n).bayFlit = some f → 1 ≤ (getLport b n).txCrd.getD (ctlVc b n) 0 →
      let x : Sent := { vc := ctlVc b n, flits := [f], pair := none, cls := none, shared := false }
      exec (.egressSelect n hw) s = .next (s.settled (updLport n (fun p => { p with sending := some x, lastTx := llBeats (txRate b n) x.vc x.flits })
        (takeCrd n x.vc 1 (updLport n (fun p => { p with bayFlit := none }) b)))))
    ∧ (∀ e epoch key, resendHead b n = none → (getLport b n).bayFlit = none → 3 ≤ (getLport b n).txCrd.getD (ctlVc b n) 0 →
      resyncHead b n = some (e, epoch, key) →
      exec (.egressSelect n .none) s = .next (s.settled (
        let bytes := resyncPkt b n (getPair b n e.1) e.2 epoch key
        let b := updPair n e.1 (fun q => { q with rseqTx := q.rseqTx + 1, sends := if e.2.isNone then q.sends + 1 else q.sends }) b
        let b := updLport n (fun x => { x with resync := x.resync.erase e }) b
        count (whoLcs b n) (evLink 3) (driveTx n { vc := ctlVc b n, flits := flitsOf bytes, pair := none, cls := none, shared := false } b))))
    ∧ (∀ x k q epoch key, resendHead b n = none → (getLport b n).bayFlit = none → resyncHead b n = none → headOf b n clsCtl = some (x, k, q, epoch, key) →
      exec (.egressSelect n .none) s = .next (s.settled (sendStaged n x k q epoch key false b)))
    ∧ (∀ x k q epoch key t d, resendHead b n = none → (getLport b n).bayFlit = none → resyncHead b n = none → headOf b n clsCtl = none →
      drrPick b n 9 (Sparse.get (0, false) (getEsb b (getLcs b n).inst).turn n) (getEsb b (getLcs b n).inst).drr = (some (x, k, q, epoch, key), t, d) →
      exec (.egressSelect n .none) s = .next (s.settled (sendStaged n x k q epoch key false
        (updEsb (getLcs b n).inst (fun e => { e with turn := Sparse.set (0, false) e.turn n t, drr := d }) b))))

/-- R29, R43 to R46, R136, R142 to R144, R157: the link. Credits add up, 1,024 at most; LL_UP's rise starts credits and divisions afresh
and owes a resync request to every pair with a broken VC; its fall keeps the packet that was cut, abandons what was partly received,
and returns the cells of one that had left; a mode change while the link is down waits for the next rise, and while it is up is a
link-integrity fault; a link that is not back in time leaves its LCS out of service; a broken pair asks again, and after ATTEMPTS sends
goes down. -/
def Obligations.LinkState : Prop :=
  (∀ (s : State) (n : Nat) (crd : BitVec 16), (getInst s.b (getLcs s.b n).inst).released = true → (getLcs s.b n).present = true →
      (getLport s.b n).up = true → (getLport s.b n).crdHold = false →
      let new := (getLport s.b n).txCrd.zipIdx.map (fun e => e.1 + fieldNat crd (2 * e.2 + 1) (2 * e.2))
      new.any (fun c => decide (1024 < c)) = false →
      exec (.llTxCreditReturn n crd) s = .next (after (updLport n (fun x => { x with txCrd := new.map (fun c => min c 1024) })) s))
  ∧ (∀ (s : State) (n : Nat), (getLcs s.b n).present = true → (getInst s.b (getLcs s.b n).inst).released = true → (getLport s.b n).up = false →
      modeLegal s.b n (getLport s.b n).modeNext = true →
      exec (.llUpRise n) s = .next (after (fun b =>
        let l := getLcs b n
        let pairs := (getLport b n).pairs
        let b := updLport n (fun x => { x with
          up := true, retrain := false, mode := x.modeNext, modeBad := false, crdHold := false, txCrd := [0, 0, 0, 0, 0, 0, 0, 0], rxDiv := l.rxvc,
          rxGrant := l.rxvc.zipIdx.map (fun e => e.1 - x.rxHeld.getD e.2 0), search := x.search && x.modeNext }) b
        let b := updLcs n (fun l => { l with state := if l.state = .outOfService then .outOfService else .inService }) b
        pairs.foldl (fun b e => oweReq n e.1 b) b) s))
  ∧ (∀ (s : State) (n : Nat) (cut : Bool), (getLcs s.b n).present = true → (getLport s.b n).up = true →
      exec (.llUpFall n cut) s = .next (after (fun b =>
        let again := (getLport b n).resend.or (if cut then (getLport b n).sending else none)
        let b := rxAbandon n b
        stageWaiting (getLcs b n).inst (updLport n (fun x => { x with up := false, retrain := false, sending := none, resend := again }) b)) s))
  ∧ (∀ (s : State) (n : Nat) (mode : Bool), (getLcs s.b n).present = true → (getLport s.b n).modeNext = !mode →
      ((getLport s.b n).up = false → exec (.llRxModeChange n mode) s = .next (after (updLport n (fun x => { x with modeNext := mode })) s))
      ∧ ((getLport s.b n).up = true → exec (.llRxModeChange n mode) s = .next (after (fun b =>
          let b := updLport n (fun x => { x with modeNext := mode }) b
          loneFault n .badConfig (portError (whoLcs b n) 11 b)) s)))
  ∧ (∀ (s : State) (n : Nat), (getLcs s.b n).state = .retraining → (getLport s.b n).up = false →
      exec (.retrainLimitExpiry n) s = .next (after (fun b => count { inst := (getLcs b n).inst } (evBay 3)
        (updLport n (fun x => { x with leftMask := some b.time }) (updLcs n (fun l => { l with state := .outOfService }) b))) s))
  ∧ (∀ (s : State) (n k : Nat), (getPair s.b n k).valid = true → (getPair s.b n k).up = true → (getPair s.b n k).vcs.any (fun v => v.rx == .broken) = true →
      (getLport s.b n).resync.any (fun e => e.1 == k && e.2.isNone) = false →
      exec (.resyncRetryTimer n k) s = .next (after (fun b =>
        if (getLcs b n).attempts ≤ (getPair b n k).sends then pairDown n k b
        else updLport n (fun p => { p with resync := p.resync ++ [(k, none)] }) b) s))

/-- R42, R137, R141, R142: ingress. On a released LCS whose framed link is up, a flit with SOP opens a packet on its VC, one without
joins the packet open on it, each into a place its VC was granted, and with EOP the packet is whole: by its marker it is an abort flit or a
resync packet, and any other is data. A data packet whose header is good, whose pair is up and not broken, whose epoch's key is held,
whose SEQ is the next and whose tag verifies under that key is released with its lines, and its VC counts on from its SEQ. -/
def Obligations.Ingress : Prop :=
  (∀ (s : State) (n : Nat) (x : LlBeat) (fl : List Flit), (getLcs s.b n).present = true →
      (getInst s.b (getLcs s.b n).inst).released = true → (getLport s.b n).up = true → (getLport s.b n).mode = false → x.v = 1 →
      let f := slotFlit x 0
      0 < (getLport s.b n).rxGrant.getD f.vc 0 →
      ((getLport s.b n).rxOpen = none ∧ f.sop = true ∧ (getLport s.b n).rxStray.contains f.vc = false ∧ fl = [])
        ∨ ((getLport s.b n).rxOpen = some (f.vc, fl) ∧ f.sop = false ∧ fl.length < 9) →
      let b := updLport n (fun x => { x with rxHeld := listMod x.rxHeld f.vc (· + 1), rxGrant := listMod x.rxGrant f.vc (· - 1) }) s.b
      let b' := fun (hw : HwFault) =>
        if f.eop then rxPacket n f.vc (fl ++ [f.flit]) hw (updLport n (fun x => { x with rxOpen := none }) b)
        else updLport n (fun x => { x with rxOpen := some (f.vc, fl ++ [f.flit]) }) b
      (∀ hw, exec (.llRxPacket n [x] hw) s = .next (s.settled (b' hw)))
      ∧ exec (.resyncReq n [x]) s = .next (s.settled (b' .none))
      ∧ exec (.resyncAck n [x]) s = .next (s.settled (b' .none)))
  ∧ (∀ (b : Block) (n vc : Nat) (fl : List Flit) (hw : HwFault),
      let bytes := bytesOfFlits fl
      (bytes.take 8 = abortMarker → fl.length = 1 → rxPacket n vc fl hw b = rxAbortFlit n (fl.headD 0) (giveFlits n vc 1 b))
      ∧ (bytes.take 8 = resyncMarker → rxPacket n vc fl hw b =
          (rxResync n vc bytes fl.length ((getLcs b n).dual && (hw == .dualData || hw == .dualMac)) false (giveFlits n vc fl.length b)).2)
      ∧ (bytes.take 8 ≠ resyncMarker → (bytes.take 8 ≠ abortMarker ∨ fl.length ≠ 1) → rxPacket n vc fl hw b = rxData n vc bytes fl.length hw b))
  ∧ (∀ (b b0 : Block) (n vc flits pk : Nat) (bytes : Bytes) (p : Pair) (key : Key),
      let h := rxHeader bytes
      let ct := (bytes.drop 32).take (132 * h.nl)
      let iv := pktIv h.epoch vc h.dir h.seq
      h.typ = 0 → h.ver = (if (getLcs b n).z2 then 2 else 3) → h.nl ≤ 4 → flits = pktFlits h.nl → h.seq < 2 ^ 63 → h.pkt.vc = vc →
      (bytes.drop (pktLen h.nl)).any (fun x => x != 0) = false → h.pkt.dst = b.trust.dom.pkg → h.pkt.dstLcs = n →
      findPair b n h.pkt.src h.pkt.srcLcs = some (pk, p) → p.up = true → (p.vcs.getD vc {}).rx = .normal →
      rxKey b n p h.epoch = some key →
      (p.vcs.getD vc {}).rxEpoch ≤ h.epoch → h.seq = (p.vcs.getD vc {}).rxNext → forced true n 1 b = (false, b0) →
      h.dir = dirBit h.pkt.src.toNat h.pkt.srcLcs h.pkt.dst.toNat h.pkt.dstLcs →
      gcmTag (keyBytes key) iv (bytes.take 32) ct = (bytes.drop (32 + 132 * h.nl)).take 16 →
      rxData n vc bytes flits .none b =
        (let b := updPair n pk (fun p => { p with vcs := listMod p.vcs vc (fun v =>
            { v with rx := .normal, rxEpoch := h.epoch, rxNext := h.seq + 1 }) }) b0
         let (q, b) := rxLines n h.pkt h.nl (gcmCrypt (keyBytes key) iv ct) b
         release n pk q (count (whoLcs b n) (evLink (48 + vc)) b)))

/-- R149, R150, R156, R157: the registers of the Egress Staging Buffer and the receive division, written where what they hold then
keeps the rules; a spilled packet returns to its queue when that can take it. -/
def Obligations.StagingRegisters : Prop :=
  (∀ (s : State) (z : ZReq) (w : Word), served s.b z .esb → (fieldBit w 1 = true → (getEsb (zcpRsp z.inst .ok s.b) z.inst).spillEn = true) →
      exec (.esbCtrlWrite z w) s = .next (after (fun b => let b := zcpRsp z.inst .ok b
        updEsb z.inst (fun e => { e with ctEn := fieldBit w 0, spillEn := fieldBit w 1 }) (if fieldBit w 1 then b else dropSpill z.inst b)) s))
  ∧ (∀ (s : State) (z : ZReq) (c : Nat) (w : Word), served s.b z .esb → c < 5 →
      let b := zcpRsp z.inst .ok s.b
      let k : EsbClass := { vc := fieldNat w 2 0, en := fieldBit w 3, min := fieldNat w 21 8, max := fieldNat w 38 24, mark := fieldNat w 53 40,
                            weight := max 1 (fieldNat w 59 56) }
      classesOk (getInst b z.inst).nLcs ((getEsb b z.inst).cls.set c k) (getEsb b z.inst).msgMax = true →
      exec (.esbClassWrite z c w) s = .next (s.settled (stageWaiting z.inst (updEsb z.inst (fun e =>
        { e with cls := (getEsb b z.inst).cls.set c k, msgMax := (getEsb b z.inst).msgMax,
                 short := reshort (voqs b z.inst) (getEsb b z.inst) ((getEsb b z.inst).cls.set c k) }) b))))
  ∧ (∀ (s : State) (z : ZReq) (w : Word), served s.b z .esb →
      let b := zcpRsp z.inst .ok s.b
      classesOk (getInst b z.inst).nLcs (getEsb b z.inst).cls (fieldNat w 14 0) = true →
      exec (.esbClassWrite z 6 w) s = .next (s.settled (stageWaiting z.inst (updEsb z.inst (fun e =>
        { e with cls := (getEsb b z.inst).cls, msgMax := fieldNat w 14 0,
                 short := reshort (voqs b z.inst) (getEsb b z.inst) (getEsb b z.inst).cls }) b))))
  ∧ (∀ (s : State) (z : ZReq) (x : Nat) (w : Word), served s.b z .esb → fieldNat w 13 0 ≤ fieldNat w 29 16 →
      fieldNat w 29 16 ≤ (esbClass (getEsb (zcpRsp z.inst .ok s.b) z.inst) clsMsg).max →
      let r : Wred := { minTh := fieldNat w 13 0, maxTh := fieldNat w 29 16, maxP := fieldNat w 39 32, w := fieldNat w 43 40 }
      exec (.esbWredWrite z x w) s = .next (after (fun b => updEsb z.inst (fun e => { e with wred := e.wred.set x r }) (zcpRsp z.inst .ok b)) s))
  ∧ (∀ (s : State) (z : ZReq) (t : Nat) (w : Word), served s.b z .esb →
      (fieldNat w 31 0 ≤ fieldNat w 63 32 → exec (.esbMeterWrite z t false w) s = .next (after (fun b => updEsb z.inst (fun e =>
        { e with meters := Sparse.upd {} e.meters t (fun m => { m with cir := fieldNat w 31 0, pir := fieldNat w 63 32 }) }) (zcpRsp z.inst .ok b)) s))
      ∧ exec (.esbMeterWrite z t true w) s = .next (after (fun b => updEsb z.inst (fun e =>
        { e with meters := Sparse.upd {} e.meters t (fun m => { m with cbs := fieldNat w 23 0, pbs := fieldNat w 55 32 }) }) (zcpRsp z.inst .ok b)) s))
  ∧ (∀ (s : State) (z : ZReq) (n v : Nat) (w : Word), served s.b z (.lcs n) → 9 ≤ fieldNat w 10 0 →
      let rx := (getLcs (zcpRsp z.inst .ok s.b) n).rxvc.set v (fieldNat w 10 0)
      rx.foldl (· + ·) 0 ≤ 1024 →
      exec (.lcsRxvcWrite z n v w) s = .next (after (fun b => updLcs n (fun l => { l with rxvc := rx }) (zcpRsp z.inst .ok b)) s))
  ∧ (∀ (s : State) (i : Nat) (x : Spilled) (t : List Spilled) (sh : Bool), (getEsb s.b i).spill = x :: t →
      admission s.b i x.lcs clsMsg (pktFlits x.nl) false = some sh →
      (x.asked = none → exec (.spillReturn i) s = .next (after (spillAsk i x) s))
      ∧ (∀ l, x.asked = some l → l.all (fun a => (spillRd s.b a).all (fun r => r.ready.isSome)) = true →
        exec (.spillReturn i) s = .next (after (spillTake i x l sh) s)))

/-- R159, R162, R163, R171, R172, R179, R354: windows, home masks and dead peers. CREATE of a good staged window takes the lowest free
entry, and its peer's binding is used or asked for; DELETE of a window its requester may act on stops its use; once nothing of it is
open the entry is free and DELETE completes; a changed set of in-service LCSs is published to every admitted peer, which takes it;
and a dead peer's outstanding requests end. -/
def Obligations.Windows : Prop :=
  (∀ (s : State) (src : Src) (b : Block) (i : Nat), taken .wtu src 0x51 1 s.b = some b → replicating b = false →
      let w := stageWin b src
      winChecks b w = [] → ((reqOf b src).kernel && kClosed b w.tag) = false →
      lowestFrom (fun k => !(getWin (askBind w.peer b) k).valid) 16384 0 = some i →
      exec (.createWindow src) s = .next (s.settled (
        let b := askBind w.peer b
        cmdDone .wtu src .ok (handleOf b tyWin i) i (newRef tyWin i (setWin i w b)))))
  ∧ (∀ (s : State) (src : Src) (b : Block), taken .wtu src 0x51 2 s.b = some b → replicating b = false →
      let w := getWin b (winIndex b src)
      w.valid = true → w.deleting = false → mayAct b (reqOf b src) w.ctx w.tag = true →
      exec (.delete src) s = .next (s.settled (startDelete (winIndex b src) (some src) b)))
  ∧ (∀ (s : State) (i : Nat), replicating s.b = false → (getWin s.b i).deleting = true → winIdle s.b i = true →
      exec (.deleteComplete i) s = .next (after (fun b =>
        let src := (b.fab.delSrc.find? (fun e => e.1 == i)).map (·.2)
        let b := freeRef tyWin i (setWin i {} { b with fab := { b.fab with delSrc := b.fab.delSrc.filter (fun e => e.1 != i) } })
        match src with
        | some c => cmdDone .wtu c .ok 0 i b
        | none => b) s))
  ∧ (∀ s : State, ownMask s.b ≠ s.b.fab.mask → primaryInst s.b ≠ none →
      exec .homeMaskPublish s = .next (after (fun b =>
        let old := ((b.time, b.fab.mask) :: b.fab.masks).filter (fun e => decide (b.time.toNat ≤ e.1.toNat + 20000))
        domSendAll (.homeMask (ownMask b)) { b with fab := { b.fab with mask := ownMask b, masks := old } }) s))
  ∧ (∀ (s : State) (p : Pkg) (mask : BitVec 64), boundPeer s.b p = true →
      exec (.homeMaskReceive p mask) s = .next (after (fun b =>
        { b with fab := { b.fab with peerMask := Sparse.set none b.fab.peerMask p.toNat (some mask) } }) s))
  ∧ (∀ (s : State) (p : Pkg), Sparse.get none s.b.fab.peerMask p.toNat = some 0 →
      exec (.peerDead p) s = .next (after (declareDead p) s))
  ∧ (∀ (s : State) (p : Pkg),
      let pairs := s.b.lport.flatMap (fun e => (e.2.pairs.filter (fun x => x.2.valid && x.2.peer == p)).map (·.2))
      pairs ≠ [] → pairs.all (fun x => !x.up) = true →
      exec (.peerDead p) s = .next (after (declareDead p) s))

/-- R217 to R219: plans. An image without a fault installs its plan, connects its pairs and answers a handle; a plan without
invocations is removed by its context or the kernel; an invocation that passes R218, with no abort record of its collective, opens
with its steps without DEP active, prefetches their lines and takes the packets that waited for it. -/
def Obligations.Plans : Prop :=
  (∀ (s : State) (src : Src) (image : Bytes) (rd : Status) (b : Block), takenLocal src 0x60 s.b = some b →
      let r := readAt src image.length rd b
      statusFailing r.1 = false →
      let l := image.take (64 + 32 * ((image[5]?).getD 0).toNat)
      let p := planOf (reqOf r.2 src).ctx l
      planChecks r.2 l p = [] →
      exec (.planInstall src image rd) s = .next (s.settled (
        let b := p.steps.foldl (fun b s => (if stOut s then askBind s.outPkg else id) ((if stIn s then askBind s.inPkg else id) b)) r.2
        let b := newRef tyPlan p.id { b with red := { b.red with plans := b.red.plans ++ [p] } }
        cmdDone .none src .ok (handleOf b tyPlan p.id) 0 (connectPlan p b))))
  ∧ (∀ (s : State) (src : Src) (b : Block) (p : Plan), takenLocal src 0x61 s.b = some b →
      let id := fieldNat (srcWord b src) 7 0
      planById b id = some p → p.dying = false → b.red.invs.any (fun v => v.plan == id) = false → ((reqOf b src).kernel = true ∨ p.ctx = (reqOf b src).ctx) →
      exec (.planRemove src) s = .next (s.settled (cmdDone .none src .ok 0 0
        (freeRef tyPlan id { b with red := { b.red with plans := b.red.plans.filter (fun q => q.id != id) } }))))
  ∧ (∀ (s : State) (src : Src) (blk : BitVec 512) (rd : Status) (b : Block) (p : Plan), takenLocal src 0x62 s.b = some b →
      let r := readAt src 64 rd b
      let v := newInv r.2 src blk p
      statusFailing r.1 = false → invokeChecks r.2 (reqOf r.2 src) blk = [] → planById r.2 (fieldNat blk 7 0) = some p → abortsOf r.2 v = [] →
      exec (.planInvoke src blk rd) s = .next (s.settled (feedInv v (openInv v r.2))))

/-- R219, R221, R225 to R227, R235, R398, Table 7.12: running plans. A held packet that waits too long is dropped and the VC moves on; in a
lane's cycle the packets that wait are staged, operands asked for, and the step whose turn it is makes its next line; a step whose remote line is late ends its invocation TIMEOUT; an invocation ends
with its cause's status, or completes once all its steps are done; an abort record expires; a lane's register is written; and a silent
error reaches the primary's count. -/
def Obligations.PlanRuns : Prop :=
  (∀ (s : State) (n : Nat) (h : HeldPkt) (t : List HeldPkt), (getLport s.b n).held = h :: t →
      exec (.heldPacketExpiry n) s = .next (after (fun b => drainHeld n t.length (updLport n (fun p => { p with held := t })
        (giveFlits n h.pkt.vc (pktFlits h.pkt.lines.length) (count (whoLcs b n) (evLink 12) b)))) s))
  ∧ (∀ (s : State) (n : Nat) (e : Nat × Nat),
      let b := lanePrefetch n (makeRoom n ((laneRuns s.b n).foldl (fun b e => stagePacket e.1 e.2 b) s.b))
      laneNext b n = some e →
      exec (.stepLineProduce n .none) s = .next (s.settled (produceLine e.1 e.2 false
        (if freeStep b e then updLport n (fun x => { x with laneTurn := e }) b else b))))
  ∧ (∀ (s : State) (k sidx : Nat) (v : Inv) (p : Plan) (r : StepRun) (x : Step), getInv s.b k = some v → planById s.b v.plan = some p →
      v.steps[sidx]? = some r → p.steps[sidx]? = some x → stIn x = true → r.active = true → r.done = false → r.inLine < formLines p v.ce (formIn x) →
      exec (.stepInputTimeout k sidx) s = .next (after (endInv k .timeout) s))
  ∧ (∀ (s : State) (k : Nat) (v : Inv) (p : Plan), getInv s.b k = some v → planById s.b v.plan = some p →
      let n := (p.steps.map (fun s => s.exec)).headD 0
      (planOut s.b p = true → exec (.invocationEnd k .laneOut) s = .next (after (endInv k .outOfService) s))
      ∧ (planDown s.b p = true → exec (.invocationEnd k .pairDown) s = .next (after (endInv k .outOfService) s))
      ∧ exec (.invocationEnd k .rowResidue) s = .next (after (residueFail n k) s)
      ∧ exec (.invocationEnd k .sorrel) s = .next (after (fun b => endInv k .sorrelFail (integrity (getLcs b n).inst v.tag .sorrel b)) s)
      ∧ exec (.invocationEnd k .poison) s = .next (after (endInv k .poison) s)
      ∧ (∀ st, statusFailing st = true → exec (.invocationEnd k (.peer st)) s = .next (after (endInv k st) s)))
  ∧ (∀ (s : State) (k : Nat) (v : Inv), getInv s.b k = some v → v.steps.all (fun r => r.done) = true → s.b.boot.debug = false →
      exec (.invocationComplete k) s = .next (after (closeInv v (if v.inexact then .inexact else .ok)) s))
  ∧ (∀ (s : State) (n k : Nat), exec (.abortRecordExpiry n k) s = .next (after (updLport n (fun p => { p with aborts := p.aborts.eraseIdx k })) s))
  ∧ (∀ (s : State) (z : ZReq) (n : Nat) (w : Word), served s.b z (.lcs n) → z.attr = .k → fieldBit w 0 = true →
      exec (.rlCtrlWrite z n w) s = .next (after (fun b => updLcs n (fun l =>
        { l with rlEn := true, pfLines := max 1 (min 128 (fieldNat w 15 8)), holdUs := max 1 (fieldNat w 31 16) }) (zcpRsp z.inst .ok b)) s))
  ∧ (∀ (s : State) (r : RingIn) (e : RingPkt) (tag : Tag) (st : Status) (b : Block), ringHeard r isReport s.b = some (e, b) →
      e.msg = .silentError tag st →
      exec (.silentErrorReport r) s = .next (s.settled (addSerr tag st b)))

/-- R243 to R252, R254, R261, R262, R320: The Mint, in both forms. A command takes its words and data at acceptance; one that meets no
condition of Table 9.6 acts: DERIVE, GENERATE, IMPORT and DECAPS make an entry in the free place, INVALIDATE ends one, EXPORT wraps one.
MINT_COMPLETE then gives the oldest outcome that awaits neither an acknowledgement nor a commit, and the sweeper visits the next entry. -/
def Obligations.MintCommands : Prop :=
  (∀ (s : State) (src : Src) (data d : Bytes) (rd rd' : Status) (b : Block) (arg budget : Word) (i op : Nat), op ∈ [1, 3, 4] →
      taken .mint src 0x40 op s.b = some b → mintArgs src op data rd s.b = (arg, budget, d, rd') →
      let r := srcAccess src false (srcOp b src 64).toNat (mintNeeds (mintWord src op s.b)) rd' b
      let b' := clearExport src r.2
      replicating b' = false → statusFailing r.1 = false → mintChecks b' src (mintWord src op s.b) arg d = [] → freeKey b' = some i →
      exec (if op = 1 then .derive src data rd else if op = 3 then .importKey src data rd else .decaps src data rd) s
        = .next (s.settled (mintMake src (mintWord src op s.b) arg budget d i b')))
  ∧ (∀ (s : State) (src : Src) (d : Bytes) (rd' : Status) (b : Block) (arg budget : Word) (i : Nat),
      taken .mint src 0x40 2 s.b = some b → mintArgs src 2 [] .ok s.b = (arg, budget, d, rd') → replicating (clearExport src b) = false →
      statusFailing rd' = false → mintChecks (clearExport src b) src (mintWord src 2 s.b) arg d = [] → freeKey (clearExport src b) = some i →
      exec (.generate src) s = .next (s.settled (mintMake src (mintWord src 2 s.b) arg budget d i (clearExport src b))))
  ∧ (∀ (s : State) (src : Src) (d : Bytes) (rd' : Status) (b : Block) (arg budget : Word),
      taken .mint src 0x40 5 s.b = some b → mintArgs src 5 [] .ok s.b = (arg, budget, d, rd') → replicating (clearExport src b) = false →
      statusFailing rd' = false → mintChecks (clearExport src b) src (mintWord src 5 s.b) arg d = [] →
      exec (.invalidate src) s = .next (s.settled (mintInvalidate src (fieldNat (mintWord src 5 s.b) 28 16) (clearExport src b))))
  ∧ (∀ (s : State) (src : Src) (d : Bytes) (rd' : Status) (b : Block) (arg budget : Word),
      taken .mint src 0x40 6 s.b = some b → mintArgs src 6 [] .ok s.b = (arg, budget, d, rd') → replicating (clearExport src b) = false →
      statusFailing rd' = false → mintChecks (clearExport src b) src (mintWord src 6 s.b) arg d = [] →
      exec (.exportKey src) s = .next (s.settled (mintExport src (fieldNat (mintWord src 6 s.b) 28 16) (fieldNat arg 25 13) (clearExport src b))))
  ∧ (∀ (s : State) (j : MintJob) (rest : List MintJob), s.b.keys.mint.jobs = j :: rest → j.waits = [] → j.store = .none →
      exec .mintComplete s = .next (after (fun b =>
        let r := mintDataAfter j (updMint (fun m => { m with jobs := rest }) b)
        cmdDone .mint j.src r.1 j.result j.index (if j.op = 5 ∧ statusFailing j.status = false then raisePrimary 6 r.2 else r.2)) s))
  ∧ (∀ s : State, replicating s.b = false → rueActs (getKey s.b s.b.keys.mint.rue) = true →
      exec .rueSweepVisit s = .next (after (fun b => bodyRueVisit b.keys.mint.rue (updMint (fun m => { m with rue := (m.rue + 1) % 8192 }) b)) s))

/-- R54 to R56, R255 to R260, R275: key messages. The message that stands first on the ring, for an instance that a way is open to,
with every transfer there and past the seal check, acts, and the SEQ of its source is kept: a pushed entry is installed; a request is
filled from the Keyring, or answered with FILL_NEG; FILL_NEG ends the requests that wait for that key; an evicted or recalled grant returns
to BUDGET; an invalidation takes every copy of the entry and its descendants and is acknowledged; grants go out while BUDGET has blocks,
after the other holders are recalled; ZEROIZE clears an instance's keys. One that fails the seal check is discarded, counted and
raises an integrity alarm: what a source with the receiver's key has sealed passes while its SEQ rises, and a SEQ not above the last
accepted from its source never does. A broken hop raises INT[15]. -/
def Obligations.RingMessages : Prop :=
  (∀ (s : State) (r : RingIn) (e : RingPkt) (rest : List RingPkt), s.b.ring = e :: rest → e.dst = r.inst → (ringWay s.b e.src e.dst).isSome = true →
    ringGood s.b r.inst r.data = true → r.data.length = ringParts e.msg →
    let i := r.inst
    let b := updInst i (fun s => { s with prRx := r.data, ringRx := ringSeen s.ringRx r.data }) { s.b with ring := rest }
    (∀ x, e.msg = .push x → exec (.push r) s = .next (s.settled ((portsOf b i).foldl (fun b n => progress n b) (kcInstall i x b))))
    ∧ (∀ d k, e.msg = .fillReq d k → keyUsable (getKey s.b k) = true → s.b.keys.mint.zeroed = false → exec (.fillReq r) s = .next (s.settled (pushKey d k b)))
    ∧ (∀ d k, e.msg = .fillReq d k → keyUsable (getKey s.b k) = false → exec (.fillReq r) s = .next (s.settled (fromPrimary d (.fillNeg k) b)))
    ∧ (∀ k, e.msg = .fillNeg k → exec (.fillNeg r) s = .next (s.settled ((portsOf b i).foldl (fun b n => endKeyWaits n k b) b)))
    ∧ (∀ d k gen g, e.msg = .evict d k gen g → exec (.evict r) s = .next (s.settled (returnGrant k gen g b)))
    ∧ (∀ k gen, e.msg = .inval k gen → exec (.inval r) s = .next (s.settled (toPrimary i (.invalAck i k)
        (updKc i (fun l => l.filter (fun e => e.index != k && !e.ancestors.contains k)) b))))
    ∧ (∀ d k, e.msg = .invalAck d k → exec (.invalAck r) s = .next (s.settled (updMint (fun m => { m with jobs := ackInval d k m.jobs }) b)))
    ∧ (∀ d k, e.msg = .grantReq d k → keyUsable (getKey s.b k) = true → (getKey s.b k).budget ≠ 0 → exec (.grantReq r) s = .next (s.settled (sendGrant d k b)))
    ∧ (∀ d k, e.msg = .grantReq d k → keyUsable (getKey s.b k) = true → (getKey s.b k).budget = 0 →
        b.inst.any (fun s => s.2.kc.any (fun x => x.index == k && x.grant != 0 && x.grant != unlimited)) = true →
        exec (.grantReq r) s = .next (s.settled (startRecall d k b)))
    ∧ (∀ k g, e.msg = .grant k g → exec (.grant r) s = .next (s.settled (updKc i (updateWhere (fun e => e.index == k) (fun e =>
        { e with grant := if g = unlimited then unlimited else e.grant + g, asked := false, dry := decide (g = 0) })) b)))
    ∧ (∀ k, e.msg = .recall k → exec (.recall r) s = .next (s.settled (
        let e := (getInst b i).kc.find? (fun e => e.index == k)
        toPrimary i (.recallAck i k ((e.map (·.gen)).getD 0) ((e.map (·.grant)).getD 0))
          (updKc i (updateWhere (fun e => e.index == k) (fun e => { e with grant := 0 })) b))))
    ∧ (∀ d k gen g, e.msg = .recallAck d k gen g → exec (.recallAck r) s = .next (s.settled (endRecall d k (returnGrant k gen g b))))
    ∧ (e.msg = .zeroize → exec (.zeroize r) s = .next (s.settled (clearKeysAt i b))))
  ∧ (∀ (s : State) (r : RingIn) (e : RingPkt) (rest : List RingPkt) (x : KcEntry), s.b.ring = e :: rest → e.dst = r.inst →
      (ringWay s.b e.src e.dst).isSome = true → ringGood s.b r.inst r.data = false → e.msg = .push x →
      exec (.push r) s = .next (s.settled (sealFail r.inst (updInst r.inst (fun s => { s with prRx := r.data }) { s.b with ring := rest }))))
  ∧ (∀ (s : State) (i : Nat) (east : Bool), (getInst s.b i).built = true →
      exec (.ringHopBroken i east) s = .next (after (fun b => raise i 15
        (updInst i (fun s => if east then { s with eastBroken := true } else { s with westBroken := true }) b)) s))
  ∧ (∀ (s : State) (i : Nat) (east : Bool), exec (.ringHopRestored i east) s = .next (after
      (updInst i (fun s => if east then { s with eastBroken := false } else { s with westBroken := false })) s))
  ∧ (∀ (b : Block) (i src dst seq : Nat) (key : Key) (m : RingMsg), (getInst b i).ringKey = some key → src < 256 → seq + ringParts m ≤ 2 ^ 64 →
      Sparse.get 0 (getInst b i).ringRx src < seq → ringGood b i (ringSealed key src dst seq m) = true)
  ∧ (∀ (b : Block) (i : Nat) (d : Bytes) (rest : List Bytes), leNat ((d.drop 4).take 8) ≤ Sparse.get 0 (getInst b i).ringRx (d.headD 0).toNat →
      ringGood b i (d :: rest) = false)

/-- R263 to R265, Table 9.9: the Service Cipher Unit. SCU_CMD with an operation that meets every condition starts it on the
requester's idle page; ABORT ends it; input parts are gathered up to what the operation needs; an operation whose inputs are
complete computes and offers its output, a key generation its new entry under index 0; after the last part it ends. -/
def Obligations.CipherUnit : Prop :=
  (∀ (s : State) (z : ZReq) (w : Word) (e : Instr × Nat),
      e ∈ [(Instr.scuAes256Encrypt z w, 0x01), (.scuAes256Decrypt z w, 0x02), (.scuAes128Encrypt z w, 0x03), (.scuAes128Decrypt z w, 0x04),
        (.scuSha384 z w, 0x08), (.scuKmac256 z w, 0x09), (.scuMlkemKeygen z w, 0x10), (.scuMlkemEncaps z w, 0x11), (.scuMlkemDecaps z w, 0x12),
        (.scuMldsaKeygen z w, 0x18), (.scuMldsaSign z w, 0x19), (.scuMldsaVerify z w, 0x1A), (.scuEcdsaKeygen z w, 0x20),
        (.scuEcdsaSign z w, 0x21), (.scuEcdsaVerify z w, 0x22)] →
      served s.b z (.scu z.tag.toNat) → (getScu s.b z.tag.toNat).busy = false →
      scuChecks (zcpRsp z.inst .ok s.b) z.tag.toNat e.2 w (getScu s.b z.tag.toNat).arg = [] →
      exec e.1 s = .next (after (fun b => scuStart z.tag.toNat e.2 w (zcpRsp z.inst .ok b)) s))
  ∧ (∀ (s : State) (z : ZReq), served s.b z (.scu z.tag.toNat) → (getScu s.b z.tag.toNat).busy = true →
      exec (.scuAbort z) s = .next (after (fun b => scuEnd z.tag.toNat .aborted (zcpRsp z.inst .ok b)) s))
  ∧ (∀ (s : State) (z : ZReq) (len : BitVec 12) (j : ScuJob), served s.b z (.scu z.tag.toNat) → (getScu s.b z.tag.toNat).job = some j →
      (getScu s.b z.tag.toNat).wantIn = true → 1 ≤ len.toNat → len.toNat ≤ 2048 →
      let got := (j.got ++ winBytes (getScu s.b z.tag.toNat) len.toNat).take j.need
      exec (.scuXferIn z len) s = .next (after (fun b => updScu z.tag.toNat (fun p =>
        { p with wantIn := decide (got.length < j.need), job := some { j with got := got } }) (zcpRsp z.inst .ok b)) s))
  ∧ (∀ (s : State) (z : ZReq) (j : ScuJob), served s.b z (.scu z.tag.toNat) → (getScu s.b z.tag.toNat).job = some j →
      (getScu s.b z.tag.toNat).outAvail = true →
      exec (.scuXferOut z) s = .next (after (fun b => let b := zcpRsp z.inst .ok b
        if (j.out.drop 2048).isEmpty then scuEnd z.tag.toNat (getScu b z.tag.toNat).status b
        else updScu z.tag.toNat (scuOffer { j with out := j.out.drop 2048 }) b) s))
  ∧ (∀ (s : State) (p : Nat) (j : ScuJob) (out : Bytes) (h : Head) (a : Arb), (getScu s.b p).job = some j → j.fin = false → j.sent = false →
      j.need ≤ j.got.length → arbPick (scuHeads s.b) s.b.cm.drr (Sparse.get {} s.b.cm.arb 1) = some (h, a) → h.who = 300 + p →
      scuMakes j.op = none → scuCompute s.b j = (.ok, out) →
      exec (.scuOpComplete p) s = .next (after (fun b =>
        let b := { b with cm := { b.cm with arb := Sparse.set {} b.cm.arb 1 a } }
        let b := if scuRandom j.op then (fresh b).2 else b
        updScu p (fun s => scuOffer { j with out := out, fin := true } { s with status := substOk b .ok }) b) s))
  ∧ (∀ (s : State) (p i : Nat) (j : ScuJob) (out : Bytes) (ty : Nat) (use : BitVec 8) (h : Head) (a : Arb), replicating s.b = false →
      (getScu s.b p).job = some j → j.fin = false → j.sent = false → j.need ≤ j.got.length →
      arbPick (scuHeads s.b) s.b.cm.drr (Sparse.get {} s.b.cm.arb 1) = some (h, a) → h.who = 300 + p → scuMakes j.op = some (ty, use) →
      let b := updScu p (fun s => { s with job := some { j with sent := true } }) { s.b with cm := { s.b.cm with arb := Sparse.set {} s.b.cm.arb 1 a } }
      (getScu b p).job = some { j with sent := true } → scuCompute b { j with sent := true } = (.ok, out) → freeKey (fresh b).2 = some i → scuRandom j.op = true →
      exec (.scuOpComplete p) s = .next (s.settled (
        let b := (fresh b).2
        let e : KEntry := { type := ty, depth := (getKey b 0).depth + 1, usage := use, owner := j.ctx, parent := 0, budget := unlimited, key := j.mat }
        let b := newRef tyKey i (writeKey i e b)
        updScu p (fun s => scuOffer { j with out := out, fin := true, sent := true } { s with status := substOk b .ok, newIdx := i }) b)))

/-- R58, R59, R271 to R273: the Sealed Store. An update starts while the store is open and idle and a mutation awaits it: the set, the
records and the slot not in force; its first erase is driven while the SCU encrypts. Each flash command that succeeds brings the next
one, up to the commit that puts the set in force, provided that what is read back is what was programmed; one that fails or is late ends
the update, and the commands it carried, TIMEOUT. The opening reads both commit sectors, 256 bytes at a time, then tries the records that
verify there, the highest SEQ first: one whose image verifies gives the set. -/
def Obligations.SealedStore : Prop :=
  (∀ s : State, storeCanUpdate s.b = true →
      exec .sealedStoreUpdate s = .next (after (fun b =>
        let st := b.keys.store
        let l := persistSet b
        let recs := storeRecords b
        let b := updMint (fun m => { m with jobs := m.jobs.map (fun j => if j.store = .next then { j with store := .now } else j) }) b
        let b := updStore (fun s => { s with dirty := false, fresh := l, recs := recs, image := [] }) b
        let b := srqPush { user := .store, op := .gcm (storeIv 0 (!st.slot) (st.seq + 1)) [], prio := 3, key := 1, gen := (getKey b 1).gen,
                           src := setImage (st.seq + 1) l recs, dst := imageLen l recs } b
        storeDrive (.erasing ((imageLen l recs + 4095) / 4096)) (flErase (slotBase (!st.slot))) b) s))
  ∧ (∀ (s : State) (data : Bytes), s.b.keys.store.flReq ≠ none →
      (s.b.keys.store.phase = .record ∨ s.b.keys.store.phase = .recordRead ∨ s.b.keys.store.phase = .recordErase
        ∨ (∃ k, s.b.keys.store.phase = .erasing k) ∨ (∃ k, s.b.keys.store.phase = .programming k) ∨ (∃ k, s.b.keys.store.phase = .readback k)) →
      exec (.flRsp data 0) s = .next (after (storeNext data) s)
      ∧ (∀ err : BitVec 2, err ≠ 0 → exec (.flRsp data err) s = .next (after (storeFail .timeout) s))
      ∧ exec .flashTimeout s = .next (after (storeFail .timeout) s))
  ∧ (∀ (b : Block) (data : Bytes), b.keys.store.phase = .recordRead →
      (data = storeRec b → storeNext data b = storeCommit b) ∧ (data ≠ storeRec b → storeNext data b = storeFail .timeout b))
  ∧ (∀ (s : State) (data : Bytes) (c : FlCmd) (k : Nat), s.b.keys.store.flReq = some c → s.b.keys.store.phase = .search k →
      let b := updStore (fun s => { s with got := s.got ++ (data ++ List.replicate c.len 0).take c.len }) s.b
      exec (.flRsp data 0) s = .next (s.settled (
        if k < 31 then storeDrive (.search (k + 1)) (flRead (256 * (k + 1)) 256) b else storeChoose b)))
  ∧ (∀ (b : Block) (n : Nat) (r : Bytes) (t : List (Nat × Bytes)), b.keys.store.cands = (n, r) :: t →
      (imageGood (getKey b 1).key r b.keys.store.got = true →
        storeTry b = storeOpened (some (imageText (getKey b 1).key r b.keys.store.got))
          (updStore (fun s => { s with slot := recSlot r, seq := BitVec.ofNat 64 (recSeq r) }) b))
      ∧ (imageGood (getKey b 1).key r b.keys.store.got = false → storeTry b = storeFetch 0 (updStore (fun s => { s with cands := t, got := [] }) b)))

/-- R47 to R50, R57, R62, R69: host link keys, management packets and Thyme's tick. A key-management request in a secured session over
DOE is driven on HK_, its key removed once it is taken; the acknowledgement applies it to the engine's stream and answers; an error or
a late acknowledgement stops the stream; MCTP packets of whole beats up to 256 bytes are taken; a tick within its bounds sets Thyme, and
one out of them is a time fault of its instance with the interpolated time kept. -/
def Obligations.HostLink : Prop :=
  (∀ (s : State) (r : SpdmReq) (stream : BitVec 8) (sub : BitVec 2) (dir kset : Bool) (key : Key) (ifv : BitVec 64), mailUp s.b = true → r.tr = .doe →
      (tenantSess s.b r).isSome = true →
      (((ideStreams s.b.trust.ide).contains stream = true ∨ (ideStreams s.b.trust.ide).length < 8) →
        exec (.ideKeyProg r stream sub dir kset key ifv) s = .next (after (hkPush { op := 0, stream := stream, sub := sub, dir := dir, kset := kset, key := key, ifv := ifv }) s))
      ∧ exec (.ideKSetGo r stream sub dir kset) s = .next (after (hkPush { op := 1, stream := stream, sub := sub, dir := dir, kset := kset, key := 0, ifv := 0 }) s)
      ∧ exec (.ideKSetStop r stream sub dir kset) s = .next (after (hkPush { op := 2, stream := stream, sub := sub, dir := dir, kset := kset, key := 0, ifv := 0 }) s))
  ∧ (∀ (s : State) (c : HkCmd), s.b.trust.ide.drive = some c →
      exec .hkReadyAccept s = .next (after (updIde (fun i => { i with drive := none, ack := some { c with key := 0 } })) s))
  ∧ (∀ (s : State) (c : HkCmd), s.b.trust.ide.ack = some c →
      exec (.hkAck false) s = .next (after (fun b => hkDrive (ideAnswer c true (updIde (fun i => { i with ack := none, streams := ideApply c i.streams }) b))) s)
      ∧ exec (.hkAck true) s = .next (after (ideFail c 14) s)
      ∧ exec .hkAckTimeout s = .next (after (ideFail c 15) s))
  ∧ (∀ (s : State) (i : Nat) (type : BitVec 8) (beats : List MgBeat), primaryInst s.b = some i → (getInst s.b i).released = true →
      mgFramed beats = true → (mgBytes beats).length ≤ 256 → type ∈ [0x00, 0x05, 0x06] →
      exec (.mgPacket type beats) s = .next (after (fun b => { b with trust := { b.trust with mgLast := some (type.toNat, mgBytes beats) } }) s))
  ∧ (∀ (s : State) (i : Nat) (time interp : BitVec 64), s.b.boot.hard = false → (getInst s.b i).built = true → s.b.time.toNat ≤ interp.toNat →
      (interp.toNat ≤ time.toNat + 20 → time.toNat ≤ interp.toNat + 1000 →
        exec (.tmTick i time interp) s = .next (after (fun b => { b with time := time }) s))
      ∧ (time.toNat + 20 < interp.toNat ∨ interp.toNat + 1000 < time.toNat →
        exec (.tmTick i time interp) s = .next (after (fun b => raise i 13 (portError { inst := i } 10 { b with time := interp })) s)))

/-- R60, R61, R255, R366, R367, R373, R375: fuses and instances at boot. The first grant after reset names the boot master, which
senses the array word by word; the other primary-capable instance senses in its turn; a grant that falls between requests is taken
back. A word that was programmed is read back: right, it is done; wrong, it is programmed once more; wrong again, in error or not
answered, its purpose fails. The first KEYLOAD that names an instance configures it, and another is a seal failure; LAYOUT gives it its
sections and is acknowledged, unless its seal fails; the boot master hears the acknowledgement, or counts the instance absent. -/
def Obligations.BootFuses : Prop :=
  (∀ (s : State) (i : Nat), s.b.boot.hard = false → 2 ≤ s.b.boot.step → (getInst s.b i).built = true → (getInst s.b i).primary = true →
      (getInst s.b i).ao.good = true → s.b.boot.master = none →
      exec (.otGnt i true) s = .next (after (fun b =>
        let b := updInst i (fun s => { s with role := .pp, ao := { s.ao with armed := true } }) (updOtp (fun o => { o with gnt := some i }) b)
        updOtp (fun o => { o with job := some (.sense 0), own := true }) (updBoot (fun x => { x with master := some i }) b)) s))
  ∧ (∀ (s : State) (i m : Nat), s.b.boot.hard = false → 2 ≤ s.b.boot.step → (getInst s.b i).built = true → (getInst s.b i).primary = true →
      (getInst s.b i).ao.good = true → s.b.boot.master = some m → m ≠ i → s.b.otp.second = false →
      exec (.otGnt i true) s = .next (after (updOtp (fun o => { o with gnt := some i, sense2 := some (o.sense2.getD 0) })) s))
  ∧ (∀ (s : State) (i : Nat), s.b.boot.hard = false → 2 ≤ s.b.boot.step → (getInst s.b i).built = true → (getInst s.b i).primary = true →
      (getInst s.b i).ao.good = true → s.b.otp.gnt = some i → otpActive s.b = false → s.b.otp.job = none →
      exec (.otGnt i false) s = .next (after (updOtp (fun o => { o with gnt := none, job := none })) s))
  ∧ (∀ (s : State) (data : BitVec 32) (k : Nat), otpActive s.b = true → s.b.otp.job = some (.sense k) →
      exec (.otRsp data false) s = .next (after (fun b =>
        if k < 511 then updOtp (fun o => { o with job := some (.sense (k + 1)) }) (setOtpWord k data b) else sensed (setOtpWord k data b)) s))
  ∧ (∀ (s : State) (data : BitVec 32) (i k : Nat), otpActive s.b = false → s.b.otp.gnt = some i → s.b.otp.sense2 = some k →
      exec (.otRsp data false) s = .next (after (updOtp (fun o =>
        if 511 ≤ k then { o with second := true, sense2 := none } else { o with sense2 := some (k + 1) })) s))
  ∧ (∀ (s : State) (data : BitVec 32) (w v : Nat) (again : Bool), otpActive s.b = true →
      (s.b.otp.job = some (.prog w v again false) →
        exec (.otRsp data false) s = .next (after (updOtp (fun o => { o with job := some (.prog w v again true) })) s))
      ∧ (s.b.otp.job = some (.prog w v again true) → data = otpExpect s.b w v →
        exec (.otRsp data false) s = .next (after (fun b => updOtp (fun o => { o with job := none }) (setOtpWord w data b)) s))
      ∧ (s.b.otp.job = some (.prog w v again true) → data ≠ otpExpect s.b w v →
        exec (.otRsp data false) s = .next (after (fun b =>
          if again then otpFail (setOtpWord w data b) else updOtp (fun o => { o with job := some (.prog w v true false) }) b) s)))
  ∧ (∀ (s : State) (data : BitVec 32), otpActive s.b = true → s.b.otp.job ≠ none →
      exec (.otRsp data true) s = .next (after otpFail s) ∧ exec .otRspTimeout s = .next (after otpFail s))
  ∧ (∀ (s : State) (i num role : Nat) (key : Key), (getInst s.b i).built = true → (getInst s.b i).ao.good = true → s.b.boot.hard = false →
      ((getInst s.b i).released = false → s.b.boot.step = 7 → s.b.boot.halted = false → (getInst s.b i).ringKey = none → num = i →
        (layInst s.b i).isSome = true →
        exec (.keyload i num role key) s = .next (after (fun b => ringSend (b.boot.master.getD i) i .layout (updInst i (fun s =>
          { s with ringKey := some key, num := num, role := roleOf role, ao := { s.ao with armed := roleOf role == .sp } }) b)) s))
      ∧ ((getInst s.b i).released = true ∨ ((getInst s.b i).ringKey.isSome = true ∧ num = i) →
        exec (.keyload i num role key) s = .next (after (sealFail i) s))
      ∧ ((getInst s.b i).released = false → num ≠ i → exec (.keyload i num role key) s = .next (after (fun b => b) s)))
  ∧ (∀ (s : State) (r : RingIn) (e : RingPkt) (rest : List RingPkt) (m : Nat), s.b.ring = e :: rest → e.dst = r.inst → e.msg = .layout →
      (ringWay s.b e.src e.dst).isSome = true → s.b.boot.master = some m →
      (ringGood s.b r.inst r.data = true → r.data.length = ringParts .layout →
        exec (.layout r) s = .next (after (fun b => ringSend r.inst m (.layoutAck r.inst) (takeLayout r.inst
          (updInst r.inst (fun s => { s with prRx := r.data, ringRx := ringSeen s.ringRx r.data }) { b with ring := rest }))) s))
      ∧ (ringGood s.b r.inst r.data = false →
        exec (.layout r) s = .next (after (fun b => sealFail r.inst (updInst r.inst (fun s => { s with prRx := r.data }) { b with ring := rest })) s)))
  ∧ (∀ (s : State) (i m : Nat) (data : List Bytes) (e : RingPkt) (rest : List RingPkt), s.b.ring = e :: rest → e.dst = m → e.msg = .layoutAck i →
      (ringWay s.b e.src e.dst).isSome = true → ringGood s.b m data = true → data.length = ringParts (.layoutAck i) →
      s.b.boot.master = some m → s.b.boot.step = 7 → s.b.boot.absent.contains i = false →
      exec (.layoutAck i data) s = .next (after (fun b => ringCheck (updBoot (fun x => { x with acks := x.acks ++ [i] })
        (updInst m (fun s => { s with prRx := data, ringRx := ringSeen s.ringRx data }) { b with ring := rest }))) s))
  ∧ (∀ (s : State) (i : Nat), s.b.boot.step = 7 → s.b.boot.halted = false → (layInst s.b i).isSome = true → s.b.boot.master ≠ some i →
      s.b.boot.acks.contains i = false →
      exec (.layoutAckTimeout i) s = .next (after (fun b => ringCheck (updBoot (fun x => { x with west := true }) (dropInst i b))) s))

/-- R371, R374, R376 to R378, R381, R382: the boot's images and self-test. BOOT_REQ raises INT[0] at the boot master; bytes are taken at
the next offset; a Layout Image whose signatures, key, length and schedule are good leads to step 7, any other to the safe state; the firmware
of the slot in force that verifies runs; each wave's results count and the next wave follows; and the release opens the ports of every configured
instance. -/
def Obligations.BootImages : Prop :=
  (∀ (s : State) (i k : Nat), s.b.boot.asked = some k → s.b.boot.master = some i → s.b.boot.sent = false → s.b.boot.halted = false →
      exec .bootReq s = .next (after (fun b => raise i 0 (updBoot (fun x => { x with sent := true }) b)) s))
  ∧ (∀ (s : State) (data : Bytes), data.length ≤ 4096 → s.b.boot.sent = true → s.b.boot.halted = false →
      exec (.bootData s.b.boot.buf.length data) s = .next (after (updBoot (fun x => { x with buf := x.buf ++ data })) s))
  ∧ (∀ (s : State) (l : LayoutImg), s.b.boot.sent = true → s.b.boot.halted = false → s.b.boot.asked = some 0 →
      exec (.bootEnd (.layout l)) s = .next (after (fun b =>
        let b := updBoot (fun x => { x with step := 6, asked := none, sent := false }) b
        if l.bytes = s.b.boot.buf ∧ layoutForm l.bytes = true ∧ layoutSigned l.bytes = true ∧ layoutKeyOk s.b l = true ∧ scheduleOk l = true
        then bootStep7 (updBoot (fun x => { x with layout := some l, buf := [] }) b) else safeState .badConfig b) s))
  ∧ (∀ (s : State) (slot : Bool) (f : FwImg), s.b.boot.sent = true → s.b.boot.halted = false → s.b.boot.asked = some (if slot then 2 else 1) →
      s.b.boot.aoFw.valid = true → s.b.boot.aoFw.pending = false →
      exec (.bootEnd (.firmware slot f)) s = .next (after (fun b =>
        if fwVerifies b f = true ∧ f.bytes = b.boot.buf then fwAccept slot f b
        else if b.boot.fwTry = 0 then fwAsk (!slot) (updAoFw (fun a => { a with pending := false }) (updBoot (fun x => { x with fwTry := 1 }) b))
        else safeState .tagFail b) s))
  ∧ (∀ (s : State) (res : List (Nat × Nat × BitVec 24 × BitVec 64)), s.b.boot.step = 8 → s.b.boot.halted = false →
      exec (.bistWaveEnd res) s = .next (after (fun b =>
        let units := bistUnits b
        let b := (res.filter (fun r => units.contains (r.1, r.2.1))).foldl (fun b r => unitResult r b) b
        bistNext (updBoot (fun x => if x.preWave then { x with preWave := false } else { x with waves := x.waves.tail }) b)) s))
  ∧ (∀ (s : State) (i : Nat), s.b.boot.master = some i → s.b.boot.step = 11 → s.b.boot.halted = false → s.b.keys.store.phase = .idle →
      exec .bootRelease s = .next (after (fun b =>
        let b := { updBoot (fun x => { x with step := 12 }) b with
                   inst := Sparse.mapAll {} b.inst (fun _ s => if s.loaded then { s with released := true } else s) }
        let b := raise i 0 (bayReload b)
        confirmStart (if (spInst b).isSome then updFo (fun f => { f with copying := true }) b else b)) s))

/-- R266, R269, R357, R368, R371, R372, R382, R383: life cycle, debug, firmware. A transition that Table 13.3 permits, and a hash whose
field is open, are queued for the fuses, the command held; a reset follows a transition; a challenge answers a nonce, the token over it
authorises one boot; an image that verifies is staged, and activation makes it pending; a descriptor whose
turn has come is served; a DRBG that fails after
release is reported and the primary gives way. -/
def Obligations.LifeCycleCommands : Prop :=
  (∀ (s : State) (m : MbReq) (t : BitVec 2) (serial : BitVec 64) (j : MbJob) (b : Block), m.attr ≠ .m → mailTaken m 0x0140 [.k, .d] s.b = some (j, b) →
      lcyPermits b (lcOf t.toNat) m.attr serial = true → b.trust.lcyReset = false → mbBusy 0x0140 b = false →
      exec (.lcyAdvance m t serial) s = .next (s.settled (otpQueue (.advance false (lcOf t.toNat) serial) (mbHold j b))))
  ∧ (∀ (s : State) (m : MbReq) (layoutKey : Bool) (hash : Digest) (j : MbJob) (b : Block), mailTaken m 0x0141 [.k, .d] s.b = some (j, b) →
      (b.otp.lc = .test ∨ (b.otp.lc = .prod ∧ m.attr = .k)) → doneBank b (if layoutKey then fLkey else fOpr) = none →
      emptyBank b (if layoutKey then fLkey else fOpr) ≠ none → mbBusy 0x0141 b = false →
      exec (.otpFuseHash m layoutKey hash) s = .next (s.settled (otpQueue (.hash layoutKey hash) (mbHold j b))))
  ∧ (∀ s : State, s.b.trust.lcyReset = true →
      exec .lcyAdvanceReset s = .next (after (fun b =>
        ideStopAll { b with trust := { b.trust with lcyReset := false }, bay := { b.bay with hardDue := true } }) s))
  ∧ (∀ (s : State) (m : MbReq) (j : MbJob) (b : Block), mailTaken m 0x0150 [.k, .m] s.b = some (j, b) → b.otp.lc = .prod → b.keys.mint.drbgOk = true →
      exec (.dbgChallenge m) s = .next (s.settled (mbEnd j .ok (keyBytes (Config.draw b.freeCtr))
        (updBoot (fun x => { x with nonce := some (Config.draw b.freeCtr) }) (fresh b).2))))
  ∧ (∀ (s : State) (m : MbReq) (token : Bytes) (j : MbJob) (b : Block), mailTaken m 0x0151 [.k, .m] s.b = some (j, b) → b.otp.lc = .prod →
      exec (.dbgAuth m token) s = .next (s.settled (
        let b' := updBoot (fun x => { x with nonce := none }) b
        if tokenOk b token = true then mbEnd j .ok [] (updAoFw (fun a => { a with dbgPend := true }) b') else mbEnd j .tagFail [] b')))
  ∧ (∀ (s : State) (m : MbReq) (img : FwImg) (j : MbJob) (b : Block), mailTaken m 0x0160 [.k, .m] s.b = some (j, b) → b.boot.aoFw.pending = false →
      exec (.fwStage m img) s = .next (s.settled (
        if fwSigned img = false then mbEnd j .tagFail [] b
        else if fwVerifies b img = true then mbEnd j .ok []
          (updAoFw (fun a => { a with valid := true, staged := true, svn := img.svn, hash := digestOf img.bytes }) b)
        else mbEnd j .badConfig [] b)))
  ∧ (∀ (s : State) (m : MbReq) (reset : Bool) (j : MbJob) (b : Block), mailTaken m 0x0161 [.k, .m] s.b = some (j, b) → b.boot.aoFw.staged = true →
      exec (.fwActivate m reset) s = .next (s.settled (
        let b := mbEnd j .ok [] (updAoFw (fun a => { a with pending := true, tried := false, staged := false }) b)
        if reset then ideStopAll { b with bay := { b.bay with hardDue := true } } else b)))
  ∧ (∀ (s : State) (d : SrqDesc) (rest : List SrqDesc) (h : Head) (a : Arb), srqNext s.b.keys.srq = some (d, rest) → (primaryInst s.b).isSome = true →
      arbPick (scuHeads s.b) s.b.cm.drr (Sparse.get {} s.b.cm.arb 1) = some (h, a) → h.who = 400 →
      exec .serviceRequestDescriptor s = .next (after (fun b =>
        let b := { b with cm := { b.cm with arb := Sparse.set {} b.cm.arb 1 a } }
        storeServed (srqServe b d) (unpin d.key { b with keys := { b.keys with srq := rest, srqDone := [srqServe b d] } })) s))
  ∧ (∀ s : State, s.b.boot.hard = false → 12 ≤ s.b.boot.step →
      exec .drbgHealthFailure s = .next (after (fun b =>
        let b := raisePrimary 15 (updMint (fun m => { m with drbgOk := false }) b)
        if primaryInst (relinquish b) = primaryInst b then relinquish b else updMint (fun m => { m with drbgOk := true }) (relinquish b)) s))

/-- R283 to R287, R290, R346: a package that joins, and a member. DOM_JOIN asks the DKA, whose challenge it answers with its certificate
chains and a signed measurement response over the nonce; ADMIT, unwrapped with what index 4 decapsulates, gives it K_DOM, the domain's
times, authority and standby; REFUSE or the time ends the attempt; the relay hands out the oldest message whole, and what it brings acts;
QUARANTINE and RELEASE end the work with a package, REBIND restores it; DOM_LEAVE starts the departure. -/
def Obligations.DomainMembership : Prop :=
  (∀ (s : State) (m : MbReq) (dka : Pkg) (domain : BitVec 64) (j : MbJob) (b : Block), mailTaken m 0x0110 [.k] s.b = some (j, b) →
      packageOos b = false → b.trust.dom.state = .none →
      exec (.domJoin m dka domain) s = .next (s.settled (domSend dka .join
        (mbHold j (updDom (fun d => { d with state := .joining, id := domain, joinTo := some (dka, b.time) }) b)))))
  ∧ (∀ (s : State) (h : DomHdr) (nonce : Key) (b : Block),
      heard h (fun b => fromJoined b h || (b.trust.dom.state == .admitted && fromAuth b h)) s.b = some b →
      exec (.challengeDomain h nonce) s = .next (s.settled (
        let r := measResponse 0xFF true nonce b
        domSend h.sender (.evidence r.2.trust.att.chain r.2.trust.att.own r.1) r.2)))
  ∧ (∀ (s : State) (h : DomHdr) (a : Admit) (b : Block), heard h (fun b => fromJoined b h && h.ident == a.dka) s.b = some b →
      replicating b = false → a.standby = none →
      exec (.admitMember h a) s = .next (s.settled (
        match unwrapKey (takeKek b a.ct) a.wrapped with
        | some kdom =>
          let b := installDomKey kdom b
          let b := updDom (fun d =>
            { d with state := .admitted, role := .member, epochN := a.epochN.toNat, t0 := a.t0, grant := a.grant.toNat,
                     polHash := a.polHash, span := a.span, auth := some (h.sender, a.dka), standby := none, joinTo := none, beatAt := b.time }) b
          let b := updDom (fun d => { d with epoch := epochNow b }) { b with fab := { b.fab with span := a.span } }
          let b := (putBind { state := .admitted, pkg := h.sender, ident := a.dka } b).getD b
          mbFinish 0x0110 0 .ok [] (startHand h.sender (some ((primaryInst b).getD 0)) [] (beginLease b))
        | none => endJoin .tagFail b)))
  ∧ (∀ (s : State) (h : DomHdr) (st : Status) (b : Block), heard h (fun b => fromJoined b h) s.b = some b →
      exec (.refuse h st) s = .next (s.settled (endJoin st b)))
  ∧ (∀ s : State, s.b.trust.dom.state = .joining → exec (.admissionTimeout s.b.trust.dom.ident) s = .next (after (endJoin .timeout) s))
  ∧ (∀ (s : State) (m : MbReq) (j : MbJob) (b : Block) (o : DomOut) (t : List DomOut), mailTaken m 0x0101 [.k] s.b = some (j, b) → b.trust.dom.out = o :: t →
      exec (.relayOut m) s = .next (s.settled (mbEnd j .ok (leBytes 2 o.dst.toNat ++ relayBytes b o) (updDom (fun d => { d with out := t }) b))))
  ∧ (∀ (s : State) (m : MbReq) (x : DomMsg) (j : MbJob) (b : Block), mailTaken m 0x0102 [.k] s.b = some (j, b) →
      exec (.relayIn m x) s = .next (s.settled (mbEnd j .ok [] (deliverMsg x b))))
  ∧ (∀ (s : State) (h : DomHdr) (pkg : Pkg) (b : Block), heard h (fun b => fromAuth b h) s.b = some b → replicating b = false →
      exec (.quarantine h pkg) s = .next (s.settled (declareDead pkg (downPairs pkg
        (mapBinds (fun e => e.pkg == pkg) (fun e => { e with state := .quarantined }) b))))
      ∧ exec (.releasePeer h pkg) s = .next (s.settled (declareDead pkg (updDom (fun d => { d with binds := d.binds.filter (fun e => e.2.pkg != pkg) }) b)))
      ∧ ∀ (ident : Digest) (k : Nat) (e : Bind), pkg ≠ b.trust.dom.pkg → bindOf b pkg = some (k, e) →
        exec (.rebind h pkg ident) s = .next (s.settled (reviveFab pkg (removePairs pkg
          ((putBind { e with state := .admitted, ident := ident, ek := if e.ident = ident then e.ek else none } (dropBind e.ident b)).getD b)))))
  ∧ (∀ (s : State) (m : MbReq) (j : MbJob) (b : Block), mailTaken m 0x0111 [.k, .m] s.b = some (j, b) → b.trust.dom.state = .admitted →
      exec (.domLeave m) s = .next (s.settled (mbHold j (startLeave b))))

/-- R284, R286, R287, R290, R291, R293: the DKA. It challenges who asks to join, and a number that two identities claim is quarantined and
both are challenged; evidence that meets the policy admits its candidate, and of two rivals the one that answers stays; LEAVE drops a
member; a binding is answered on request, and a member takes the answer; a change takes effect at once, or when the standby has it. -/
def Obligations.DomainAuthority : Prop :=
  (∀ (s : State) (h : DomHdr) (b : Block), heard h isDka s.b = some b → b.trust.dom.binds.find? (fun e => e.2.ident == h.ident) = none →
      (bindOf b h.sender = none → exec (.join h) s = .next (s.settled (sendChallenge h.ident h.sender false b)))
      ∧ ((bindOf b h.sender).isSome = true → exec (.join h) s = .next (s.settled (startClash h.sender h.ident b))))
  ∧ (∀ (s : State) (h : DomHdr) (e : Evidence) (b : Block) (c : Cand) (p : Policy), heard h (fun b => isDka b && (candOf b h.ident).isSome) s.b = some b →
      candOf b h.ident = some c → b.trust.dom.policy = some p → c.again = false →
      let b' := updDom (fun d => { d with cands := d.cands.filter (fun x => x.ident != h.ident) }) b
      evidenceBad b' p h.sender c.ident c.nonce e = [] →
      exec (.evidence h e) s = .next (s.settled (
        domChange (.enrol (bindFrom h.sender c.ident e) e.ek (b'.trust.dom.binds.any (fun x => x.2.ident == c.ident))) b')))
  ∧ (∀ (s : State) (pkg : Pkg) (k : Nat) (e : Bind), isDka s.b = true →
      s.b.trust.dom.binds.filter (fun e => e.2.pkg == pkg && e.2.state == .quarantined && e.2.answered) = [(k, e)] →
      exec (.quarantineChallengeTimeout pkg) s = .next (after (fun b =>
        domChange (.keep pkg e.ident) (updDom (fun d => { d with cands := d.cands.filter (fun c => !(c.again && c.pkg == pkg)) }) b)) s))
  ∧ (∀ (s : State) (h : DomHdr) (b : Block), heard h (fun b => isDka b && boundSender b h) s.b = some b →
      exec (.leave h) s = .next (s.settled (domChange (.drop h.sender h.ident) b))
      ∧ exec (.oosNotice h) s = .next (s.settled (raisePrimary 15 b))
      ∧ ∀ pkg : Pkg, exec (.bindQuery h pkg none none) s = .next (s.settled (
          domSend h.sender (.bindAnswer pkg (((bindOf b pkg).map (·.2)).getD {})) b)))
  ∧ (∀ (s : State) (h : DomHdr) (pkg : Pkg) (ident ek : Digest) (ok : Bool) (b : Block), heard h (fun b => fromAuth b h) s.b = some b → replicating b = false →
      exec (.bindQuery h pkg none (some (ident, ek, ok))) s = .next (s.settled (
        bodyBind { state := if ok then .admitted else .quarantined, pkg := pkg, ident := ident, ek := some ek } b)))
  ∧ (∀ (s : State) (ident : Digest), s.b.trust.dom.state ≠ .joining → s.b.trust.dom.cands.any (fun c => c.ident == ident && !c.again) = true →
      exec (.admissionTimeout ident) s = .next (after (fun b => count { inst := (primaryInst b).getD 0 } (evBay 6)
        (updDom (fun d => { d with cands := d.cands.filter (fun c => !(c.ident == ident && !c.again)) }) b)) s))
  ∧ (∀ (s : State) (c : DomChg) (t : List DomChg), s.b.trust.dom.chg = c :: t →
      exec .domainReplicationAck s = .next (after (fun b => commitChange c (updDom (fun d => { d with chg := t }) b)) s)
      ∧ exec .domainReplicationTimeout s = .next (after (fun b =>
          sendCopy ((c :: t).foldl (fun b c => commitChange c b) (updDom (fun d => { d with chg := [], stdLost := true }) b))) s))
  ∧ (∀ s : State, s.b.trust.dom.role = .dka → s.b.trust.dom.standby ≠ none →
      exec .standbyCatchUp s = .next (after (updDom (fun d => { d with stdLost := false })) s))

/-- R288, R289, R294 to R297: pairs, heartbeats and epochs. PAIR_CONNECT of an admitted peer starts a handshake; HELLO is answered with
pairs and wrapped seeds, HELLO_ACK's seeds, unwrapped, make LINK entries, name the epoch and install the keys, as HELLO_FIN does; the time ends what was not done.
Heartbeats are sent and answered, five without answers fence a DKA, a standby that hears none takes over with more than half. At a
boundary the epoch rises, the DKA grants two ahead, and keys follow; keys of past epochs go. -/
def Obligations.DomainPairsAndEpochs : Prop :=
  (∀ (s : State) (m : MbReq) (inst : Nat) (peer : Pkg) (j : MbJob) (b : Block) (k : Nat) (e : Bind), mailTaken m 0x0112 [.k] s.b = some (j, b) →
      packageOos b = false → b.trust.dom.state = .admitted → peer ≠ b.trust.dom.pkg → (instIn b inst).isEmpty = false →
      bindOf b peer = some (k, e) → e.state = .admitted →
      exec (.pairConnect m inst peer) s = .next (s.settled (startHand peer (some inst) [] (mbHold { j with arg := peer.toNat } (askBind peer b)))))
  ∧ (∀ (s : State) (peer : Pkg) (x : Hand), replicating s.b = false → handOf s.b peer = some x → x.done = false →
      exec (.pairConnectTimeout peer) s = .next (after (fun b => connectWaiting peer (some .timeout) (mbFinish 0x0112 peer.toNat .timeout []
        (updDom (fun d => { d with hands := d.hands.filter (fun x => x.peer != peer) }) (dropHand x b)))) s))
  ∧ (∀ (s : State) (h : DomHdr) (ek : BitVec 12544) (lcs : List Nat) (b : Block), (s.b.trust.dom.state == .admitted && !boundSender s.b h) = false →
      heard h (fun b => helloKnown b h && ekMatches b h ek) s.b = some b → replicating b = false → handOf b h.sender = none →
      exec (.hello h ek lcs) s = .next (s.settled (answerHello h.sender ek lcs none [] b)))
  ∧ (∀ (s : State) (h : DomHdr) (ct : BitVec 12544) (pairs : List (Nat × Nat × Bytes)) (b : Block) (x : Hand),
      heard h (fun b => helloKnown b h && ackAwaited b h.sender) s.b = some b → replicating b = false → handOf b h.sender = some x →
      x.done = false → x.pairs = [] →
      exec (.helloAck h ct pairs) s = .next (s.settled (
        match unwrapAll (takeKek b ct) pairs with
        | none => mbFinish 0x0112 h.sender.toNat .tagFail [] b
        | some seeds =>
          match linkAll seeds b with
          | none => mbFinish 0x0112 h.sender.toNat .quota [] b
          | some (ps, b1) => finishHand { x with pairs := ps } (epochNow b1) (domSend h.sender (.helloFin (epochNow b1)) b1))))
  ∧ (∀ (s : State) (h : DomHdr) (epoch : BitVec 24) (b : Block) (x : Hand),
      heard h (fun b => helloKnown b h && finAwaited b h.sender) s.b = some b → replicating b = false → handOf b h.sender = some x →
      x.done = false → x.pairs ≠ [] →
      exec (.helloFin h epoch) s = .next (s.settled (finishHand x epoch.toNat b)))
  ∧ (∀ (s : State) (h : DomHdr) (b : Block), heard h (fun b => boundSender b h || fromAuth b h) s.b = some b →
      ((b.trust.dom.role == .dka || b.trust.dom.role == .fenced) = true →
        exec (.heartbeat h) s = .next (s.settled (updDom (fun d => { d with beatAcks := h.sender :: d.beatAcks.filter (· != h.sender) }) b)))
      ∧ ((b.trust.dom.role == .dka || b.trust.dom.role == .fenced) = false → fromAuth b h = true →
        exec (.heartbeat h) s = .next (s.settled (domSend h.sender .heartbeatAck (updDom (fun d => { d with beatAt := b.time }) b)))))
  ∧ (∀ s : State, isDka s.b = true →
      exec .dkaHeartbeatTimer s = .next (after (fun b =>
        let miss := if unheard b then b.trust.dom.beatMiss else 0
        if 5 ≤ miss then updDom (fun d => { d with role := .fenced }) b
        else domSendAll .heartbeat (updDom (fun d => { d with beatMiss := miss + 1, beatAcks := [] }) b)) s))
  ∧ (∀ s : State, s.b.trust.dom.state = .admitted → s.b.trust.dom.role = .standby → beatLost s.b = true →
      exec .standbyHeartbeatLoss s = .next (after (fun b => domSendAll .takeover (updDom (fun d => { d with takeAcks := [] }) b)) s))
  ∧ (∀ (s : State) (h : DomHdr) (b : Block), heard h (fun b => fromStandby b h) s.b = some b → b.trust.dom.role = .member → beatLost b = true →
      exec (.takeover h) s = .next (s.settled (domSend h.sender .takeoverAck
        (updDom (fun d => { d with auth := some (h.sender, h.ident), standby := none, beatAt := b.time }) b))))
  ∧ (∀ (s : State) (h : DomHdr) (b : Block), heard h (fun b => b.trust.dom.role == .standby && boundSender b h) s.b = some b →
      exec (.takeoverAck h) s = .next (s.settled (
        let b := updDom (fun d => { d with takeAcks := h.sender :: d.takeAcks.filter (· != h.sender) }) b
        if majority b b.trust.dom.takeAcks then
          let b := updDom (fun d => { d with role := .dka, auth := some (d.pkg, d.ident), standby := none, beatMiss := 1, beatAcks := [], takeAcks := [] }) b
          commitChange (.grant (min (epochNow b + 2) 0xFFFFFE)) (domSendAll .heartbeat b)
        else b)))
  ∧ (∀ s : State, s.b.trust.dom.state = .admitted → s.b.trust.dom.epoch < epochNow s.b →
      exec .epochBoundary s = .next (after (fun b =>
        let e := b.trust.dom.epoch + 1
        let b := updDom (fun d => { d with epoch := e }) b
        let b := if allHold b e then b else raisePrimary 13 b
        stageKeys (if isDka b then domChange (.grant (min (e + 2) 0xFFFFFE)) b else b)) s))
  ∧ (∀ s : State, exec .previousEpochKeyErase s = .next (after (fun b =>
      stageKeys { b with lport := Sparse.mapAll {} b.lport (fun _ p => { p with pairs := Sparse.mapAll {} p.pairs (fun _ q =>
        if q.keys.any (fun k => k.1 == b.trust.dom.epoch) then { q with keys := q.keys.filter (fun k => decide (b.trust.dom.epoch ≤ k.1)) } else q) }) }) s))
  ∧ (∀ (s : State) (h : DomHdr) (mx : BitVec 24) (b : Block), heard h (fun b => fromAuth b h) s.b = some b →
      exec (.epochGrant h mx) s = .next (s.settled (stageKeys (updDom (fun d => { d with grant := Nat.max d.grant mx.toNat }) b))))

/-- R276 to R279, R310: the SPDM responder. Every base request is answered with what the profile names; a challenge with the digest of
its slot's chain, signed by the layout alias, for slot 1 by the management identity; measurements with the blocks asked for, signed or
not. KEY_EXCHANGE opens one of at most eight sessions with a point of Sage's own and the secret of both, and FINISH completes it, a
management session only under the fused operator root; keys are updated, sessions ended; large messages go in chunks. -/
def Obligations.SpdmResponder : Prop :=
  (∀ (s : State) (r : SpdmReq), answering s.b →
      exec (.getVersion r) s = .next (after (fun b => spdmSay r (.version [0x13]) (updAtt (fun a => { a with version := true }) b)) s)
      ∧ exec (.getCapabilities r) s = .next (after (fun b => spdmSay r .capabilities (updAtt (fun a => { a with caps := true }) b)) s)
      ∧ exec (.negotiateAlgorithms r) s = .next (after (fun b => spdmSay r (.algorithms
          { asym := .ecdsaP384, hash := .sha384, meas := .sha384, dhe := .secp384r1, aead := .aes256Gcm }) (updAtt (fun a => { a with algs := true }) b)) s)
      ∧ exec (.getDigests r) s = .next (after (fun b => spdmSay r (.digests [(0, slotDigest b 0), (1, slotDigest b 1)]) b) s)
      ∧ exec (.getPqChain r) s = .next (after (fun b => spdmSay r (.pqChain b.trust.att.chain (chainOf b 1)) b) s)
      ∧ (∀ slot, slot < 2 → exec (.getCertificate r slot) s = .next (after (fun b => spdmSay r (.certificate slot b.trust.att.chain (slotCerts b slot)) b) s))
      ∧ (∀ slot nonce, slot < 2 → exec (.challenge r slot nonce) s = .next (after (fun b =>
          let said := Config.spdmBytes 3 [slot, nonce.toNat, (slotDigest (fresh b).2 slot).toNat]
          spdmSay r (.challengeAuth slot nonce (if slot = 0 then aliasEc (fresh b).2 said b.freeCtr
            else ecSign (getKey (fresh b).2 3).key (sha384 said) b.freeCtr)) (fresh b).2) s))
      ∧ (∀ index nonce, (index ≤ 0x0A ∨ index = 0x20 ∨ index = 0xFF) →
          exec (.getMeasurements r index false nonce) s = .next (after (fun b =>
            spdmSay r (.measurements index (measOf b) (blocksFor index (measOf b)) none) b) s)
          ∧ exec (.getMeasurements r index true nonce) s = .next (after (fun b =>
            let c := (fresh b).2
            let l := blocksFor index (measOf b)
            let all := l ++ [{ index := 0x20, raw := true, value := leBytes 4627 (aliasDsa (fresh c).2 (respBytes index nonce l) b.freeCtr).toNat }]
            spdmSay r (.measurements index (measOf b) all (some (nonce, aliasEc (fresh c).2 (respBytes index nonce all) c.freeCtr))) (fresh c).2) s)))
  ∧ (∀ (s : State) (r : SpdmReq) (mgmt : Bool) (exch : BitVec 768), answering s.b → s.b.trust.att.sess.length < 8 → (mgmt = true → r.tr = .mctp) →
      s.b.keys.mint.drbgOk = true → ecOn (ecOfXY (leBytes 96 exch.toNat)) = true →
      exec (.keyExchange r mgmt exch) s = .next (after (fun b =>
        let c := (fresh b).2
        let d := ecScalar (Config.ecNonce b.freeCtr 0).toNat
        let mine := BitVec.ofNat 768 (leNat (ecXY (ecTimesBase d)))
        let said := Config.spdmBytes 2 [exch.toNat, mine.toNat, freeSess (fresh c).2]
        let sig := if mgmt then ecSign (getKey (fresh c).2 3).key (sha384 said) c.freeCtr else aliasEc (fresh c).2 said c.freeCtr
        spdmSay r (.session (freeSess (fresh c).2) mine sig) (updAtt (fun a =>
          { a with sess := a.sess ++ [{ num := freeSess (fresh c).2, tr := r.tr, mgmt := mgmt, done := false, keys := 0,
                                        secret := (ecShared d (leBytes 96 exch.toNat)).getD [] }] }) (fresh c).2)) s))
  ∧ (∀ (s : State) (r : SpdmReq) (root : Digest) (x : Sess), answering s.b →
      r.sess.bind (fun n => s.b.trust.att.sess.find? (fun s => s.num == n && s.tr == r.tr && !s.done)) = some x →
      (x.mgmt = true → (doneBank s.b fOpr).isSome = true ∧ root = otpDigest s.b fOpr) →
      exec (.finish r root true) s = .next (after (fun b => spdmSay r (.finished x.num)
        (updAtt (fun a => { a with sess := updateWhere (fun y => y.num == x.num) (fun y => { y with done := true }) a.sess }) b)) s))
  ∧ (∀ (s : State) (r : SpdmReq) (x : Sess), answering s.b → r.sess.bind (openSess s.b (some r.tr)) = some x →
      exec (.keyUpdate r) s = .next (after (fun b => spdmSay r .ack
        (updAtt (fun a => { a with sess := updateWhere (fun y => y.num == x.num) (fun y => { y with keys := y.keys + 1 }) a.sess }) b)) s)
      ∧ exec (.heartbeatSpdm r) s = .next (after (spdmSay r .ack) s)
      ∧ exec (.endSession r) s = .next (after (fun b => spdmSay r (.ended x.num) (closeSess x.num b)) s))
  ∧ (∀ (s : State) (r : SpdmReq) (last : Bool) (data : Bytes), answering s.b →
      exec (.chunkSend r 0 last data) s = .next (after (fun b => spdmSay r .ack (updAtt (fun a =>
        if last then { a with chunk := none, big := data } else { a with chunk := some (1, data) }) b)) s))
  ∧ (∀ (s : State) (r : SpdmReq) (seq : Nat) (last : Bool) (data got : Bytes), answering s.b → s.b.trust.att.chunk = some (seq + 1, got) →
      exec (.chunkSend r (seq + 1) last data) s = .next (after (fun b => spdmSay r .ack (updAtt (fun a =>
        if last then { a with chunk := none, big := got ++ data } else { a with chunk := some (seq + 2, got ++ data) }) b)) s))
  ∧ (∀ (s : State) (r : SpdmReq) (seq : Nat), answering s.b → ((s.b.trust.att.big.drop (seq * Config.chunkBytes)).take Config.chunkBytes).isEmpty = false →
      exec (.chunkGet r seq) s = .next (after (fun b => spdmSay r (.chunk seq (decide (b.trust.att.big.length ≤ (seq + 1) * Config.chunkBytes))
        ((b.trust.att.big.drop (seq * Config.chunkBytes)).take Config.chunkBytes)) b) s))

/-- R277, R280, R282, R287, R292, R300 to R303, R311, R347: vendor-defined requests and TDISP, each in a secured session that is not the
management one. The policy forms a domain, or the status says why it cannot; a number that stays quarantined is resolved; a tenant in RUN in its own session aborts its
domain's work; the DKA gives parts of its bundle and its members' evidence. A tenant interface is locked, started once its stream is
active, stopped, and reported. A certificate chain whose leaf keys and
root are the package's own is kept; a tenant instance is created where none is, and destroyed. -/
def Obligations.TenantsAndTdisp : Prop :=
  (∀ (s : State) (r : SpdmReq) (x : Sess), speaksIn r x s.b →
      (∀ image, replicating s.b = false → exec (.domPolicy r image) s = .next (after (fun b => spdmSay r (.vendor (formDomain image b).1) (formDomain image b).2) s))
      ∧ (∀ pkg keep, isDka s.b = true → s.b.trust.dom.binds.any (fun e => e.2.pkg == pkg && e.2.state == .quarantined && e.2.ident == keep) = true →
          exec (.domResolve r pkg keep) s = .next (after (fun b => spdmSay r (.vendor .ok) (domChange (.keep pkg keep) b)) s))
      ∧ (∀ tag, inDomain s.b = true → ctxsOf s.b tag ≠ [] → (getTInst s.b tag.toNat).tdisp = true → (getTInst s.b tag.toNat).state = .run →
          (getTInst s.b tag.toNat).sess = some x.num →
          exec (.domAbort r tag) s = .next (after (fun b => spdmSay r (.vendor .ok)
            { b with bay := { b.bay with due := b.bay.due.or (some (.aborted, b.trust.dom.pkg)) } }) s))
      ∧ (isDka s.b = true →
          (∀ off len, len ≤ 65536 → exec (.getBundle r off len) s = .next (after (fun b => let part := ((bundleBytes b).drop off).take len
            spdmSay r (.bundle b.trust.dom.bundleSeq part) (updAtt (fun a => { a with big := part }) b)) s))
          ∧ ∀ pkg, exec (.getMemberEvidence r pkg) s = .next (after (fun b => spdmSay r (.memberEvidence ((bindOf b pkg).map (·.2))) b) s)))
  ∧ (∀ (s : State) (r : SpdmReq) (x : Sess) (tag : Tag), speaksIn r x s.b → r.tr = .doe →
      exec (.getTdispVersion r) s = .next (after (spdmSay r .tdispVersion) s)
      ∧ exec (.getTdispCapabilities r) s = .next (after (spdmSay r .tdispCapabilities) s)
      ∧ exec (.getDeviceInterfaceState r tag) s = .next (after (fun b => spdmSay r (.tdispState (getTInst b tag.toNat).state) b) s)
      ∧ ((getTInst s.b tag.toNat).state ≠ .free → exec (.getDeviceInterfaceReport r tag) s = .next (after (fun b => spdmSay r (.report
          { tag := tag, tdisp := (getTInst b tag.toNat).tdisp, pasid := (getTInst b tag.toNat).pasid,
            queues := (b.cm.queues.filter (fun q => q.2.state != .free && q.2.tag == tag)).map (·.1),
            regions := b.rgn.table.filter (fun x => x.2.state != .free && x.2.tag == tag),
            windows := b.fab.table.filter (fun x => x.2.valid && x.2.tag == tag) }) b) s))
      ∧ ((getTInst s.b tag.toNat).tdisp = true →
          (∀ stream, (getTInst s.b tag.toNat).state = .config → exec (.lockInterfaceRequest r tag stream) s = .next (after (fun b => spdmSay r .tdispOk
            (updTInst tag.toNat (fun t => { t with state := .locked, stream := stream, sess := some x.num }) b)) s))
          ∧ ((getTInst s.b tag.toNat).state = .locked → streamActive s.b (getTInst s.b tag.toNat).stream = true →
              exec (.startInterfaceRequest r tag) s = .next (after (fun b => spdmSay r .tdispOk (updTInst tag.toNat (fun t => { t with state := .run }) b)) s))
          ∧ ((getTInst s.b tag.toNat).state = .run →
              exec (.stopInterfaceRequest r tag) s = .next (after (fun b => spdmSay r .tdispOk (tenantTo tag .config b)) s))))
  ∧ (∀ (s : State) (m : MbReq) (j : MbJob) (b : Block), mailTaken m 0x0103 [.k] s.b = some (j, b) →
      ∀ c : CertChain, exec (.certLoad m c) s = .next (s.settled (
        if leBytes 97 c.leafEc.toNat = seedPublic 2 (layerSeed b 0 2) ∧ leBytes 2592 c.leafDsa.toNat = seedPublic 1 (layerSeed b 0 1)
            ∧ digestOf c.root = Config.deviceRoot
        then mbEnd j .ok [] (updAtt (fun a => { a with chain := some c }) b) else mbEnd j .badConfig [] b)))
  ∧ (∀ (s : State) (m : MbReq) (tag : Tag) (pasid : BitVec 20) (tdisp : Bool) (ifid : BitVec 16) (j : MbJob) (b : Block),
      mailTaken m 0x0120 [.k] s.b = some (j, b) → packageOos b = false → (b.trust.tinst.filter (fun t => t.2.state != .free)).length < 64 →
      (getTInst b tag.toNat).state = .free →
      exec (.tinstCreate m tag pasid tdisp ifid) s = .next (s.settled (mbEnd j .ok []
        (updTInst tag.toNat (fun _ => { state := if tdisp then .config else .run, tdisp := tdisp, pasid := pasid, ifid := ifid }) b))))
  ∧ (∀ (s : State) (m : MbReq) (tag : Tag) (j : MbJob) (b : Block), mailTaken m 0x0121 [.k, .m] s.b = some (j, b) →
      (getTInst b tag.toNat).state ≠ .free → (getTInst b tag.toNat).dying = false →
      exec (.tinstDestroy m tag) s = .next (s.settled (mbEnd j .ok [] (destroyTenant tag b))))

/-- R305 to R309, R354: migration. MIG_OPEN with a peer whose evidence is good makes the KEK entry of the secret that the
source encapsulates and sends and the target decapsulates, bound to the transcript, and at the target the frozen instance; a freeze is
held until nothing is outstanding, or what is left is aborted; the blob of a frozen instance is exported; a good blob is
rebuilt and RESTORED sent; RESTORED commits and destroys the source's copy; COMMIT starts the target's; an unanswered RESTORED asks the
DKA; MIG_ABORT returns the source. A lost package is declared dead. -/
def Obligations.Migrations : Prop :=
  (∀ (s : State) (m : MbReq) (tag : Tag) (peer : Pkg) (kem : BitVec 12544) (transcript : Bytes) (j : MbJob) (b : Block) (k : Nat),
      mailTaken m 0x0130 [.k] s.b = some (j, b) → replicating b = false → b.trust.dom.state = .admitted → boundPeer b peer = true → migOf b tag = none → freeKey b = some k →
      ((getTInst b tag.toNat).state ≠ .free → (getTInst b tag.toNat).state ≠ .error → podOf peer = podOf b.trust.dom.pkg → b.keys.mint.drbgOk = true →
        exec (.migOpen m tag peer true true kem transcript) s = .next (s.settled (
          let b := askBind peer b
          let r := kemEncaps (leBytes 1568 kem.toNat) (Config.draw b.freeCtr)
          let b := domSend peer (.migKey tag (BitVec.ofNat 12544 (leNat r.2))) (fresh b).2
          let b := writeKey k { type := 4, depth := 2, sys := true, usage := 0x82, parent := 0, budget := unlimited,
                                key := kdfKey r.1 "migrate" (sha384 transcript) } b
          mbEnd j .ok [] { b with trust := { b.trust with migs := b.trust.migs.filter (fun x => x.tag != tag) ++
            [{ tag := tag, peer := peer, source := true, kek := k, frozen := false, restored := false, committed := false, aborted := false }] } })))
      ∧ ((getTInst b tag.toNat).state = .free →
        exec (.migOpen m tag peer false true kem transcript) s = .next (s.settled (
          let b := askBind peer b
          let ss := kemDecaps (getKey b 4).key (leBytes 1568 kem.toNat)
          let b := updTInst tag.toNat (fun _ => { state := .frozen }) (writeKey k
            { type := 4, depth := 2, sys := true, usage := 0x82, parent := 0, budget := unlimited, key := kdfKey ss "migrate" (sha384 transcript) } b)
          mbEnd j .ok [] { b with trust := { b.trust with migs := b.trust.migs.filter (fun x => x.tag != tag) ++
            [{ tag := tag, peer := peer, source := false, kek := k, frozen := false, restored := false, committed := false, aborted := false }] } }))))
  ∧ (∀ (s : State) (m : MbReq) (tag : Tag) (j : MbJob) (b : Block), mailTaken m 0x0131 [.k] s.b = some (j, b) →
      (migOf b tag).any (fun g => g.source && !g.aborted && !g.committed) = true → (getTInst b tag.toNat).state = .run →
      exec (.migFreeze m tag) s = .next (s.settled (mbHold { j with arg := tag.toNat }
        (updTInst tag.toNat (fun t => { t with state := .frozen, was := t.state }) b))))
  ∧ (∀ (s : State) (tag : Tag), (migOf s.b tag).any (fun g => g.source && !g.frozen) = true → (getTInst s.b tag.toNat).state = .frozen →
      exec (.migFreezeTimeout tag) s = .next (after (fun b => freezeEnd tag (killTag tag .aborted b)) s))
  ∧ (∀ (s : State) (m : MbReq) (tag : Tag) (j : MbJob) (b : Block) (g : Mig), mailTaken m 0x0132 [.k] s.b = some (j, b) → migOf b tag = some g →
      g.source = true → g.frozen = true → g.aborted = false → g.committed = false → blobBytes (blobOf b tag g.kek) ≤ 262144 →
      exec (.migExport m tag) s = .next (s.settled (
        let data := sealBlob (getKey b g.kek).key (leBytes 12 (Config.draw b.freeCtr).toNat) (blobOf b tag g.kek)
        mbEnd j .ok data (updMig tag (fun x => { x with blob := some data }) (fresh b).2))))
  ∧ (∀ (s : State) (m : MbReq) (tag : Tag) (blob : MigBlob) (data : Bytes) (j : MbJob) (b b' : Block) (g : Mig), mailTaken m 0x0133 [.k] s.b = some (j, b) →
      replicating b = false → migOf b tag = some g → g.source = false → g.restored = false → restoreBlob tag g.kek blob b = .ok b' →
      exec (.migRestore m tag blob data) s = .next (s.settled (
        if opensTo (getKey b g.kek).key blob data = true then
          mbEnd j .ok [] (domSend g.peer (.restored tag) (updMig tag (fun g => { g with restored := true })
            (updTInst tag.toNat (fun t => { t with tdisp := blob.tdisp, pasid := blob.pasid, stream := blob.stream, ifid := blob.ifid }) b')))
        else mbEnd j .tagFail [] b)))
  ∧ (∀ (s : State) (m : MbReq) (tag : Tag) (j : MbJob) (b : Block) (g : Mig), mailTaken m 0x0134 [.k] s.b = some (j, b) → migOf b tag = some g →
      g.committed = false → g.aborted = false →
      exec (.migAbort m tag) s = .next (s.settled (mbEnd j .ok [] (if g.source then
          unfreeze tag (mbFinish 0x0131 tag.toNat .aborted [] (updMig tag (fun g => { g with aborted := true }) b)) else dropMig tag (destroyTenant tag b)))))
  ∧ (∀ (s : State) (h : DomHdr) (tag : Tag) (b : Block) (g : Mig), heard h (fun b => fromMigPeer b h tag true) s.b = some b → migOf b tag = some g →
      g.aborted = false → g.committed = false →
      exec (.restored h tag) s = .next (s.settled (destroyTenant tag (updMig tag (fun g => { g with committed := true }) (domSend h.sender (.commit tag) b)))))
  ∧ (∀ (s : State) (h : DomHdr) (tag : Tag) (go : Bool) (b : Block), heard h (fun b => fromMigPeer b h tag false) s.b = some b →
      (migOf b tag).any (fun g => g.restored) = true →
      exec (.commit h tag go) s = .next (s.settled (if go then commitTarget tag b else dropMig tag (destroyTenant tag b))))
  ∧ (∀ (s : State) (tag : Tag) (released : Bool) (g : Mig) (p : Pkg) (i : Digest), migOf s.b tag = some g → g.source = false → g.restored = true →
      s.b.trust.dom.auth = some (p, i) → p ≠ s.b.trust.dom.pkg →
      exec (.migrationAnswerTimeout tag released) s = .next (after (fun b =>
        if released then commitTarget tag (domSend p (.migAsk tag) b) else domSend p (.migAsk tag) b) s))
  ∧ (∀ (s : State) (h : DomHdr) (pkg : Pkg) (b : Block), heard h (fun b => fromAuth b h) s.b = some b →
      exec (.pkgLost h pkg) s = .next (s.settled (declareDead pkg b)))
  ∧ (∀ (s : State) (pkg : Pkg), isDka s.b = true → boundPeer s.b pkg = true → s.b.fo.witness.find? (fun e => e.1 == pkg.toNat) = none →
      exec (.pkgLostWaitExpiry pkg) s = .next (after (fun b =>
        declareDead pkg ((members b).foldl (fun b p => if p = pkg then b else domSend p (.pkgLost pkg) b) b)) s))

/-- R355 to R357: failover. The oldest mutation takes effect when the SP has acknowledged it, or all do when it does not; a full copy makes
it standby; the PP renews its lease at its witness while it reaches more than half of the package, and fences itself when it runs out;
the SP that hears no heartbeat asks for the lease, gets it 10 ms after its end, and takes over; a PP may relinquish to it. -/
def Obligations.Failover : Prop :=
  (∀ (s : State) (m : Mut) (t : List Mut), s.b.fo.repl = m :: t →
      exec .replicationAck s = .next (after (fun b => mutEffect m (updFo (fun f => { f with repl := t }) b)) s)
      ∧ exec .replicationTimeout s = .next (after (fun b => (m :: t).foldl (fun b m => mutEffect m b)
          (updFo (fun f => { f with repl := [], sp := .fenced, lost := true, copying := true }) b)) s))
  ∧ (∀ s : State, s.b.fo.copying = true → s.b.fo.sp ≠ .acting → (spInst s.b).isSome = true →
      exec .spFullCopyEnd s = .next (after (updFo (fun f => { f with sp := .standby, lost := false, copying := false })) s))
  ∧ (∀ (s : State) (reached p : Nat) (w : Pkg), ppInst s.b = some p → witnessOf s.b = some w → isPrimary s.b p = true →
      (s.b.inst.filter (fun e => e.2.built)).length < 2 * reached →
      exec (.leaseRenewalTimer reached) s = .next (after (fun b => domSend w .leaseRenew (updFo (fun f => { f with leaseEnd := some (b.time + 50000000) }) b)) s))
  ∧ (∀ (s : State) (t : BitVec 64) (p : Nat), s.b.fo.leaseEnd = some t → ppInst s.b = some p → t.toNat ≤ s.b.time.toNat → (witnessOf s.b).isSome = true →
      s.b.fo.ppFenced = false → s.b.fo.sp ≠ .acting → exec .leaseExpiry s = .next (after (fun b => raise p 15 (updFo (fun f => { f with ppFenced := true }) b)) s))
  ∧ (∀ s : State, (spInst s.b).isSome = true → exec .ppHeartbeat s = .next (after (updFo (fun f => { f with ppAlive := true, asking := false })) s))
  ∧ (∀ (s : State) (w : Pkg), s.b.fo.sp = .standby → witnessOf s.b = some w →
      exec .ppHeartbeatLoss s = .next (after (fun b => domSend w .leaseReq (updFo (fun f => { f with ppAlive := false, asking := true }) b)) s))
  ∧ (∀ (s : State) (pkg : Pkg) (late : Nat), (primaryInst s.b).isSome = true → boundPeer s.b pkg = true → 10000000 ≤ late →
      exec (.leaseReq pkg late) s = .next (after (fun b => let t := (domSend pkg (.leaseAnswer true) b).time
        updFo (fun f => { f with witness := Sparse.set 0 f.witness pkg.toNat (t + 50000000) }) (domSend pkg (.leaseAnswer true) b)) s))
  ∧ (∀ s : State, s.b.fo.sp = .standby → s.b.fo.asking = true → exec .leaseGrant s = .next (after takeover s))
  ∧ (∀ (s : State) (p : Nat) (w : Pkg), ppInst s.b = some p → isPrimary s.b p = true → witnessOf s.b = some w → s.b.fo.sp = .standby →
      exec .relinquish s = .next (after (fun b => takeover (domSend w .relinquish b)) s))

/-- R312 to R317, R320, R323 to R326: contexts, queues, fences and references. A tenant or a driver defines a context of its tag, in the
lowest free index; a queue goes with a context it may use; a fence carries up to four sharers; CTX_DESTROY and Q_DESTROY release
the creator's reference, HOLD takes one and RELEASE returns one; Q_RESTART ends what waits and opens a stopped queue; a context
that is torn down and of which nothing is left goes free. -/
def Obligations.ContextObjects : Prop :=
  (∀ (s : State) (src : Src) (b : Block), takenLocal src 0x00 s.b = some b →
      exec (.nop src) s = .next (s.settled (doneCmd src .ok 0 b)))
  ∧ (∀ (s : State) (src : Src) (b : Block) (i : Nat), taken .none src 0x01 0 s.b = some b → replicating b = false → packageOos b = false →
      let r := reqOf b src
      let tag : Tag := BitVec.ofNat 6 (fieldNat (srcOp b src 40) 5 0)
      ((isDriver b r = true ∧ kClosed b tag = false) ∨ (isDriver b r = false ∧ tag = r.tag)) →
      lowestFrom (fun k => (getCtx b k).state == .free) 65536 0 = some i →
      exec (.ctxDefine src) s = .next (s.settled (
        let c := newRef tyCtx i (updCtx i (fun _ => { state := .defined, tag := tag, by' := if r.kernel then none else some r.ctx, label := srcOp b src 48, driver := r.kernel && tag == 0 && !(getTInst b 0).tdisp }) b)
        doneCmd src .ok (handleOf c tyCtx i) c)))
  ∧ (∀ (s : State) (src : Src) (b : Block) (i : Nat), taken .none src 0x02 0 s.b = some b → replicating b = false →
      nameObj b (reqOf b src) [tyCtx] (srcOp b src 40) = (.ok, tyCtx, i) → (getRef b tyCtx i).creator = true →
      exec (.ctxDestroy src) s = .next (s.settled (doneCmd src .ok 0 (dropRef tyCtx i (updRef tyCtx i (fun r => { r with creator := false }) b)))))
  ∧ (∀ (s : State) (src : Src) (b : Block) (i : Nat), taken .none src 0x11 0 s.b = some b → replicating b = false →
      nameObj b (reqOf b src) [tyQueue] (srcOp b src 40) = (.ok, tyQueue, i) → (getRef b tyQueue i).creator = true →
      exec (.qDestroy src) s = .next (s.settled (doneCmd src .ok 0 (dropRef tyQueue i (updRef tyQueue i (fun r => { r with creator := false }) b)))))
  ∧ (∀ (s : State) (src : Src) (b : Block) (c q ty : Nat), taken .none src 0x10 0 s.b = some b → replicating b = false →
      let prio := fieldNat (srcOp b src 48) 1 0
      let log2 := fieldNat (srcOp b src 56) 4 0
      nameObj b (reqOf b src) [tyCtx] (srcOp b src 40) = (.ok, ty, c) → 3 ≤ log2 → log2 ≤ 16 →
      (prio = 0 → isDriver b (reqOf b src) = true) →
      lowestFrom (fun k => (getQueue b k).state == .free) 256 0 = some q →
      exec (.qCreate src) s = .next (s.settled (
        let d := newRef tyQueue q (updQueue q (fun _ => { state := .open, prio := prio, log2 := log2, tag := (getCtx b c).tag, ctx := BitVec.ofNat 16 c, ring := (srcOp b src 64).toNat, comp := (srcOp b src 72).toNat }) b)
        doneCmd src .ok (handleOf d tyQueue q) d)))
  ∧ (∀ (s : State) (src : Src) (b : Block) (q ty : Nat), taken .none src 0x12 0 s.b = some b → replicating b = false →
      nameObj b (reqOf b src) [tyQueue] (srcOp b src 40) = (.ok, ty, q) → partitionReset b (getQueue b q).ctx = false →
      exec (.qRestart src) s = .next (s.settled (
        let d := if (getQueue b q).cmd.any (fun c => c.phase == .wait || c.phase == .slot) then endUnrun (.queue q) .aborted b else b
        doneCmd src .ok 0 (updQueue q (fun x => { x with head := x.tail, part := none, state := if x.state = .stopped then .open else x.state }) d))))
  ∧ (∀ (s : State) (src : Src) (b : Block) (k : Nat), taken .none src 0x20 0 s.b = some b → replicating b = false →
      lowestFrom (fun k => !(getFence b k).live) (2 ^ 20) 0 = some k →
      exec (.fncCreate src) s = .next (s.settled (
        let bytes := ((srcCmd b src).map (·.bytes)).getD []
        let all := (List.range 4).map (fun j => sharerOf (leNat ((bytes.drop (56 + 4 * j)).take 4)))
        let d := newRef tyFence k (updFence k (fun _ => { live := true, value := srcOp b src 40, notify := fieldBit (srcOp b src 48) 0, ctx := (reqOf b src).ctx, tag := (reqOf b src).tag, sharers := all.filter (fun s => s.wait || s.signal) }) b)
        doneCmd src .ok (handleOf d tyFence k) d)))
  ∧ (∀ (s : State) (src : Src) (b : Block) (ty i : Nat), taken .none src 0x30 0 s.b = some b → replicating b = false →
      nameHeld b src = (.ok, ty, i) → (getRef b ty i).ref < 2 ^ 32 - 1 →
      exec (.hold src) s = .next (s.settled (
        let n := (getRef b ty i).ref + 1
        doneCmd src .ok (BitVec.ofNat 64 n) (updRef ty i (fun r => { r with ref := n, takers := takerOf (reqOf b src) :: r.takers }) b))))
  ∧ (∀ (s : State) (src : Src) (b : Block) (ty i : Nat), taken .none src 0x31 0 s.b = some b → replicating b = false →
      nameHeld b src = (.ok, ty, i) →
      exec (.release src) s = .next (s.settled (
        let who := takerOf (reqOf b src)
        doneCmd src .ok (BitVec.ofNat 64 ((getRef b ty i).ref - 1)) (dropRef ty i
          (updRef ty i (fun r => if r.takers.contains who then { r with takers := r.takers.erase who } else { r with creator := false }) b)))))
  ∧ (∀ (s : State) (type : BitVec 4) (i : Nat), replicating s.b = false → (getRef s.b type.toNat i).dying = true →
      exec (.objectFree type i) s = .next (after (bodyObjectFree type.toNat i) s))
  ∧ (∀ (s : State) (i : Nat), replicating s.b = false → (getRef s.b tyCtx i).dying = true → ctxEmpty s.b (BitVec.ofNat 16 i) = true →
      exec (.objectFree 1 i) s = .next (after (fun b =>
        let x := getCtx b i
        let c := if x.state = .resident then updSlot x.slot (fun s => { s with ctx := none }) b else b
        freeRef 1 i (updCtx i (fun _ => {}) { c with cm := { c.cm with ended := c.cm.ended.filter (fun c => c.toNat != i) } })) s))

/-- R313, R325, R360: the registers of the context window that only K writes. CTX_KCMD.GO starts the command in CTX_KSLOT; a write of
CTX_STORE or JNL_BASE that sets LOCK takes the range, with a key generated under index 7, or the key of index 6; once locked, a
write changes nothing. -/
def Obligations.ContextRegisters : Prop :=
  (∀ (s : State) (z : ZReq) (w : Word), served s.b z .ctx → z.attr = .k → fieldBit w 0 = true →
      let b := zcpRsp z.inst .ok s.b
      let c := cmdOfSlots ((List.range 16).flatMap (fun k => leBytes 8 (wordOf b.cm.kport.slot.toNat k).toNat)) 0
      let named : Option Ctx := if fieldBit w 1 then some (BitVec.ofNat 16 (fieldNat w 31 16)) else none
      b.cm.kport.busy = false → kportChecks b c named = [] → headerBad b { c with flags := c.flags &&& ~~~ 1 } = false →
      exec (.kernelCommandGo z w) s = .next (s.settled (makeReady .kport
        { b with cm := { b.cm with kport := { b.cm.kport with busy := true, cmd := some c, ctx := if actsForCtx c then named else none } } })))
  ∧ (∀ (s : State) (z : ZReq) (w : Word) (d : Block), served s.b z .ctx → z.attr = .k →
      let b := zcpRsp z.inst .ok s.b
      b.cm.storeLock = false → fieldBit w 0 = true → lockStore (fieldNat w 38 8) b = .ok d →
      exec (.ctxStoreLock z w) s = .next (s.settled d))
  ∧ (∀ (s : State) (z : ZReq) (w : Word) (d : Block), served s.b z .jnl → z.attr = .k →
      let b := zcpRsp z.inst .ok s.b
      b.jnl.lock = false → fieldBit w 0 = true → lockJournal (fieldNat w 38 8) b = .ok d →
      exec (.jnlBaseLock z w) s = .next (s.settled d))
  ∧ (∀ (s : State) (z : ZReq) (w : Word), served s.b z .ctx → z.attr = .k → (zcpRsp z.inst .ok s.b).cm.storeLock = true →
      exec (.ctxStoreLock z w) s = .next (after (zcpRsp z.inst .ok) s))
  ∧ (∀ (s : State) (z : ZReq) (w : Word), served s.b z .jnl → z.attr = .k → (zcpRsp z.inst .ok s.b).jnl.lock = true →
      exec (.jnlBaseLock z w) s = .next (after (zcpRsp z.inst .ok) s))

/-- R335 to R340: residency and Context Seal. CTX_SEAL of a resident context puts its waiting commands back and opens a seal to a place
the package serves, its key derived from the seal count; each line in order goes out sealed or comes back checked; SEAL_END
records the digest and empties the slot; RESTORE_END makes the context resident only when the digest agrees, and tears it down
otherwise, as a line that fails does; a stream that waits too long ends with TIMEOUT. -/
def Obligations.ContextSeal : Prop :=
  (∀ (s : State) (src : Src) (b : Block) (c : Ctx), taken .none src 0x03 0 s.b = some b → replicating b = false →
      let k := fieldNat (srcOp b src 40) 5 0
      let base := (srcOp b src 48).toNat
      let sram := (srcOp b src 56).toNat
      let states := min 512 (Config.stateLines b.freeCtr).toNat
      let total := states + sram
      let d := (fresh b).2
      (getSlot d k).ctx = some c → (getSlot d k).wr = none → sram ≤ 268435456 → base % 128 = 0 → base + 128 * total ≤ 2 ^ 52 →
      imageServed d (base / 128) total = true → (getRef d tyCtx c.toNat).dying = false → mayUse d (reqOf d src) tyCtx c.toNat = true →
      streamsBusy d false (base / 128) total = false →
      exec (.ctxSeal src) s = .next (s.settled (
        let count := (getCtx d c.toNat).count + 1
        putBack c (setJob k false (some { restore := false, ctx := c, src := src, base := base, states := states, lines := total, started := false, count := count, next := [], got := 0, digest := 0, bad := none, key := sealKey d c count }) d))))
  ∧ (∀ (s : State) (src : Src) (b : Block) (c ty : Nat), taken .none src 0x04 0 s.b = some b → replicating b = false → packageOos b = false →
      let k := fieldNat (srcOp b src 48) 5 0
      let mask : BitVec 128 := BitVec.ofNat 128 (leNat (((((srcCmd b src).map (·.bytes)).getD []).drop 56).take 16))
      nameObj b (reqOf b src) [tyCtx] (srcOp b src 40) = (.ok, ty, c) → (srcOp b src 48).toNat < 64 →
      (getSlot b k).rd = none → (getSlot b k).ctx = none → ctxMoving b (BitVec.ofNat 16 c) = false →
      ((getCtx b c).state = .defined →
        exec (.ctxRestore src) s = .next (s.settled (doneCmd src .ok 0 (updSlot k (fun s => { s with ctx := some (BitVec.ofNat 16 c) })
          (updCtx c (fun x => { x with state := .resident, slot := k, mask := mask }) b)))))
      ∧ ((getCtx b c).state = .sealed → streamsBusy b true ((getCtx b c).base / 128) (getCtx b c).lines = false →
        exec (.ctxRestore src) s = .next (s.settled (
          let x := getCtx b c
          setJob k true (some { restore := true, ctx := BitVec.ofNat 16 c, src := src, base := x.base, states := x.states, lines := x.lines, started := true, count := x.count, next := [], got := 0, digest := 0, bad := none, key := sealKey b (BitVec.ofNat 16 c) x.count })
            (updCtx c (fun x => { x with slot := k, mask := mask }) b)))))
  ∧ (∀ (s : State) (n : Nat) (write : Bool) (rq : MnReq) (data : Line) (sb : Sideband) (k : Nat) (j : SealJob),
      streamOf s.b (!write) rq.addr.toNat = some (k, j) → (mapLine s.b rq.addr.toNat).map (·.1) = some n →
      rq.ctx = j.ctx → rq.tag = (getCtx s.b j.ctx.toNat).tag → streamTakes s.b j n rq.addr.toNat = true →
      exec (.sealStreamLine n write rq data sb) s = .next (after (if write then sealWriteLine n k j rq data else sealReadLine n k j rq data sb) s))
  ∧ (∀ (b : Block) (n k : Nat) (j : SealJob) (rq : MnReq) (data : Line) (sb : Sideband),
      let l := rq.addr.toNat
      let chk := imageCheck b j l data sb
      let st := statusWorst (chk.early ++ chk.late)
      (st = .ok → sealReadLine n k j rq data sb b =
        setJob k true (some (streamStep b j n l (imageMac b j l data))) (imageAnswer n j l (rdOut rq.id .ok chk.data chk.sorrel false) b))
      ∧ (statusFailing st = true → sealReadLine n k j rq data sb b =
        spoilRestore k j st (memFailure n rq st (imageAnswer n j l (rdOut rq.id st 0 chk.sorrel false) b))))
  ∧ (∀ (s : State) (k : Nat) (j : SealJob), replicating s.b = false → (getSlot s.b k).wr = some j → j.started = true → j.lines ≤ j.got →
      exec (.sealEnd k) s = .next (after (fun b =>
        let d := updCtx j.ctx.toNat (fun x => { x with state := .sealed, count := j.count, base := j.base, lines := j.lines, states := j.states, digest := j.digest }) (dropCtxKeys j.ctx b)
        doneCmd j.src .ok 0 (updSlot k (fun s => { s with ctx := none, wr := none }) d)) s))
  ∧ (∀ (s : State) (k : Nat) (j : SealJob), replicating s.b = false → (getSlot s.b k).rd = some j → (getSlot s.b k).wr = none → j.lines ≤ j.got →
      (j.digest = (getCtx s.b j.ctx.toNat).digest →
        exec (.restoreEnd k) s = .next (after (fun b => doneCmd j.src .ok 0 (updSlot k (fun s => { s with ctx := some j.ctx, rd := none })
          (updCtx j.ctx.toNat (fun x => { x with state := .resident }) b))) s))
      ∧ (j.digest ≠ (getCtx s.b j.ctx.toNat).digest → exec (.restoreEnd k) s = .next (after (spoilRestore k j .tagFail) s)))
  ∧ (∀ (s : State) (k : Nat), replicating s.b = false →
      ((getSlot s.b k).wr ≠ none → exec (.sealTimeout k false) s = .next (after (stopSeal k false .timeout) s))
      ∧ ((getSlot s.b k).rd ≠ none → exec (.sealTimeout k true) s = .next (after (stopSeal k true .timeout) s)))

/-- R318 to R322, R324: queues. A doorbell written with K, or with T and the queue's tag, moves TAIL; the next covered command of an open
queue whose context runs is read and starts: it waits on its fence, or is made ready; a bad header, a failing read, a missing
second slot and a fence right it lacks each end or hold it; its completion record is written where CDONE points, and CDONE rises. -/
def Obligations.CommandQueues : Prop :=
  (∀ (s : State) (z : ZReq) (q : Nat) (w : Word), served s.b z .ctx →
      let b := zcpRsp z.inst .ok s.b
      let x := getQueue b q
      let t : BitVec 32 := BitVec.ofNat 32 (fieldNat w 31 0)
      replicating b = false → (z.attr = .k ∨ z.tag = x.tag) → x.state ≠ .free → x.state ≠ .dying →
      (t - x.head).toNat ≤ 2 ^ x.log2 → (x.tail - x.head).toNat ≤ (t - x.head).toNat →
      exec (.ctxQtailWrite z q w) s = .next (s.settled (updQueue q (fun x => { x with tail := t }) b)))
  ∧ (∀ (s : State) (q : Nat) (slots : Line) (rd : Status), replicating s.b = false → queueMayStart s.b q = true →
      exec (.queueCommandStart q slots rd) s = .next (after (bodyQueueStart q slots rd) s))
  ∧ (∀ (b : Block) (q : Nat) (slots : Line) (rd : Status), queueMayStart b q = true →
      let x := getQueue b q
      let c := cmdOfSlots (lineBytes slots) x.head
      let r := linesAccess (srcReq b (.queue q)) false (slotLines x c.long) rd b
      let b1 := updQueue q (fun x => { x with part := none }) r.2
      (statusFailing r.1 = true → bodyQueueStart q slots rd b = stopQueue q { c with op := 0, flags := 0, token := 0, bytes := [] } r.1 b1)
      ∧ (statusFailing r.1 = false → headerBad b1 c = true → bodyQueueStart q slots rd b = stopQueue q c .badConfig b1)
      ∧ (statusFailing r.1 = false → headerBad b1 c = false → c.long = true → (x.tail - x.head).toNat < 2 →
          bodyQueueStart q slots rd b = updQueue q (fun x => { x with part := some c }) b1)
      ∧ (statusFailing r.1 = false → headerBad b1 c = false → (c.long = true → 2 ≤ (x.tail - x.head).toNat) → x.drain = none → cmdSig c = false →
          let b2 := updQueue q (fun x => { x with head := x.head + (if c.long then 2 else 1), cmd := some c }) b1
          (getTInst b2 (reqOf b1 (.queue q)).tag.toNat).state ≠ .frozen →
          bodyQueueStart q slots rd b = if cmdWait c then beginWait q b2 else makeReady (.queue q) b2))
  ∧ (∀ (s : State) (q : Nat) (wr : Status) (c : Cmd),
      let x := getQueue s.b q
      let at' := x.comp + 16 * (x.cdone.toNat % 2 ^ x.log2)
      let r := lineAccess (srcReq s.b (.queue q) (at' / 128)) true wr s.b
      replicating s.b = false → x.cmd = some c → c.phase = .record → statusFailing r.1 = false →
      exec (.completionRecordWrite q wr) s = .next (s.settled (
        let w0 : Word := BitVec.ofNat 64 (c.first.toNat + (statusCode c.status <<< 32))
        let b := updQueue q (fun x => { x with cmd := none, cdone := x.cdone + 1, lastRec := some (at', w0, c.result) }) r.2
        let b := trace ((primaryInst b).getD 0) { kind := 2, status := c.status, tag := x.tag, ctx := x.ctx, unit := q, arg := c.token.toNat } b
        if cmdNotify c then raisePrimary 2 b else b)))

/-- R327, R328, R329, R330, R331: fences. A satisfied wait runs its command; a signal leaves once the writes before it are acknowledged,
with the lowest-ranked status, to the fence here or to its home, where a sharer with the right raises VALUE and is answered; an
unanswered signal goes three times and then ends with TIMEOUT; a package subscribes, is updated, asks and unsubscribes; a line
without its right is discarded and counted. -/
def Obligations.Fences : Prop :=
  (∀ (s : State) (q : Nat) (st : Status), replicating s.b = false → waitMet s.b q = some st →
      exec (.fenceWaitSatisfied q) s = .next (after (waitOver q st) s))
  ∧ (∀ (b : Block) (q : Nat) (st : Status) (c : Cmd), (getQueue b q).cmd = some c →
      (statusFailing st = true → cmdAny c = false → waitOver q st b = endUnrun (.queue q) st b)
      ∧ ((statusFailing st = false ∨ cmdAny c = true) → waitOver q st b = makeReady (.queue q) b))
  ∧ (∀ (s : State) (src : Src) (c : Cmd), srcCmd s.b src = some c → c.phase = .signal →
      (openWrites s.b (reqOf s.b src).ctx).any c.before.contains = false →
      let r := takeSignal s.b (reqOf s.b src).ctx c.status
      let b := updCmd src (fun c => { c with phase := .remote }) r.2
      (handleRemote b (sigHandle c) = false → replicating b = false →
        exec (.fenceSignalApply src) s = .next (s.settled (bodyFenceSignalApply src r.1 b)))
      ∧ (handleRemote b (sigHandle c) = true → b.fab.dead.contains (handlePkg (sigHandle c)) = false →
        exec (.fenceSignalApply src) s = .next (s.settled (sendSignal src r.1 (updCmd src (fun c => { c with kill := some r.1 }) b)))))
  ∧ (∀ (b : Block) (src : Src) (st : Status) (c : Cmd) (k : Nat), srcCmd b src = some c → liveIndex b tyFence (sigHandle c) = some k →
      bodyFenceSignalApply src st b = toRecord src (fenceUpdate k (sigValue c) st b))
  ∧ (∀ (s : State) (src : Src) (c : Cmd), srcCmd s.b src = some c → c.phase = .remote → c.sends ≠ 0 →
      (c.sends < 3 → exec (.signalResendTimer src) s = .next (after (sendSignal src (c.kill.getD c.status)) s))
      ∧ (3 ≤ c.sends → exec (.signalResendTimer src) s = .next (after (fun b =>
          toRecord src (updCmd src (fun c => { c with status := statusMin c.status .timeout }) b)) s)))
  ∧ (∀ (s : State) (f : FenceLine) (k : Nat), homeFence s.b f = some k → replicating s.b = false →
      sharerRight (getFence s.b k) f.src f.tag true = true →
      exec (.signal f) s = .next (after (fun b =>
        ctlSend f.src k (fenceMsg 2 f.value f.handle f.status f.tag 0) f.tag (fenceUpdate k f.value f.status b)) s))
  ∧ (∀ (s : State) (f : FenceLine) (k : Nat), homeFence s.b f = some k → sharerRight (getFence s.b k) f.src f.tag true = false →
      exec (.signal f) s = .next (after fenceDrop s))
  ∧ (∀ (s : State) (f : FenceLine), handlePkg f.handle = f.src →
      let l := (Src.kport :: (s.b.cm.queues.map (fun q => Src.queue q.1))).filter (awaitsAck s.b f)
      l ≠ [] → exec (.signalAck f) s = .next (after (fun b => l.foldl (fun b s => toRecord s b) b) s))
  ∧ (∀ (s : State) (f : FenceLine) (k : Nat), homeFence s.b f = some k → sharerRight (getFence s.b k) f.src f.tag false = true →
      (slotsUsed s.b < 4096 →
        exec (.subscribe f) s = .next (after (fun b =>
          let x := getFence b k
          ctlSend f.src k (fenceMsg 5 x.value f.handle x.status f.tag x.fails) f.tag
            (updFence k (fun x => { x with subs := x.subs.filter (fun s => s != (f.src, f.tag)) ++ [(f.src, f.tag)] }) b)) s))
      ∧ exec (.query f) s = .next (after (fun b =>
          let x := getFence b k
          ctlSend f.src k (fenceMsg 5 x.value f.handle x.status f.tag x.fails) f.tag b) s))
  ∧ (∀ (s : State) (f : FenceLine) (k : Nat), homeFence s.b f = some k → sharerRight (getFence s.b k) f.src f.tag false = false →
      exec (.subscribe f) s = .next (after (ctlSend f.src (handleIdx f.handle) (fenceMsg 5 0 f.handle .notOwner f.tag 0) f.tag) s)
      ∧ exec (.query f) s = .next (after fenceDrop s))
  ∧ (∀ (s : State) (f : FenceLine) (k : Nat), homeFence s.b f = some k → (getFence s.b k).subs.contains (f.src, f.tag) = true →
      exec (.unsubscribe f) s = .next (after (updFence k (fun x => { x with subs := x.subs.filter (fun s => s != (f.src, f.tag)) })) s))
  ∧ (∀ (s : State) (f : FenceLine) (m : Mirror), findMirror s.b f.handle f.tag = some m → handlePkg f.handle = f.src →
      ((f.fails = 0 ∧ (f.status = .notOwner ∨ f.status = .aborted)) →
        exec (.updateFence f) s = .next (after (endMirrorWaits f.handle f.tag f.status) s))
      ∧ (¬ (f.fails = 0 ∧ (f.status = .notOwner ∨ f.status = .aborted)) →
        exec (.updateFence f) s = .next (after (fun b => { b with cm := { b.cm with mirrors := updateWhere (fun m => m.handle == f.handle && m.tag == f.tag) (fun m => { m with value := if m.value.toNat < f.value.toNat then f.value else m.value, status := f.status, fails := f.fails, heard := true }) b.cm.mirrors } }) s)))
  ∧ (∀ (s : State) (k : Nat) (m : Mirror), s.b.cm.mirrors[k]? = some m →
      (mirrorWanted s.b m = true → exec (.queryTimer k) s = .next (after
        (ctlSend (handlePkg m.handle) (handleIdx m.handle) (fenceMsg 6 m.value m.handle m.status m.tag 0) m.tag) s))
      ∧ (mirrorWanted s.b m = false →
        let b := ctlSend (handlePkg m.handle) (handleIdx m.handle) (fenceMsg 4 0 m.handle .ok m.tag 0) m.tag { s.b with cm := { s.b.cm with mirrors := s.b.cm.mirrors.filter (fun x => x != m) } }
        exec (.fenceSlotFree k) s = .next (s.settled (match slotWaiter b with | some q => takeSlot q b | none => b))))

/-- R384, R385, R387 to R390, R395: counters, snapshots, trace streams and forced failures. A changed counter configuration clears the
counter and its shadow; a counter takes a write of 0; an armed snapshot latches every count when Thyme reaches its time, and at once
with LATE where that has passed; a trace stream that starts is empty, and flushes its partial line when it changes, which
no tenant does to a stream on another's region; a forced failure is staged, but never the residue of an MCS. -/
def Obligations.Telemetry : Prop :=
  (∀ (s : State) (z : ZReq) (k : Nat) (w : Word), served s.b z .tel →
      let b := zcpRsp z.inst .ok s.b
      let v := w &&& 0x00FFFFFFFFFF7FFF
      k < telCount' b z.inst → telMayWrite b z k v = true →
      (telCfg b z.inst k = v → exec (.telCfgWrite z k w) s = .next (s.settled b))
      ∧ (telCfg b z.inst k ≠ v → exec (.telCfgWrite z k w) s = .next (s.settled (updTel z.inst (fun t =>
          { t with cfg := Sparse.set telCfgReset t.cfg k v, cnt := Sparse.set 0 t.cnt k 0, shd := Sparse.set 0 t.shd k 0 }) b))))
  ∧ (∀ (s : State) (z : ZReq) (k : Nat) (w : Word), served s.b z .tel → z.attr = .k →
      let b := zcpRsp z.inst .ok s.b
      k < telCount' b z.inst → fieldNat w 47 0 = 0 →
      exec (.telCntWrite z k w) s = .next (s.settled (updTel z.inst (fun t => { t with cnt := Sparse.set 0 t.cnt k 0 }) b)))
  ∧ (∀ (s : State) (z : ZReq) (w : Word), served s.b z .tel → z.attr = .k → fieldBit w 0 = true →
      let b := zcpRsp z.inst .ok s.b
      let t := (getUnits b z.inst).tel
      t.pending = false → (thyme b z.inst).toNat + 10000 ≤ t.snapT.toNat →
      exec (.armSnapshot z w) s = .next (s.settled (
        let d := snapArmAt z.inst t.snapT b
        if fieldBit w 1 && isPrimary d z.inst then ringSendAll z.inst (fun k s => s.released && k != z.inst) (.snapArm t.snapT) d else d)))
  ∧ (∀ (s : State) (i : Nat), (getUnits s.b i).tel.pending = true → (getUnits s.b i).tel.armT.toNat ≤ (thyme s.b i).toNat →
      exec (.snapshotLatch i) s = .next (after (fun b => raise i 11 (updTel i (fun t =>
        { t with shd := t.cnt, seq := (t.seq + 1) % 2 ^ 32, pending := false, late := false }) b)) s))
  ∧ (∀ (s : State) (r : RingIn) (e : RingPkt) (rest : List RingPkt) (t : BitVec 64), s.b.ring = e :: rest → e.dst = r.inst → e.msg = .snapArm t →
      (ringWay s.b e.src e.dst).isSome = true → ringGood s.b r.inst r.data = true → r.data.length = ringParts (.snapArm t) →
      (getUnits s.b r.inst).tel.pending = false →
      let b := updInst r.inst (fun s => { s with prRx := r.data, ringRx := ringSeen s.ringRx r.data }) { s.b with ring := rest }
      (t.toNat ≤ (thyme b r.inst).toNat → exec (.snapshotArmArrival r) s = .next (s.settled (snapLatch r.inst true b)))
      ∧ ((thyme b r.inst).toNat < t.toNat → exec (.snapshotArmArrival r) s = .next (s.settled (snapArmAt r.inst t b))))
  ∧ (∀ (s : State) (z : ZReq) (n : Nat) (w : Word), served s.b z .tel → (z.attr = .k ∨ z.attr = .t) → n < 4 →
      let b := zcpRsp z.inst .ok s.b
      let r := getRgn b (fieldNat w 27 16)
      (z.attr = .t → trcOther b z n = false) → (fieldBit w 0 = true → r.state = .active ∧ r.mode = .rw ∧ allServed b r = true ∧ (z.attr = .t → r.tag = z.tag)) →
      exec (.telTrcWrite z n w) s = .next (s.settled (updTel z.inst (fun t => { t with trc := listMod t.trc n (trcSet w) }) (trcFlush z.inst n b))))
  ∧ (∀ (s : State) (i n : Nat), (getInst s.b i).released = true → exec (.traceLineFlush i n) s = .next (after (trcFlush i n) s))
  ∧ (∀ (s : State) (z : ZReq) (w : Word), served s.b z .tst → (fieldNat w 1 0 = 3 → fieldBit w 8 = true) →
      exec (.tstForceWrite z w) s = .next (after (fun b => updUnits z.inst (fun u => { u with tst := { u.tst with kind := fieldNat w 1 0, unit := fieldNat w 7 2, lcs := fieldBit w 8, count := fieldNat w 31 16 } }) (zcpRsp z.inst .ok b)) s))

/-- R391 to R393: tensor dumps. ARM of a dump that is not armed or running checks its key, context, fence and ranges, and arms it, the key held until its end;
CANCEL stops a live one with ABORTED; when its fence has reached VALUE an armed dump starts, with the header that records the value
seen and the time; once every source line has been read, its output, sealed chunk by chunk, is written, and it ends with the worst of
the statuses of the lines read and written. -/
def Obligations.TensorDumps : Prop :=
  (∀ (s : State) (z : ZReq) (d : Nat) (w : Word), served s.b z .tel → d < 4 →
      let b := zcpRsp z.inst .ok s.b
      let x := getDump b d
      isPrimary b z.inst = true → (z.attr = .k ∨ z.attr = .t) → x.state ≠ 1 → x.state ≠ 2 →
      let e := updDump d (fun x => { dumpWord0 z w x with state := 0, status := .ok, out := [], sub := false }) b
      dumpChecks e (getDump e d) = [] →
      exec (.armDump z d w) s = .next (s.settled (pin (getDump e d).key (updDump d (fun x => { x with state := 1 }) e))))
  ∧ (∀ (s : State) (z : ZReq) (d : Nat) (w : Word), served s.b z .tel → d < 4 →
      let b := zcpRsp z.inst .ok s.b
      let x := getDump b d
      isPrimary b z.inst = true → (z.attr = .k ∨ (z.attr = .t ∧ x.tag = z.tag)) → (x.state = 1 ∨ x.state = 2) →
      exec (.cancel z d w) s = .next (s.settled (dumpStop d .aborted b)))
  ∧ (∀ (s : State) (d i : Nat) (v : Word) (st : Status), let x := getDump s.b d
      fenceKnown s.b x.fence x.tag = some (v, st) → primaryInst s.b = some i → x.state = 1 → x.value.toNat ≤ v.toNat →
      (keyUsable (getKey s.b x.key) = true →
        exec (.dumpStart d) s = .next (after (fun b =>
          let y := { x with state := 2, seen := v, start := thyme b i, mat := kdfKey (getKey b x.key).key "debug-export" (leBytes 8 x.id.toNat) }
          updDump d (fun _ => { y with out := [dumpHeader y] }) b) s))
      ∧ (keyUsable (getKey s.b x.key) = false → exec (.dumpStart d) s = .next (after (dumpStop d .keyOrphaned) s)))
  ∧ (∀ (s : State) (d : Nat) (lines : List (Line × Status)), let x := getDump s.b d
      x.state = 2 → lines.length = x.len / 128 →
      exec (.dumpEnd d lines) s = .next (after (fun b =>
        let r := dumpReads d x lines b
        let out := (List.range (dumpChunks x)).flatMap (fun c => dumpChunk x c ((r.1.drop (512 * c)).take 512))
        let w := dumpWrites d x (x.out ++ out) r.2
        dumpStop d (statusWorst ((r.1.map (·.2) ++ w.1).filter statusFailing)) (updDump d (fun x => { x with out := x.out ++ out }) w.2)) s))

/-- R6, R7, R20 to R22, R51, R63: an access to any register, by its offset in the instance's space. A write that nothing refuses acts on its
window, and on the cause and mask bits of INT that stand there; a read gives its word; a refused access is answered with its status and
counted, a read then with zero. Before release a write does nothing, and a read gives what Safe State leaves readable. Writes of the
identity, the Thyme, the boot status and the unassigned offsets change nothing. -/
def Obligations.RegisterWrites : Prop :=
  (∀ (s : State) (z : ZReq) (off : Nat) (w : Word), served s.b z (windowOf (zcpOff off)) →
      exec (.registerWrite z true off w) s = .next (after (fun b => intWrite z (zcpOff off) w (writeWindow z (zcpOff off) w (zcpRsp z.inst .ok b))) s))
  ∧ (∀ (s : State) (z : ZReq) (off : Nat) (w : Word) (st : Status), (getInst s.b z.inst).released = true →
      zcpRefusal s.b z true (windowOf (zcpOff off)) = some st →
      exec (.registerWrite z true off w) s = .next (after (zcpRefuse z st) s))
  ∧ (∀ (s : State) (z : ZReq) (off : Nat) (w : Word), (getInst s.b z.inst).released = false →
      exec (.registerWrite z true off w) s = .next (after id s))
  ∧ (∀ (s : State) (z : ZReq) (off : Nat) (w : Word), (getInst s.b z.inst).released = true →
      (∀ v, zcpRefusal s.b z false (windowOf (zcpOff off)) = none → readWindow s.b z (zcpOff off) = .ok v →
        exec (.registerWrite z false off w) s = .next (after (updInst z.inst (fun s => { s with rsp := .ok, rspData := v })) s))
      ∧ (∀ st, st ≠ .ok → zcpRefusal s.b z false (windowOf (zcpOff off)) = some st →
        exec (.registerWrite z false off w) s = .next (after (zcpRefuse z st) s)))
  ∧ (∀ (s : State) (z : ZReq) (off : Nat) (w : Word), (getInst s.b z.inst).released = false →
      (safeReadable s.b z (windowOf (zcpOff off)) = false → exec (.registerWrite z false off w) s = .next (after id s))
      ∧ (∀ v, safeReadable s.b z (windowOf (zcpOff off)) = true → readWindow s.b z (zcpOff off) = .ok v →
        exec (.registerWrite z false off w) s = .next (after (updInst z.inst (fun s => { s with rsp := .ok, rspData := v })) s)))
  ∧ (∀ (b : Block) (z : ZReq) (off : Nat) (w : Word), windowOf off ∈ [Window.ident, .ao, .thy, .bst, .hole] → writeWindow z off w b = b)

/-- R347, R348, R351: no Bay abort waits between commands: whatever command a state without an abort due takes, the step that makes an
abort due also starts it. -/
def Obligations.NoAbortWaits : Prop :=
  ∀ s t : State, noAbortWaits s → step s = .next t → noAbortWaits t

/-- R351: what is due starts: the package is in Bay abort with the cause and origin that were due, and nothing is due any more; a
package that is frozen already ignores it (R347). -/
def Obligations.AbortStarts : Prop :=
  (∀ (b : Block) (cause : Status) (origin : Pkg), b.bay.state ≠ 1 →
      (startAbort cause origin b).bay = { b.bay with due := none, state := 1, cause := cause, origin := origin })
  ∧ (∀ (b : Block) (cause : Status) (origin : Pkg), b.bay.state = 1 → startAbort cause origin b = { b with bay := { b.bay with due := none } })

/-- A step runs the command at the front of the queue with the queue's rest; with no command waiting it changes nothing (log 9: the model's
choice, the spec gives the block no empty queue). -/
def Obligations.StepRunsFront : Prop :=
  (∀ (c : Instr) (s : State), step { s with pending := c :: s.pending } = exec c s)
  ∧ (∀ s : State, s.pending = [] → step s = .next s)

/-- Every queue of well-formed commands runs to its end, from every state: no command faults, none is refused, each takes one step and
leaves the rest of the queue. -/
def Obligations.CommandsRunToTheEnd : Prop :=
  (∀ s : State, (∀ c ∈ s.pending, wellFormed c = true) → ∃ t, steps s.pending.length s = some t ∧ t.pending = [])
  ∧ (∀ (s t : State) (c : Instr) (rest : List Instr), s.pending = c :: rest → step s = .next t → t.pending = rest)

/-- The two commands that carry more than their carrier holds stop with a fault: BOOT_DATA over 4 KiB, a request on LT_OR with no transfer
or more than four. -/
def Obligations.MalformedCommands : Prop :=
  (∀ (s : State) (off : Nat) (data : Bytes), 4096 < data.length → exec (.bootData off data) s = .fault .illFormed)
  ∧ (∀ (s : State) (inst port : Nat) (xfers : List LtOr), xfers.length = 0 ∨ 4 < xfers.length → exec (.ltOrRequest inst port xfers) s = .fault .illFormed)
  ∧ (∀ (s : State) (c : Instr) (f : Fault), exec c s = .fault f → wellFormed c = false)
  ∧ (∀ (s : State) (c : Instr) (r : Refusal), exec c s ≠ .refused r)

/-- Every table and addressed memory of the block: a read after a write gives what was written and every other index reads as before; a
write and a change of every entry keep the one canonical form, in which equal contents are equal data. -/
def Obligations.TableLaws : Prop :=
  ∀ (α : Type) (_inst : DecidableEq α) (d : α) (t : Sparse α) (k : Nat) (v : α),
    (∀ j, Sparse.wf d t = true → Sparse.get d (Sparse.set d t k v) j = if j = k then v else Sparse.get d t j)
    ∧ (Sparse.wf d t = true → Sparse.wf d (Sparse.set d t k v) = true)
    ∧ (∀ f : Nat → α → α, Sparse.wf d t = true → Sparse.wf d (Sparse.mapAll d t f) = true)
    ∧ (∀ (f : Nat → α → α) (j : Nat), Sparse.wf d t = true → f j d = d → Sparse.get d (Sparse.mapAll d t f) j = f j (Sparse.get d t j))
    ∧ (∀ u : Sparse α, Sparse.wf d t = true → Sparse.wf d u = true → (∀ j, Sparse.get d t j = Sparse.get d u j) → t = u)

/-- R117: a write to MCS_WALK[c] that would make the sum of MIN over the eight classes exceed 64, set MAX below MIN, or set MAX above
64 is ignored and answered BAD_CONFIG; any other one sets the class's pair and is answered OK. -/
def Obligations.WalkShareRules : Prop :=
  ∀ (s : State) (z : ZReq) (n c : Nat) (w : Word), served s.b z (.mcs n) → c < 8 →
    let least := fieldNat w 5 0
    let most := fieldNat w 14 8
    let walk := (getMcs s.b n).walk.set c (least, most)
    let bad := 64 < (walk.map (·.1)).foldl (· + ·) 0 ∨ most < least ∨ 64 < most
    (bad → ∃ d, exec (.mcsWalkWrite z n c w) s = .next (s.settled d) ∧ d.mcs = s.b.mcs ∧ (getInst d z.inst).rsp = .badConfig)
    ∧ (¬ bad → ∃ d, exec (.mcsWalkWrite z n c w) s = .next (s.settled d) ∧ (getMcs d n).walk = walk ∧ (getInst d z.inst).rsp = .ok)

/-- R202: a sum with a special value: NaN with anything is NaN, opposite infinities give NaN, an infinity with any finite value stays; the
result depends on neither the order nor the grouping of the inputs, where the finite ones among them have a finite sum; and a special
result is never inexact. -/
def Obligations.SpecialSums : Prop :=
  (∀ x, (xpAdd .nan x).1 = .nan ∧ (xpAdd x .nan).1 = .nan)
  ∧ (xpAdd .pinf .ninf).1 = .nan ∧ (xpAdd .ninf .pinf).1 = .nan
  ∧ (∀ s e, (xpAdd .pinf (.fin s e)).1 = .pinf ∧ (xpAdd (.fin s e) .pinf).1 = .pinf
      ∧ (xpAdd .ninf (.fin s e)).1 = .ninf ∧ (xpAdd (.fin s e) .ninf).1 = .ninf)
  ∧ (∀ x y, (xpSpecial x = true ∨ xpSpecial y = true) → xpAdd x y = xpAdd y x)
  ∧ (∀ x y z, (xpSpecial x = true ∨ xpSpecial y = true ∨ xpSpecial z = true) →
      (xpSpecial x = false → xpSpecial y = false → xpSpecial (xpAdd x y).1 = false) →
      (xpSpecial y = false → xpSpecial z = false → xpSpecial (xpAdd y z).1 = false) →
      (xpAdd (xpAdd x y).1 z).1 = (xpAdd x (xpAdd y z).1).1)
  ∧ (∀ x y, xpSpecial (xpAdd x y).1 = true → (xpAdd x y).2 = false)

/-- R25: of several conditions the status reported is one of them, and none of them has a lower rank. -/
def Obligations.ReportedStatus : Prop :=
  ∀ l : List Status, l ≠ [] → statusWorst l ∈ l ∧ ∀ x ∈ l, statusRank (statusWorst l) ≤ statusRank x

/-- R345: a reset ordered through BAY_CMD waits while a Sealed Store update is in progress, then goes on exactly as its pin form does: a soft
reset begins as RST_SOFT begins it, a hard reset is RST_HARD_N going low and high again; and RST_HARD_N acts at once whatever the
Sealed Store does: the block forgets it and keeps the firmware slot state, and what flash holds is read again at the next boot (R273). -/
def Obligations.OrderedResets : Prop :=
  (∀ (b : Block) (i : Nat), b.keys.store.phase ≠ .idle → softTurn (i, true) b = b)
  ∧ (∀ (b : Block) (i : Nat), b.keys.store.phase = .idle → (getInst b i).released = true → b.bay.softDue.contains (i, false) = false →
      softTurn (i, true) b = effRstSoft i b)
  ∧ (∀ b : Block, b.keys.store.phase ≠ .idle → hardTurn b = b)
  ∧ (∀ b : Block, b.bay.hardDue = true → b.keys.store.phase = .idle → ideIdle b.trust.ide = true → b.boot.hard = false →
      hardTurn b = effRstHardNRelease (effRstHardNAssert b))
  ∧ (∀ s : State, exec .rstHardNAssert s = .next (after (fun b => updBoot (fun x => { x with hard := true }) (hardReset b)) s))
  ∧ (∀ b : Block, (hardReset b).keys.store = {} ∧ (hardReset b).boot.aoFw = b.boot.aoFw)

/-- R327: a signal leaves once no write issued before it is open, with the lowest-ranked of its command's status and the failing statuses
of the tally, which is then empty, and so never OK after a failure; at the home VALUE rises to a greater v, STATUS becomes S, a
failing S adds 1 to FAILS up to its width; and the command completes when the update has been applied. -/
def Obligations.FenceSignalRules : Prop :=
  (∀ (s : State) (src : Src) (c : Cmd), srcCmd s.b src = some c → c.phase = .signal →
      (openWrites s.b (reqOf s.b src).ctx).any c.before.contains = true → exec (.fenceSignalApply src) s = .next (after id s))
  ∧ (∀ (b : Block) (ctx : Ctx) (st : Status),
      (takeSignal b ctx st).1 = statusWorst (st :: (Sparse.get [] b.fab.tally ctx.toNat).filter statusFailing)
      ∧ (∀ x ∈ st :: (Sparse.get [] b.fab.tally ctx.toNat).filter statusFailing, statusRank (takeSignal b ctx st).1 ≤ statusRank x)
      ∧ (statusFailing st = true → statusFailing (takeSignal b ctx st).1 = true))
  ∧ (∀ (b : Block) (k : Nat) (v : Word) (st : Status), (getFence b k).live = true →
      let f := getFence b k
      let g := getFence (fenceUpdate k v st b) k
      (f.value.toNat < v.toNat → g.value = v) ∧ (¬ f.value.toNat < v.toNat → g.value = f.value) ∧ g.status = st
      ∧ g.fails = (if statusFailing st then min (f.fails + 1) (2 ^ 24 - 1) else f.fails))
  ∧ (∀ (b : Block) (src : Src) (st : Status) (c : Cmd) (k : Nat), srcCmd b src = some c → liveIndex b tyFence (sigHandle c) = some k →
      bodyFenceSignalApply src st b = toRecord src (fenceUpdate k (sigValue c) st b))

/-- The machine after reset: no command waits, no abort is due, nothing is due at all; the registers of the spec's tables hold their reset
values; and of the build, which the spec leaves open (log 3, the model's choice), the smallest package stands. -/
def Obligations.ResetState : Prop :=
  State.reset.pending = [] ∧ noAbortWaits State.reset ∧ calm State.reset.b = true
  ∧ ({} : Mcs).walk = List.replicate 8 (4, 64) ∧ ({} : Mcs).rate = 10
  ∧ State.reset.b.fab.tbound = 16 ∧ State.reset.b.fab.retain = 32
  ∧ State.reset.b.cm.drr = [8, 4, 1] ∧ State.reset.b.cm.storeLock = false ∧ State.reset.b.jnl.lock = false ∧ State.reset.b.jnl.ents = []
  ∧ State.reset.b.bay.tagTh = 1 ∧ State.reset.b.bay.sorTh = 0 ∧ State.reset.b.bay.resTh = 0 ∧ State.reset.b.bay.winMs = 10
  ∧ State.reset.b.bay.escN = 3 ∧ State.reset.b.bay.escWin = 600
  ∧ State.reset.b.keys.kreg = [] ∧ State.reset.b.keys.mint.budget = 0x0000FFFFFFFFFFFF ∧ State.reset.b.keys.store.isOpen = false
  ∧ State.reset.b.trust.dom.state = .none ∧ State.reset.b.rgn.table = [] ∧ State.reset.b.fab.table = []
  ∧ telCfg State.reset.b 0 0 = 0x3C00 ∧ (getInst State.reset.b 0).released = false ∧ (getInst State.reset.b 0).built = true

/-- R199, R200: an exact sum is stored as ⌊S ÷ 2^EXP⌋ under the one EXP for which that is normalised, or the least EXP there is; what is
dropped makes the result inexact and nothing else does; zero is stored as zero; only a normalised EXP above 32,767 gives an infinity,
by the sign of the sum; and equal sums are stored with the same bits. -/
def Obligations.ExactSumsStored : Prop :=
  (∀ s1 e1 s2 e2 : Int, xpAdd (.fin s1 e1) (.fin s2 e2)
      = xpNorm (s1 * 2 ^ (e1 - min e1 e2).toNat + s2 * 2 ^ (e2 - min e1 e2).toNat) (min e1 e2))
  ∧ (∀ (m e s x : Int) (d : Bool), -32767 ≤ e → xpNorm m e = (.fin s x, d) →
      xpStored (.fin s x)
      ∧ s * 2 ^ (x - min x e).toNat ≤ m * 2 ^ (e - min x e).toNat
      ∧ m * 2 ^ (e - min x e).toNat < (s + 1) * 2 ^ (x - min x e).toNat
      ∧ (d = true ↔ s * 2 ^ (x - min x e).toNat ≠ m * 2 ^ (e - min x e).toNat))
  ∧ (∀ m e : Int, -32767 ≤ e → xpSpecial (xpNorm m e).1 = true →
      2 ^ 142 * 2 ^ (32768 - min e 32768).toNat ≤ m.natAbs * 2 ^ (e - min e 32768).toNat
      ∧ (xpNorm m e).1 = if 0 < m then .pinf else .ninf)
  ∧ (∀ m e m' e' : Int, -32767 ≤ e → -32767 ≤ e' → m * 2 ^ (e - min e e').toNat = m' * 2 ^ (e' - min e e').toNat →
      (xpNorm m e).1 = (xpNorm m' e').1)

/-- R80, R84 to R86: a line that the MCS has sealed reads back as it was written, with no status and the check value it had, in the PLAIN,
RO-AUTH and RW-AUTH formats; a poisoned one reads POISON; and under the two authenticated formats a stored MAC that is not the line's
fails with TAG_FAIL. -/
def Obligations.SealedLines : Prop :=
  (∀ (r : Rgn) (key : Key) (gens : List Nat) (kgen line host : Nat) (c : Counters) (l : Line) (origin inexact : Bool),
      r.mode ≠ .xts → kgen < 256 → gens.contains kgen = true →
      let sealed := sealLine r (workKeys key) kgen line host c l (sorrelOf l) origin false inexact
      let chk := checkLine r (workKeys key) gens line host c sealed.1 (some sealed.2) false
      chk.early = [] ∧ chk.late = [] ∧ chk.data = l ∧ chk.sorrel = sorrelOf l)
  ∧ (∀ (r : Rgn) (key : Key) (gens : List Nat) (kgen line host : Nat) (c : Counters) (l : Line) (origin inexact : Bool),
      r.mode ≠ .xts → kgen < 256 → gens.contains kgen = true →
      let sealed := sealLine r (workKeys key) kgen line host c l (sorrelOf l) origin true inexact
      let chk := checkLine r (workKeys key) gens line host c sealed.1 (some sealed.2) false
      chk.early = [.poison] ∧ chk.late = [])
  ∧ (∀ (r : Rgn) (key : Key) (gens : List Nat) (line host : Nat) (c : Counters) (l : Line) (s : Sideband),
      (r.mode = .ro ∨ r.mode = .rw) → sbPoison s = false → sbMac s ≠ lineMac (workKeys key).mac (tupleOf r line c) l →
      Status.tagFail ∈ (checkLine r (workKeys key) gens line host c l (some s) false).late)

end
end

