-- ==== Sys2Proof/Laws/Sparse.lean ====
section
/-! SUPPORT. Tables and addressed memories: a read after a write, the canonical form that every operation keeps, and that equal
contents are equal data. -/

namespace Sys2Proof.Laws
open Sys2Proof.Machine
variable {α : Type} [DecidableEq α] {d : α}
theorem wfFrom_mono : ∀ {t : Sparse α} {lo lo' : Nat}, lo ≤ lo' → Sparse.wfFrom d lo' t = true → Sparse.wfFrom d lo t = true
  | [], _, _, _, _ => rfl
  | (k, v) :: r, lo, lo', h, hw => by
    simp only [Sparse.wfFrom, Bool.and_eq_true, decide_eq_true_eq] at hw ⊢
    exact ⟨⟨by omega, hw.1.2⟩, hw.2⟩
theorem get_below : ∀ {t : Sparse α} {lo j : Nat}, Sparse.wfFrom d lo t = true → j < lo → Sparse.get d t j = d
  | [], _, _, _, _ => rfl
  | (k, v) :: r, lo, j, hw, hj => by
    simp only [Sparse.wfFrom, Bool.and_eq_true, decide_eq_true_eq] at hw
    have h1 : j ≠ k := by omega
    have h2 : j < k := by omega
    simp [Sparse.get, h1, h2]
theorem get_set : ∀ {t : Sparse α} {lo k : Nat} {v : α} {j : Nat}, Sparse.wfFrom d lo t = true →
    Sparse.get d (Sparse.set d t k v) j = if j = k then v else Sparse.get d t j
  | [], lo, k, v, j, _ => by
    by_cases hv : v = d
    · simp [Sparse.set, hv, Sparse.get]
    · simp only [Sparse.set, hv, if_false, Sparse.get]
      split
      · rfl
      · split <;> rfl
  | (k', v') :: r, lo, k, v, j, hw => by
    simp only [Sparse.wfFrom, Bool.and_eq_true, decide_eq_true_eq] at hw
    have hb := fun j h => get_below (d := d) (j := j) hw.2 h
    simp only [Sparse.set]
    split
    · rename_i h1
      by_cases hv : v = d
      · rw [if_pos hv, hv]
        split
        · rename_i hj; subst hj
          have h2 : j ≠ k' := by omega
          simp [Sparse.get, h2, h1]
        · rfl
      · rw [if_neg hv]
        by_cases hj : j = k
        · simp [Sparse.get, hj]
        · by_cases hj2 : j < k
          · have h2 : j ≠ k' := by omega
            have h3 : j < k' := by omega
            simp [Sparse.get, hj, hj2, h2, h3]
          · simp [Sparse.get, hj, hj2]
    · rename_i h1
      split
      · rename_i h2; subst h2
        by_cases hv : v = d
        · rw [if_pos hv]
          by_cases hj : j = k
          · subst hj; rw [if_pos rfl, hv]; exact hb _ (by omega)
          · rw [if_neg hj]
            by_cases hj2 : j < k
            · rw [hb _ (by omega)]; simp [Sparse.get, hj, hj2]
            · simp [Sparse.get, hj, hj2]
        · rw [if_neg hv]
          by_cases hj : j = k
          · simp [Sparse.get, hj]
          · simp [Sparse.get, hj]
      · rename_i h2
        have ih := get_set (k := k) (v := v) (j := j) hw.2
        by_cases hj : j = k'
        · have : j ≠ k := by omega
          simp [Sparse.get, hj, show ¬ k' = k from fun h => h2 h.symm]
        · by_cases hj2 : j < k'
          · have : j ≠ k := by omega
            simp [Sparse.get, hj, hj2, this]
          · simp only [Sparse.get, hj, hj2, if_false]; exact ih
theorem set_wf : ∀ {t : Sparse α} {lo k : Nat} {v : α}, lo ≤ k → Sparse.wfFrom d lo t = true → Sparse.wfFrom d lo (Sparse.set d t k v) = true
  | [], lo, k, v, hk, _ => by
    by_cases hv : v = d <;> simp [Sparse.set, hv, Sparse.wfFrom, hk]
  | (k', v') :: r, lo, k, v, hk, hw => by
    have hw0 := hw
    simp only [Sparse.wfFrom, Bool.and_eq_true, decide_eq_true_eq] at hw
    simp only [Sparse.set]
    split
    · rename_i h1
      split
      · exact hw0
      · rename_i hv
        simp only [Sparse.wfFrom, Bool.and_eq_true, decide_eq_true_eq]
        exact ⟨⟨hk, hv⟩, ⟨by omega, hw.1.2⟩, hw.2⟩
    · split
      · rename_i h1 h2; subst h2
        split
        · exact wfFrom_mono (by omega) hw.2
        · rename_i hv
          simp only [Sparse.wfFrom, Bool.and_eq_true, decide_eq_true_eq]
          exact ⟨⟨hk, hv⟩, hw.2⟩
      · simp only [Sparse.wfFrom, Bool.and_eq_true, decide_eq_true_eq]
        exact ⟨hw.1, set_wf (by omega) hw.2⟩
theorem mapAll_wf {f : Nat → α → α} : ∀ {t : Sparse α} {lo : Nat}, Sparse.wfFrom d lo t = true → Sparse.wfFrom d lo (Sparse.mapAll d t f) = true
  | [], _, _ => rfl
  | (k, v) :: r, lo, hw => by
    simp only [Sparse.wfFrom, Bool.and_eq_true, decide_eq_true_eq] at hw
    simp only [Sparse.mapAll]
    split
    · exact wfFrom_mono (by omega) (mapAll_wf (lo := k + 1) hw.2)
    · rename_i hv
      simp only [Sparse.wfFrom, Bool.and_eq_true, decide_eq_true_eq]
      exact ⟨⟨hw.1.1, hv⟩, mapAll_wf hw.2⟩
theorem get_mapAll {f : Nat → α → α} {j : Nat} (hd : f j d = d) : ∀ {t : Sparse α} {lo : Nat}, Sparse.wfFrom d lo t = true →
    Sparse.get d (Sparse.mapAll d t f) j = f j (Sparse.get d t j)
  | [], _, _ => hd.symm
  | (k, v) :: r, lo, hw => by
    simp only [Sparse.wfFrom, Bool.and_eq_true, decide_eq_true_eq] at hw
    have ih := get_mapAll hd hw.2
    simp only [Sparse.mapAll]
    split
    · rename_i hv
      rw [ih]
      by_cases hj : j = k
      · subst hj
        rw [get_below hw.2 (by omega)]
        simp [Sparse.get, hv, hd]
      · by_cases hj2 : j < k
        · rw [get_below hw.2 (by omega)]; simp [Sparse.get, hj, hj2]
        · simp [Sparse.get, hj, hj2]
    · by_cases hj : j = k
      · subst hj; simp [Sparse.get]
      · by_cases hj2 : j < k
        · simp [Sparse.get, hj, hj2, hd]
        · simp [Sparse.get, hj, hj2, ih]
theorem sparse_ext : ∀ {t u : Sparse α} {lo lo' : Nat}, Sparse.wfFrom d lo t = true → Sparse.wfFrom d lo' u = true →
    (∀ j, Sparse.get d t j = Sparse.get d u j) → t = u
  | [], [], _, _, _, _, _ => rfl
  | [], (k, v) :: r, _, _, _, hu, h => by
    simp only [Sparse.wfFrom, Bool.and_eq_true, decide_eq_true_eq] at hu
    have := h k
    simp only [Sparse.get, if_true] at this
    exact absurd this.symm hu.1.2
  | (k, v) :: r, [], _, _, ht, _, h => by
    simp only [Sparse.wfFrom, Bool.and_eq_true, decide_eq_true_eq] at ht
    have := h k
    simp only [Sparse.get, if_true] at this
    exact absurd this ht.1.2
  | (k, v) :: r, (k', v') :: r', lo, lo', ht, hu, h => by
    simp only [Sparse.wfFrom, Bool.and_eq_true, decide_eq_true_eq] at ht hu
    have h1 := h k
    have h2 := h k'
    simp only [Sparse.get, if_true] at h1 h2
    have hk : k = k' := by
      by_contra hne
      rcases Nat.lt_or_gt_of_ne hne with hl | hl
      · simp [hne, hl] at h1; exact ht.1.2 h1
      · simp [show ¬ k' = k from fun e => hne e.symm, hl] at h2; exact hu.1.2 h2.symm
    subst hk
    simp only [if_true] at h1
    subst h1
    have : r = r' := sparse_ext ht.2 hu.2 (fun j => by
      have hj := h j
      by_cases hjk : j ≤ k
      · rw [get_below ht.2 (by omega), get_below hu.2 (by omega)]
      · simp only [Sparse.get, show ¬ j = k by omega, show ¬ j < k by omega, if_false] at hj
        exact hj)
    rw [this]
theorem keep_wf {p : Nat → α → Bool} : ∀ {t : Sparse α} {lo : Nat}, Sparse.wfFrom d lo t = true → Sparse.wfFrom d lo (Sparse.keep t p) = true
  | [], _, _ => rfl
  | (k, v) :: r, lo, hw => by
    simp only [Sparse.wfFrom, Bool.and_eq_true, decide_eq_true_eq] at hw
    have ih := keep_wf (p := p) hw.2
    unfold Sparse.keep at ih ⊢
    rw [List.filter_cons]
    split
    · simp only [Sparse.wfFrom, Bool.and_eq_true, decide_eq_true_eq]
      exact ⟨hw.1, ih⟩
    · exact wfFrom_mono (by omega) ih
/-- A written entry that is not the default reads back, whatever the table. -/
theorem get_set_self {k : Nat} {v : α} (h : v ≠ d) : ∀ t : Sparse α, Sparse.get d (Sparse.set d t k v) k = v
  | [] => by simp [Sparse.set, h, Sparse.get]
  | (k', v') :: r => by
    simp only [Sparse.set]
    split
    · simp [Sparse.get]
    · split
      · simp [Sparse.get]
      · rename_i h1 h2
        simp only [Sparse.get, h1, h2, if_false]
        exact get_set_self h r
end Sys2Proof.Laws
end

