-- ==== Sys2Proof/Laws/State.lean ====
section
/-! SUPPORT. One lemma per part of the block per update of an entry: what the update leaves, and the entry that it changes. -/

namespace Sys2Proof.Laws
open Sys2Proof.Machine

@[simp] theorem updInst_time (i : Nat) (f : Inst → Inst) (b : Block) : (updInst i f b).time = b.time := rfl
@[simp] theorem updInst_freeCtr (i : Nat) (f : Inst → Inst) (b : Block) : (updInst i f b).freeCtr = b.freeCtr := rfl
@[simp] theorem updInst_tally (i : Nat) (f : Inst → Inst) (b : Block) : (updInst i f b).tally = b.tally := rfl
@[simp] theorem updInst_ring (i : Nat) (f : Inst → Inst) (b : Block) : (updInst i f b).ring = b.ring := rfl
@[simp] theorem updInst_units (i : Nat) (f : Inst → Inst) (b : Block) : (updInst i f b).units = b.units := rfl
@[simp] theorem updInst_mcs (i : Nat) (f : Inst → Inst) (b : Block) : (updInst i f b).mcs = b.mcs := rfl
@[simp] theorem updInst_mport (i : Nat) (f : Inst → Inst) (b : Block) : (updInst i f b).mport = b.mport := rfl
@[simp] theorem updInst_rgn (i : Nat) (f : Inst → Inst) (b : Block) : (updInst i f b).rgn = b.rgn := rfl
@[simp] theorem updInst_keys (i : Nat) (f : Inst → Inst) (b : Block) : (updInst i f b).keys = b.keys := rfl
@[simp] theorem updInst_lcs (i : Nat) (f : Inst → Inst) (b : Block) : (updInst i f b).lcs = b.lcs := rfl
@[simp] theorem updInst_lport (i : Nat) (f : Inst → Inst) (b : Block) : (updInst i f b).lport = b.lport := rfl
@[simp] theorem updInst_esb (i : Nat) (f : Inst → Inst) (b : Block) : (updInst i f b).esb = b.esb := rfl
@[simp] theorem updInst_fab (i : Nat) (f : Inst → Inst) (b : Block) : (updInst i f b).fab = b.fab := rfl
@[simp] theorem updInst_red (i : Nat) (f : Inst → Inst) (b : Block) : (updInst i f b).red = b.red := rfl
@[simp] theorem updInst_bay (i : Nat) (f : Inst → Inst) (b : Block) : (updInst i f b).bay = b.bay := rfl
@[simp] theorem updInst_fo (i : Nat) (f : Inst → Inst) (b : Block) : (updInst i f b).fo = b.fo := rfl
@[simp] theorem updInst_jnl (i : Nat) (f : Inst → Inst) (b : Block) : (updInst i f b).jnl = b.jnl := rfl
@[simp] theorem updInst_cm (i : Nat) (f : Inst → Inst) (b : Block) : (updInst i f b).cm = b.cm := rfl
@[simp] theorem updInst_trust (i : Nat) (f : Inst → Inst) (b : Block) : (updInst i f b).trust = b.trust := rfl
@[simp] theorem updInst_otp (i : Nat) (f : Inst → Inst) (b : Block) : (updInst i f b).otp = b.otp := rfl
@[simp] theorem updInst_boot (i : Nat) (f : Inst → Inst) (b : Block) : (updInst i f b).boot = b.boot := rfl

@[simp] theorem updUnits_time (i : Nat) (f : InstUnits → InstUnits) (b : Block) : (updUnits i f b).time = b.time := rfl
@[simp] theorem updUnits_freeCtr (i : Nat) (f : InstUnits → InstUnits) (b : Block) : (updUnits i f b).freeCtr = b.freeCtr := rfl
@[simp] theorem updUnits_tally (i : Nat) (f : InstUnits → InstUnits) (b : Block) : (updUnits i f b).tally = b.tally := rfl
@[simp] theorem updUnits_ring (i : Nat) (f : InstUnits → InstUnits) (b : Block) : (updUnits i f b).ring = b.ring := rfl
@[simp] theorem updUnits_inst (i : Nat) (f : InstUnits → InstUnits) (b : Block) : (updUnits i f b).inst = b.inst := rfl
@[simp] theorem updUnits_mcs (i : Nat) (f : InstUnits → InstUnits) (b : Block) : (updUnits i f b).mcs = b.mcs := rfl
@[simp] theorem updUnits_mport (i : Nat) (f : InstUnits → InstUnits) (b : Block) : (updUnits i f b).mport = b.mport := rfl
@[simp] theorem updUnits_rgn (i : Nat) (f : InstUnits → InstUnits) (b : Block) : (updUnits i f b).rgn = b.rgn := rfl
@[simp] theorem updUnits_keys (i : Nat) (f : InstUnits → InstUnits) (b : Block) : (updUnits i f b).keys = b.keys := rfl
@[simp] theorem updUnits_lcs (i : Nat) (f : InstUnits → InstUnits) (b : Block) : (updUnits i f b).lcs = b.lcs := rfl
@[simp] theorem updUnits_lport (i : Nat) (f : InstUnits → InstUnits) (b : Block) : (updUnits i f b).lport = b.lport := rfl
@[simp] theorem updUnits_esb (i : Nat) (f : InstUnits → InstUnits) (b : Block) : (updUnits i f b).esb = b.esb := rfl
@[simp] theorem updUnits_fab (i : Nat) (f : InstUnits → InstUnits) (b : Block) : (updUnits i f b).fab = b.fab := rfl
@[simp] theorem updUnits_red (i : Nat) (f : InstUnits → InstUnits) (b : Block) : (updUnits i f b).red = b.red := rfl
@[simp] theorem updUnits_bay (i : Nat) (f : InstUnits → InstUnits) (b : Block) : (updUnits i f b).bay = b.bay := rfl
@[simp] theorem updUnits_fo (i : Nat) (f : InstUnits → InstUnits) (b : Block) : (updUnits i f b).fo = b.fo := rfl
@[simp] theorem updUnits_jnl (i : Nat) (f : InstUnits → InstUnits) (b : Block) : (updUnits i f b).jnl = b.jnl := rfl
@[simp] theorem updUnits_cm (i : Nat) (f : InstUnits → InstUnits) (b : Block) : (updUnits i f b).cm = b.cm := rfl
@[simp] theorem updUnits_trust (i : Nat) (f : InstUnits → InstUnits) (b : Block) : (updUnits i f b).trust = b.trust := rfl
@[simp] theorem updUnits_otp (i : Nat) (f : InstUnits → InstUnits) (b : Block) : (updUnits i f b).otp = b.otp := rfl
@[simp] theorem updUnits_boot (i : Nat) (f : InstUnits → InstUnits) (b : Block) : (updUnits i f b).boot = b.boot := rfl

@[simp] theorem updMcs_time (n : Nat) (f : Mcs → Mcs) (b : Block) : (updMcs n f b).time = b.time := rfl
@[simp] theorem updMcs_freeCtr (n : Nat) (f : Mcs → Mcs) (b : Block) : (updMcs n f b).freeCtr = b.freeCtr := rfl
@[simp] theorem updMcs_tally (n : Nat) (f : Mcs → Mcs) (b : Block) : (updMcs n f b).tally = b.tally := rfl
@[simp] theorem updMcs_ring (n : Nat) (f : Mcs → Mcs) (b : Block) : (updMcs n f b).ring = b.ring := rfl
@[simp] theorem updMcs_inst (n : Nat) (f : Mcs → Mcs) (b : Block) : (updMcs n f b).inst = b.inst := rfl
@[simp] theorem updMcs_units (n : Nat) (f : Mcs → Mcs) (b : Block) : (updMcs n f b).units = b.units := rfl
@[simp] theorem updMcs_mport (n : Nat) (f : Mcs → Mcs) (b : Block) : (updMcs n f b).mport = b.mport := rfl
@[simp] theorem updMcs_rgn (n : Nat) (f : Mcs → Mcs) (b : Block) : (updMcs n f b).rgn = b.rgn := rfl
@[simp] theorem updMcs_keys (n : Nat) (f : Mcs → Mcs) (b : Block) : (updMcs n f b).keys = b.keys := rfl
@[simp] theorem updMcs_lcs (n : Nat) (f : Mcs → Mcs) (b : Block) : (updMcs n f b).lcs = b.lcs := rfl
@[simp] theorem updMcs_lport (n : Nat) (f : Mcs → Mcs) (b : Block) : (updMcs n f b).lport = b.lport := rfl
@[simp] theorem updMcs_esb (n : Nat) (f : Mcs → Mcs) (b : Block) : (updMcs n f b).esb = b.esb := rfl
@[simp] theorem updMcs_fab (n : Nat) (f : Mcs → Mcs) (b : Block) : (updMcs n f b).fab = b.fab := rfl
@[simp] theorem updMcs_red (n : Nat) (f : Mcs → Mcs) (b : Block) : (updMcs n f b).red = b.red := rfl
@[simp] theorem updMcs_bay (n : Nat) (f : Mcs → Mcs) (b : Block) : (updMcs n f b).bay = b.bay := rfl
@[simp] theorem updMcs_fo (n : Nat) (f : Mcs → Mcs) (b : Block) : (updMcs n f b).fo = b.fo := rfl
@[simp] theorem updMcs_jnl (n : Nat) (f : Mcs → Mcs) (b : Block) : (updMcs n f b).jnl = b.jnl := rfl
@[simp] theorem updMcs_cm (n : Nat) (f : Mcs → Mcs) (b : Block) : (updMcs n f b).cm = b.cm := rfl
@[simp] theorem updMcs_trust (n : Nat) (f : Mcs → Mcs) (b : Block) : (updMcs n f b).trust = b.trust := rfl
@[simp] theorem updMcs_otp (n : Nat) (f : Mcs → Mcs) (b : Block) : (updMcs n f b).otp = b.otp := rfl
@[simp] theorem updMcs_boot (n : Nat) (f : Mcs → Mcs) (b : Block) : (updMcs n f b).boot = b.boot := rfl

@[simp] theorem updPort_time (n : Nat) (f : MPort → MPort) (b : Block) : (updPort n f b).time = b.time := rfl
@[simp] theorem updPort_freeCtr (n : Nat) (f : MPort → MPort) (b : Block) : (updPort n f b).freeCtr = b.freeCtr := rfl
@[simp] theorem updPort_tally (n : Nat) (f : MPort → MPort) (b : Block) : (updPort n f b).tally = b.tally := rfl
@[simp] theorem updPort_ring (n : Nat) (f : MPort → MPort) (b : Block) : (updPort n f b).ring = b.ring := rfl
@[simp] theorem updPort_inst (n : Nat) (f : MPort → MPort) (b : Block) : (updPort n f b).inst = b.inst := rfl
@[simp] theorem updPort_units (n : Nat) (f : MPort → MPort) (b : Block) : (updPort n f b).units = b.units := rfl
@[simp] theorem updPort_mcs (n : Nat) (f : MPort → MPort) (b : Block) : (updPort n f b).mcs = b.mcs := rfl
@[simp] theorem updPort_rgn (n : Nat) (f : MPort → MPort) (b : Block) : (updPort n f b).rgn = b.rgn := rfl
@[simp] theorem updPort_keys (n : Nat) (f : MPort → MPort) (b : Block) : (updPort n f b).keys = b.keys := rfl
@[simp] theorem updPort_lcs (n : Nat) (f : MPort → MPort) (b : Block) : (updPort n f b).lcs = b.lcs := rfl
@[simp] theorem updPort_lport (n : Nat) (f : MPort → MPort) (b : Block) : (updPort n f b).lport = b.lport := rfl
@[simp] theorem updPort_esb (n : Nat) (f : MPort → MPort) (b : Block) : (updPort n f b).esb = b.esb := rfl
@[simp] theorem updPort_fab (n : Nat) (f : MPort → MPort) (b : Block) : (updPort n f b).fab = b.fab := rfl
@[simp] theorem updPort_red (n : Nat) (f : MPort → MPort) (b : Block) : (updPort n f b).red = b.red := rfl
@[simp] theorem updPort_bay (n : Nat) (f : MPort → MPort) (b : Block) : (updPort n f b).bay = b.bay := rfl
@[simp] theorem updPort_fo (n : Nat) (f : MPort → MPort) (b : Block) : (updPort n f b).fo = b.fo := rfl
@[simp] theorem updPort_jnl (n : Nat) (f : MPort → MPort) (b : Block) : (updPort n f b).jnl = b.jnl := rfl
@[simp] theorem updPort_cm (n : Nat) (f : MPort → MPort) (b : Block) : (updPort n f b).cm = b.cm := rfl
@[simp] theorem updPort_trust (n : Nat) (f : MPort → MPort) (b : Block) : (updPort n f b).trust = b.trust := rfl
@[simp] theorem updPort_otp (n : Nat) (f : MPort → MPort) (b : Block) : (updPort n f b).otp = b.otp := rfl
@[simp] theorem updPort_boot (n : Nat) (f : MPort → MPort) (b : Block) : (updPort n f b).boot = b.boot := rfl

@[simp] theorem updLcs_time (n : Nat) (f : Lcs → Lcs) (b : Block) : (updLcs n f b).time = b.time := rfl
@[simp] theorem updLcs_freeCtr (n : Nat) (f : Lcs → Lcs) (b : Block) : (updLcs n f b).freeCtr = b.freeCtr := rfl
@[simp] theorem updLcs_tally (n : Nat) (f : Lcs → Lcs) (b : Block) : (updLcs n f b).tally = b.tally := rfl
@[simp] theorem updLcs_ring (n : Nat) (f : Lcs → Lcs) (b : Block) : (updLcs n f b).ring = b.ring := rfl
@[simp] theorem updLcs_inst (n : Nat) (f : Lcs → Lcs) (b : Block) : (updLcs n f b).inst = b.inst := rfl
@[simp] theorem updLcs_units (n : Nat) (f : Lcs → Lcs) (b : Block) : (updLcs n f b).units = b.units := rfl
@[simp] theorem updLcs_mcs (n : Nat) (f : Lcs → Lcs) (b : Block) : (updLcs n f b).mcs = b.mcs := rfl
@[simp] theorem updLcs_mport (n : Nat) (f : Lcs → Lcs) (b : Block) : (updLcs n f b).mport = b.mport := rfl
@[simp] theorem updLcs_rgn (n : Nat) (f : Lcs → Lcs) (b : Block) : (updLcs n f b).rgn = b.rgn := rfl
@[simp] theorem updLcs_keys (n : Nat) (f : Lcs → Lcs) (b : Block) : (updLcs n f b).keys = b.keys := rfl
@[simp] theorem updLcs_lport (n : Nat) (f : Lcs → Lcs) (b : Block) : (updLcs n f b).lport = b.lport := rfl
@[simp] theorem updLcs_esb (n : Nat) (f : Lcs → Lcs) (b : Block) : (updLcs n f b).esb = b.esb := rfl
@[simp] theorem updLcs_fab (n : Nat) (f : Lcs → Lcs) (b : Block) : (updLcs n f b).fab = b.fab := rfl
@[simp] theorem updLcs_red (n : Nat) (f : Lcs → Lcs) (b : Block) : (updLcs n f b).red = b.red := rfl
@[simp] theorem updLcs_bay (n : Nat) (f : Lcs → Lcs) (b : Block) : (updLcs n f b).bay = b.bay := rfl
@[simp] theorem updLcs_fo (n : Nat) (f : Lcs → Lcs) (b : Block) : (updLcs n f b).fo = b.fo := rfl
@[simp] theorem updLcs_jnl (n : Nat) (f : Lcs → Lcs) (b : Block) : (updLcs n f b).jnl = b.jnl := rfl
@[simp] theorem updLcs_cm (n : Nat) (f : Lcs → Lcs) (b : Block) : (updLcs n f b).cm = b.cm := rfl
@[simp] theorem updLcs_trust (n : Nat) (f : Lcs → Lcs) (b : Block) : (updLcs n f b).trust = b.trust := rfl
@[simp] theorem updLcs_otp (n : Nat) (f : Lcs → Lcs) (b : Block) : (updLcs n f b).otp = b.otp := rfl
@[simp] theorem updLcs_boot (n : Nat) (f : Lcs → Lcs) (b : Block) : (updLcs n f b).boot = b.boot := rfl

@[simp] theorem updLport_time (n : Nat) (f : LPort → LPort) (b : Block) : (updLport n f b).time = b.time := rfl
@[simp] theorem updLport_freeCtr (n : Nat) (f : LPort → LPort) (b : Block) : (updLport n f b).freeCtr = b.freeCtr := rfl
@[simp] theorem updLport_tally (n : Nat) (f : LPort → LPort) (b : Block) : (updLport n f b).tally = b.tally := rfl
@[simp] theorem updLport_ring (n : Nat) (f : LPort → LPort) (b : Block) : (updLport n f b).ring = b.ring := rfl
@[simp] theorem updLport_inst (n : Nat) (f : LPort → LPort) (b : Block) : (updLport n f b).inst = b.inst := rfl
@[simp] theorem updLport_units (n : Nat) (f : LPort → LPort) (b : Block) : (updLport n f b).units = b.units := rfl
@[simp] theorem updLport_mcs (n : Nat) (f : LPort → LPort) (b : Block) : (updLport n f b).mcs = b.mcs := rfl
@[simp] theorem updLport_mport (n : Nat) (f : LPort → LPort) (b : Block) : (updLport n f b).mport = b.mport := rfl
@[simp] theorem updLport_rgn (n : Nat) (f : LPort → LPort) (b : Block) : (updLport n f b).rgn = b.rgn := rfl
@[simp] theorem updLport_keys (n : Nat) (f : LPort → LPort) (b : Block) : (updLport n f b).keys = b.keys := rfl
@[simp] theorem updLport_lcs (n : Nat) (f : LPort → LPort) (b : Block) : (updLport n f b).lcs = b.lcs := rfl
@[simp] theorem updLport_esb (n : Nat) (f : LPort → LPort) (b : Block) : (updLport n f b).esb = b.esb := rfl
@[simp] theorem updLport_fab (n : Nat) (f : LPort → LPort) (b : Block) : (updLport n f b).fab = b.fab := rfl
@[simp] theorem updLport_red (n : Nat) (f : LPort → LPort) (b : Block) : (updLport n f b).red = b.red := rfl
@[simp] theorem updLport_bay (n : Nat) (f : LPort → LPort) (b : Block) : (updLport n f b).bay = b.bay := rfl
@[simp] theorem updLport_fo (n : Nat) (f : LPort → LPort) (b : Block) : (updLport n f b).fo = b.fo := rfl
@[simp] theorem updLport_jnl (n : Nat) (f : LPort → LPort) (b : Block) : (updLport n f b).jnl = b.jnl := rfl
@[simp] theorem updLport_cm (n : Nat) (f : LPort → LPort) (b : Block) : (updLport n f b).cm = b.cm := rfl
@[simp] theorem updLport_trust (n : Nat) (f : LPort → LPort) (b : Block) : (updLport n f b).trust = b.trust := rfl
@[simp] theorem updLport_otp (n : Nat) (f : LPort → LPort) (b : Block) : (updLport n f b).otp = b.otp := rfl
@[simp] theorem updLport_boot (n : Nat) (f : LPort → LPort) (b : Block) : (updLport n f b).boot = b.boot := rfl

@[simp] theorem updEsb_time (i : Nat) (f : Esb → Esb) (b : Block) : (updEsb i f b).time = b.time := rfl
@[simp] theorem updEsb_freeCtr (i : Nat) (f : Esb → Esb) (b : Block) : (updEsb i f b).freeCtr = b.freeCtr := rfl
@[simp] theorem updEsb_tally (i : Nat) (f : Esb → Esb) (b : Block) : (updEsb i f b).tally = b.tally := rfl
@[simp] theorem updEsb_ring (i : Nat) (f : Esb → Esb) (b : Block) : (updEsb i f b).ring = b.ring := rfl
@[simp] theorem updEsb_inst (i : Nat) (f : Esb → Esb) (b : Block) : (updEsb i f b).inst = b.inst := rfl
@[simp] theorem updEsb_units (i : Nat) (f : Esb → Esb) (b : Block) : (updEsb i f b).units = b.units := rfl
@[simp] theorem updEsb_mcs (i : Nat) (f : Esb → Esb) (b : Block) : (updEsb i f b).mcs = b.mcs := rfl
@[simp] theorem updEsb_mport (i : Nat) (f : Esb → Esb) (b : Block) : (updEsb i f b).mport = b.mport := rfl
@[simp] theorem updEsb_rgn (i : Nat) (f : Esb → Esb) (b : Block) : (updEsb i f b).rgn = b.rgn := rfl
@[simp] theorem updEsb_keys (i : Nat) (f : Esb → Esb) (b : Block) : (updEsb i f b).keys = b.keys := rfl
@[simp] theorem updEsb_lcs (i : Nat) (f : Esb → Esb) (b : Block) : (updEsb i f b).lcs = b.lcs := rfl
@[simp] theorem updEsb_lport (i : Nat) (f : Esb → Esb) (b : Block) : (updEsb i f b).lport = b.lport := rfl
@[simp] theorem updEsb_fab (i : Nat) (f : Esb → Esb) (b : Block) : (updEsb i f b).fab = b.fab := rfl
@[simp] theorem updEsb_red (i : Nat) (f : Esb → Esb) (b : Block) : (updEsb i f b).red = b.red := rfl
@[simp] theorem updEsb_bay (i : Nat) (f : Esb → Esb) (b : Block) : (updEsb i f b).bay = b.bay := rfl
@[simp] theorem updEsb_fo (i : Nat) (f : Esb → Esb) (b : Block) : (updEsb i f b).fo = b.fo := rfl
@[simp] theorem updEsb_jnl (i : Nat) (f : Esb → Esb) (b : Block) : (updEsb i f b).jnl = b.jnl := rfl
@[simp] theorem updEsb_cm (i : Nat) (f : Esb → Esb) (b : Block) : (updEsb i f b).cm = b.cm := rfl
@[simp] theorem updEsb_trust (i : Nat) (f : Esb → Esb) (b : Block) : (updEsb i f b).trust = b.trust := rfl
@[simp] theorem updEsb_otp (i : Nat) (f : Esb → Esb) (b : Block) : (updEsb i f b).otp = b.otp := rfl
@[simp] theorem updEsb_boot (i : Nat) (f : Esb → Esb) (b : Block) : (updEsb i f b).boot = b.boot := rfl

@[simp] theorem updFab_time (i : Nat) (f : FabInst → FabInst) (b : Block) : (updFab i f b).time = b.time := rfl
@[simp] theorem updFab_freeCtr (i : Nat) (f : FabInst → FabInst) (b : Block) : (updFab i f b).freeCtr = b.freeCtr := rfl
@[simp] theorem updFab_tally (i : Nat) (f : FabInst → FabInst) (b : Block) : (updFab i f b).tally = b.tally := rfl
@[simp] theorem updFab_ring (i : Nat) (f : FabInst → FabInst) (b : Block) : (updFab i f b).ring = b.ring := rfl
@[simp] theorem updFab_inst (i : Nat) (f : FabInst → FabInst) (b : Block) : (updFab i f b).inst = b.inst := rfl
@[simp] theorem updFab_units (i : Nat) (f : FabInst → FabInst) (b : Block) : (updFab i f b).units = b.units := rfl
@[simp] theorem updFab_mcs (i : Nat) (f : FabInst → FabInst) (b : Block) : (updFab i f b).mcs = b.mcs := rfl
@[simp] theorem updFab_mport (i : Nat) (f : FabInst → FabInst) (b : Block) : (updFab i f b).mport = b.mport := rfl
@[simp] theorem updFab_rgn (i : Nat) (f : FabInst → FabInst) (b : Block) : (updFab i f b).rgn = b.rgn := rfl
@[simp] theorem updFab_keys (i : Nat) (f : FabInst → FabInst) (b : Block) : (updFab i f b).keys = b.keys := rfl
@[simp] theorem updFab_lcs (i : Nat) (f : FabInst → FabInst) (b : Block) : (updFab i f b).lcs = b.lcs := rfl
@[simp] theorem updFab_lport (i : Nat) (f : FabInst → FabInst) (b : Block) : (updFab i f b).lport = b.lport := rfl
@[simp] theorem updFab_esb (i : Nat) (f : FabInst → FabInst) (b : Block) : (updFab i f b).esb = b.esb := rfl
@[simp] theorem updFab_red (i : Nat) (f : FabInst → FabInst) (b : Block) : (updFab i f b).red = b.red := rfl
@[simp] theorem updFab_bay (i : Nat) (f : FabInst → FabInst) (b : Block) : (updFab i f b).bay = b.bay := rfl
@[simp] theorem updFab_fo (i : Nat) (f : FabInst → FabInst) (b : Block) : (updFab i f b).fo = b.fo := rfl
@[simp] theorem updFab_jnl (i : Nat) (f : FabInst → FabInst) (b : Block) : (updFab i f b).jnl = b.jnl := rfl
@[simp] theorem updFab_cm (i : Nat) (f : FabInst → FabInst) (b : Block) : (updFab i f b).cm = b.cm := rfl
@[simp] theorem updFab_trust (i : Nat) (f : FabInst → FabInst) (b : Block) : (updFab i f b).trust = b.trust := rfl
@[simp] theorem updFab_otp (i : Nat) (f : FabInst → FabInst) (b : Block) : (updFab i f b).otp = b.otp := rfl
@[simp] theorem updFab_boot (i : Nat) (f : FabInst → FabInst) (b : Block) : (updFab i f b).boot = b.boot := rfl

@[simp] theorem setRgn_time (k : Nat) (r : Rgn) (b : Block) : (setRgn k r b).time = b.time := rfl
@[simp] theorem setRgn_freeCtr (k : Nat) (r : Rgn) (b : Block) : (setRgn k r b).freeCtr = b.freeCtr := rfl
@[simp] theorem setRgn_tally (k : Nat) (r : Rgn) (b : Block) : (setRgn k r b).tally = b.tally := rfl
@[simp] theorem setRgn_ring (k : Nat) (r : Rgn) (b : Block) : (setRgn k r b).ring = b.ring := rfl
@[simp] theorem setRgn_inst (k : Nat) (r : Rgn) (b : Block) : (setRgn k r b).inst = b.inst := rfl
@[simp] theorem setRgn_units (k : Nat) (r : Rgn) (b : Block) : (setRgn k r b).units = b.units := rfl
@[simp] theorem setRgn_mcs (k : Nat) (r : Rgn) (b : Block) : (setRgn k r b).mcs = b.mcs := rfl
@[simp] theorem setRgn_mport (k : Nat) (r : Rgn) (b : Block) : (setRgn k r b).mport = b.mport := rfl
@[simp] theorem setRgn_keys (k : Nat) (r : Rgn) (b : Block) : (setRgn k r b).keys = b.keys := rfl
@[simp] theorem setRgn_lcs (k : Nat) (r : Rgn) (b : Block) : (setRgn k r b).lcs = b.lcs := rfl
@[simp] theorem setRgn_lport (k : Nat) (r : Rgn) (b : Block) : (setRgn k r b).lport = b.lport := rfl
@[simp] theorem setRgn_esb (k : Nat) (r : Rgn) (b : Block) : (setRgn k r b).esb = b.esb := rfl
@[simp] theorem setRgn_fab (k : Nat) (r : Rgn) (b : Block) : (setRgn k r b).fab = b.fab := rfl
@[simp] theorem setRgn_red (k : Nat) (r : Rgn) (b : Block) : (setRgn k r b).red = b.red := rfl
@[simp] theorem setRgn_bay (k : Nat) (r : Rgn) (b : Block) : (setRgn k r b).bay = b.bay := rfl
@[simp] theorem setRgn_fo (k : Nat) (r : Rgn) (b : Block) : (setRgn k r b).fo = b.fo := rfl
@[simp] theorem setRgn_jnl (k : Nat) (r : Rgn) (b : Block) : (setRgn k r b).jnl = b.jnl := rfl
@[simp] theorem setRgn_cm (k : Nat) (r : Rgn) (b : Block) : (setRgn k r b).cm = b.cm := rfl
@[simp] theorem setRgn_trust (k : Nat) (r : Rgn) (b : Block) : (setRgn k r b).trust = b.trust := rfl
@[simp] theorem setRgn_otp (k : Nat) (r : Rgn) (b : Block) : (setRgn k r b).otp = b.otp := rfl
@[simp] theorem setRgn_boot (k : Nat) (r : Rgn) (b : Block) : (setRgn k r b).boot = b.boot := rfl

@[simp] theorem updKey_time (k : Nat) (f : KEntry → KEntry) (b : Block) : (updKey k f b).time = b.time := rfl
@[simp] theorem updKey_freeCtr (k : Nat) (f : KEntry → KEntry) (b : Block) : (updKey k f b).freeCtr = b.freeCtr := rfl
@[simp] theorem updKey_tally (k : Nat) (f : KEntry → KEntry) (b : Block) : (updKey k f b).tally = b.tally := rfl
@[simp] theorem updKey_ring (k : Nat) (f : KEntry → KEntry) (b : Block) : (updKey k f b).ring = b.ring := rfl
@[simp] theorem updKey_inst (k : Nat) (f : KEntry → KEntry) (b : Block) : (updKey k f b).inst = b.inst := rfl
@[simp] theorem updKey_units (k : Nat) (f : KEntry → KEntry) (b : Block) : (updKey k f b).units = b.units := rfl
@[simp] theorem updKey_mcs (k : Nat) (f : KEntry → KEntry) (b : Block) : (updKey k f b).mcs = b.mcs := rfl
@[simp] theorem updKey_mport (k : Nat) (f : KEntry → KEntry) (b : Block) : (updKey k f b).mport = b.mport := rfl
@[simp] theorem updKey_rgn (k : Nat) (f : KEntry → KEntry) (b : Block) : (updKey k f b).rgn = b.rgn := rfl
@[simp] theorem updKey_lcs (k : Nat) (f : KEntry → KEntry) (b : Block) : (updKey k f b).lcs = b.lcs := rfl
@[simp] theorem updKey_lport (k : Nat) (f : KEntry → KEntry) (b : Block) : (updKey k f b).lport = b.lport := rfl
@[simp] theorem updKey_esb (k : Nat) (f : KEntry → KEntry) (b : Block) : (updKey k f b).esb = b.esb := rfl
@[simp] theorem updKey_fab (k : Nat) (f : KEntry → KEntry) (b : Block) : (updKey k f b).fab = b.fab := rfl
@[simp] theorem updKey_red (k : Nat) (f : KEntry → KEntry) (b : Block) : (updKey k f b).red = b.red := rfl
@[simp] theorem updKey_bay (k : Nat) (f : KEntry → KEntry) (b : Block) : (updKey k f b).bay = b.bay := rfl
@[simp] theorem updKey_fo (k : Nat) (f : KEntry → KEntry) (b : Block) : (updKey k f b).fo = b.fo := rfl
@[simp] theorem updKey_jnl (k : Nat) (f : KEntry → KEntry) (b : Block) : (updKey k f b).jnl = b.jnl := rfl
@[simp] theorem updKey_cm (k : Nat) (f : KEntry → KEntry) (b : Block) : (updKey k f b).cm = b.cm := rfl
@[simp] theorem updKey_trust (k : Nat) (f : KEntry → KEntry) (b : Block) : (updKey k f b).trust = b.trust := rfl
@[simp] theorem updKey_otp (k : Nat) (f : KEntry → KEntry) (b : Block) : (updKey k f b).otp = b.otp := rfl
@[simp] theorem updKey_boot (k : Nat) (f : KEntry → KEntry) (b : Block) : (updKey k f b).boot = b.boot := rfl

@[simp] theorem setWin_time (k : Nat) (w : Win) (b : Block) : (setWin k w b).time = b.time := rfl
@[simp] theorem setWin_freeCtr (k : Nat) (w : Win) (b : Block) : (setWin k w b).freeCtr = b.freeCtr := rfl
@[simp] theorem setWin_tally (k : Nat) (w : Win) (b : Block) : (setWin k w b).tally = b.tally := rfl
@[simp] theorem setWin_ring (k : Nat) (w : Win) (b : Block) : (setWin k w b).ring = b.ring := rfl
@[simp] theorem setWin_inst (k : Nat) (w : Win) (b : Block) : (setWin k w b).inst = b.inst := rfl
@[simp] theorem setWin_units (k : Nat) (w : Win) (b : Block) : (setWin k w b).units = b.units := rfl
@[simp] theorem setWin_mcs (k : Nat) (w : Win) (b : Block) : (setWin k w b).mcs = b.mcs := rfl
@[simp] theorem setWin_mport (k : Nat) (w : Win) (b : Block) : (setWin k w b).mport = b.mport := rfl
@[simp] theorem setWin_rgn (k : Nat) (w : Win) (b : Block) : (setWin k w b).rgn = b.rgn := rfl
@[simp] theorem setWin_keys (k : Nat) (w : Win) (b : Block) : (setWin k w b).keys = b.keys := rfl
@[simp] theorem setWin_lcs (k : Nat) (w : Win) (b : Block) : (setWin k w b).lcs = b.lcs := rfl
@[simp] theorem setWin_lport (k : Nat) (w : Win) (b : Block) : (setWin k w b).lport = b.lport := rfl
@[simp] theorem setWin_esb (k : Nat) (w : Win) (b : Block) : (setWin k w b).esb = b.esb := rfl
@[simp] theorem setWin_red (k : Nat) (w : Win) (b : Block) : (setWin k w b).red = b.red := rfl
@[simp] theorem setWin_bay (k : Nat) (w : Win) (b : Block) : (setWin k w b).bay = b.bay := rfl
@[simp] theorem setWin_fo (k : Nat) (w : Win) (b : Block) : (setWin k w b).fo = b.fo := rfl
@[simp] theorem setWin_jnl (k : Nat) (w : Win) (b : Block) : (setWin k w b).jnl = b.jnl := rfl
@[simp] theorem setWin_cm (k : Nat) (w : Win) (b : Block) : (setWin k w b).cm = b.cm := rfl
@[simp] theorem setWin_trust (k : Nat) (w : Win) (b : Block) : (setWin k w b).trust = b.trust := rfl
@[simp] theorem setWin_otp (k : Nat) (w : Win) (b : Block) : (setWin k w b).otp = b.otp := rfl
@[simp] theorem setWin_boot (k : Nat) (w : Win) (b : Block) : (setWin k w b).boot = b.boot := rfl

@[simp] theorem updCtx_time (c : Nat) (f : CtxRec → CtxRec) (b : Block) : (updCtx c f b).time = b.time := rfl
@[simp] theorem updCtx_freeCtr (c : Nat) (f : CtxRec → CtxRec) (b : Block) : (updCtx c f b).freeCtr = b.freeCtr := rfl
@[simp] theorem updCtx_tally (c : Nat) (f : CtxRec → CtxRec) (b : Block) : (updCtx c f b).tally = b.tally := rfl
@[simp] theorem updCtx_ring (c : Nat) (f : CtxRec → CtxRec) (b : Block) : (updCtx c f b).ring = b.ring := rfl
@[simp] theorem updCtx_inst (c : Nat) (f : CtxRec → CtxRec) (b : Block) : (updCtx c f b).inst = b.inst := rfl
@[simp] theorem updCtx_units (c : Nat) (f : CtxRec → CtxRec) (b : Block) : (updCtx c f b).units = b.units := rfl
@[simp] theorem updCtx_mcs (c : Nat) (f : CtxRec → CtxRec) (b : Block) : (updCtx c f b).mcs = b.mcs := rfl
@[simp] theorem updCtx_mport (c : Nat) (f : CtxRec → CtxRec) (b : Block) : (updCtx c f b).mport = b.mport := rfl
@[simp] theorem updCtx_rgn (c : Nat) (f : CtxRec → CtxRec) (b : Block) : (updCtx c f b).rgn = b.rgn := rfl
@[simp] theorem updCtx_keys (c : Nat) (f : CtxRec → CtxRec) (b : Block) : (updCtx c f b).keys = b.keys := rfl
@[simp] theorem updCtx_lcs (c : Nat) (f : CtxRec → CtxRec) (b : Block) : (updCtx c f b).lcs = b.lcs := rfl
@[simp] theorem updCtx_lport (c : Nat) (f : CtxRec → CtxRec) (b : Block) : (updCtx c f b).lport = b.lport := rfl
@[simp] theorem updCtx_esb (c : Nat) (f : CtxRec → CtxRec) (b : Block) : (updCtx c f b).esb = b.esb := rfl
@[simp] theorem updCtx_fab (c : Nat) (f : CtxRec → CtxRec) (b : Block) : (updCtx c f b).fab = b.fab := rfl
@[simp] theorem updCtx_red (c : Nat) (f : CtxRec → CtxRec) (b : Block) : (updCtx c f b).red = b.red := rfl
@[simp] theorem updCtx_bay (c : Nat) (f : CtxRec → CtxRec) (b : Block) : (updCtx c f b).bay = b.bay := rfl
@[simp] theorem updCtx_fo (c : Nat) (f : CtxRec → CtxRec) (b : Block) : (updCtx c f b).fo = b.fo := rfl
@[simp] theorem updCtx_jnl (c : Nat) (f : CtxRec → CtxRec) (b : Block) : (updCtx c f b).jnl = b.jnl := rfl
@[simp] theorem updCtx_trust (c : Nat) (f : CtxRec → CtxRec) (b : Block) : (updCtx c f b).trust = b.trust := rfl
@[simp] theorem updCtx_otp (c : Nat) (f : CtxRec → CtxRec) (b : Block) : (updCtx c f b).otp = b.otp := rfl
@[simp] theorem updCtx_boot (c : Nat) (f : CtxRec → CtxRec) (b : Block) : (updCtx c f b).boot = b.boot := rfl

@[simp] theorem updQueue_time (q : Nat) (f : Queue → Queue) (b : Block) : (updQueue q f b).time = b.time := rfl
@[simp] theorem updQueue_freeCtr (q : Nat) (f : Queue → Queue) (b : Block) : (updQueue q f b).freeCtr = b.freeCtr := rfl
@[simp] theorem updQueue_tally (q : Nat) (f : Queue → Queue) (b : Block) : (updQueue q f b).tally = b.tally := rfl
@[simp] theorem updQueue_ring (q : Nat) (f : Queue → Queue) (b : Block) : (updQueue q f b).ring = b.ring := rfl
@[simp] theorem updQueue_inst (q : Nat) (f : Queue → Queue) (b : Block) : (updQueue q f b).inst = b.inst := rfl
@[simp] theorem updQueue_units (q : Nat) (f : Queue → Queue) (b : Block) : (updQueue q f b).units = b.units := rfl
@[simp] theorem updQueue_mcs (q : Nat) (f : Queue → Queue) (b : Block) : (updQueue q f b).mcs = b.mcs := rfl
@[simp] theorem updQueue_mport (q : Nat) (f : Queue → Queue) (b : Block) : (updQueue q f b).mport = b.mport := rfl
@[simp] theorem updQueue_rgn (q : Nat) (f : Queue → Queue) (b : Block) : (updQueue q f b).rgn = b.rgn := rfl
@[simp] theorem updQueue_keys (q : Nat) (f : Queue → Queue) (b : Block) : (updQueue q f b).keys = b.keys := rfl
@[simp] theorem updQueue_lcs (q : Nat) (f : Queue → Queue) (b : Block) : (updQueue q f b).lcs = b.lcs := rfl
@[simp] theorem updQueue_lport (q : Nat) (f : Queue → Queue) (b : Block) : (updQueue q f b).lport = b.lport := rfl
@[simp] theorem updQueue_esb (q : Nat) (f : Queue → Queue) (b : Block) : (updQueue q f b).esb = b.esb := rfl
@[simp] theorem updQueue_fab (q : Nat) (f : Queue → Queue) (b : Block) : (updQueue q f b).fab = b.fab := rfl
@[simp] theorem updQueue_red (q : Nat) (f : Queue → Queue) (b : Block) : (updQueue q f b).red = b.red := rfl
@[simp] theorem updQueue_bay (q : Nat) (f : Queue → Queue) (b : Block) : (updQueue q f b).bay = b.bay := rfl
@[simp] theorem updQueue_fo (q : Nat) (f : Queue → Queue) (b : Block) : (updQueue q f b).fo = b.fo := rfl
@[simp] theorem updQueue_jnl (q : Nat) (f : Queue → Queue) (b : Block) : (updQueue q f b).jnl = b.jnl := rfl
@[simp] theorem updQueue_trust (q : Nat) (f : Queue → Queue) (b : Block) : (updQueue q f b).trust = b.trust := rfl
@[simp] theorem updQueue_otp (q : Nat) (f : Queue → Queue) (b : Block) : (updQueue q f b).otp = b.otp := rfl
@[simp] theorem updQueue_boot (q : Nat) (f : Queue → Queue) (b : Block) : (updQueue q f b).boot = b.boot := rfl

@[simp] theorem updFence_time (k : Nat) (f : Fence → Fence) (b : Block) : (updFence k f b).time = b.time := rfl
@[simp] theorem updFence_freeCtr (k : Nat) (f : Fence → Fence) (b : Block) : (updFence k f b).freeCtr = b.freeCtr := rfl
@[simp] theorem updFence_tally (k : Nat) (f : Fence → Fence) (b : Block) : (updFence k f b).tally = b.tally := rfl
@[simp] theorem updFence_ring (k : Nat) (f : Fence → Fence) (b : Block) : (updFence k f b).ring = b.ring := rfl
@[simp] theorem updFence_inst (k : Nat) (f : Fence → Fence) (b : Block) : (updFence k f b).inst = b.inst := rfl
@[simp] theorem updFence_units (k : Nat) (f : Fence → Fence) (b : Block) : (updFence k f b).units = b.units := rfl
@[simp] theorem updFence_mcs (k : Nat) (f : Fence → Fence) (b : Block) : (updFence k f b).mcs = b.mcs := rfl
@[simp] theorem updFence_mport (k : Nat) (f : Fence → Fence) (b : Block) : (updFence k f b).mport = b.mport := rfl
@[simp] theorem updFence_rgn (k : Nat) (f : Fence → Fence) (b : Block) : (updFence k f b).rgn = b.rgn := rfl
@[simp] theorem updFence_keys (k : Nat) (f : Fence → Fence) (b : Block) : (updFence k f b).keys = b.keys := rfl
@[simp] theorem updFence_lcs (k : Nat) (f : Fence → Fence) (b : Block) : (updFence k f b).lcs = b.lcs := rfl
@[simp] theorem updFence_lport (k : Nat) (f : Fence → Fence) (b : Block) : (updFence k f b).lport = b.lport := rfl
@[simp] theorem updFence_esb (k : Nat) (f : Fence → Fence) (b : Block) : (updFence k f b).esb = b.esb := rfl
@[simp] theorem updFence_fab (k : Nat) (f : Fence → Fence) (b : Block) : (updFence k f b).fab = b.fab := rfl
@[simp] theorem updFence_red (k : Nat) (f : Fence → Fence) (b : Block) : (updFence k f b).red = b.red := rfl
@[simp] theorem updFence_bay (k : Nat) (f : Fence → Fence) (b : Block) : (updFence k f b).bay = b.bay := rfl
@[simp] theorem updFence_fo (k : Nat) (f : Fence → Fence) (b : Block) : (updFence k f b).fo = b.fo := rfl
@[simp] theorem updFence_jnl (k : Nat) (f : Fence → Fence) (b : Block) : (updFence k f b).jnl = b.jnl := rfl
@[simp] theorem updFence_trust (k : Nat) (f : Fence → Fence) (b : Block) : (updFence k f b).trust = b.trust := rfl
@[simp] theorem updFence_otp (k : Nat) (f : Fence → Fence) (b : Block) : (updFence k f b).otp = b.otp := rfl
@[simp] theorem updFence_boot (k : Nat) (f : Fence → Fence) (b : Block) : (updFence k f b).boot = b.boot := rfl

@[simp] theorem updSlot_time (k : Nat) (f : Slot → Slot) (b : Block) : (updSlot k f b).time = b.time := rfl
@[simp] theorem updSlot_freeCtr (k : Nat) (f : Slot → Slot) (b : Block) : (updSlot k f b).freeCtr = b.freeCtr := rfl
@[simp] theorem updSlot_tally (k : Nat) (f : Slot → Slot) (b : Block) : (updSlot k f b).tally = b.tally := rfl
@[simp] theorem updSlot_ring (k : Nat) (f : Slot → Slot) (b : Block) : (updSlot k f b).ring = b.ring := rfl
@[simp] theorem updSlot_inst (k : Nat) (f : Slot → Slot) (b : Block) : (updSlot k f b).inst = b.inst := rfl
@[simp] theorem updSlot_units (k : Nat) (f : Slot → Slot) (b : Block) : (updSlot k f b).units = b.units := rfl
@[simp] theorem updSlot_mcs (k : Nat) (f : Slot → Slot) (b : Block) : (updSlot k f b).mcs = b.mcs := rfl
@[simp] theorem updSlot_mport (k : Nat) (f : Slot → Slot) (b : Block) : (updSlot k f b).mport = b.mport := rfl
@[simp] theorem updSlot_rgn (k : Nat) (f : Slot → Slot) (b : Block) : (updSlot k f b).rgn = b.rgn := rfl
@[simp] theorem updSlot_keys (k : Nat) (f : Slot → Slot) (b : Block) : (updSlot k f b).keys = b.keys := rfl
@[simp] theorem updSlot_lcs (k : Nat) (f : Slot → Slot) (b : Block) : (updSlot k f b).lcs = b.lcs := rfl
@[simp] theorem updSlot_lport (k : Nat) (f : Slot → Slot) (b : Block) : (updSlot k f b).lport = b.lport := rfl
@[simp] theorem updSlot_esb (k : Nat) (f : Slot → Slot) (b : Block) : (updSlot k f b).esb = b.esb := rfl
@[simp] theorem updSlot_fab (k : Nat) (f : Slot → Slot) (b : Block) : (updSlot k f b).fab = b.fab := rfl
@[simp] theorem updSlot_red (k : Nat) (f : Slot → Slot) (b : Block) : (updSlot k f b).red = b.red := rfl
@[simp] theorem updSlot_bay (k : Nat) (f : Slot → Slot) (b : Block) : (updSlot k f b).bay = b.bay := rfl
@[simp] theorem updSlot_fo (k : Nat) (f : Slot → Slot) (b : Block) : (updSlot k f b).fo = b.fo := rfl
@[simp] theorem updSlot_jnl (k : Nat) (f : Slot → Slot) (b : Block) : (updSlot k f b).jnl = b.jnl := rfl
@[simp] theorem updSlot_trust (k : Nat) (f : Slot → Slot) (b : Block) : (updSlot k f b).trust = b.trust := rfl
@[simp] theorem updSlot_otp (k : Nat) (f : Slot → Slot) (b : Block) : (updSlot k f b).otp = b.otp := rfl
@[simp] theorem updSlot_boot (k : Nat) (f : Slot → Slot) (b : Block) : (updSlot k f b).boot = b.boot := rfl

@[simp] theorem updTInst_time (t : Nat) (f : TInst → TInst) (b : Block) : (updTInst t f b).time = b.time := rfl
@[simp] theorem updTInst_freeCtr (t : Nat) (f : TInst → TInst) (b : Block) : (updTInst t f b).freeCtr = b.freeCtr := rfl
@[simp] theorem updTInst_tally (t : Nat) (f : TInst → TInst) (b : Block) : (updTInst t f b).tally = b.tally := rfl
@[simp] theorem updTInst_ring (t : Nat) (f : TInst → TInst) (b : Block) : (updTInst t f b).ring = b.ring := rfl
@[simp] theorem updTInst_inst (t : Nat) (f : TInst → TInst) (b : Block) : (updTInst t f b).inst = b.inst := rfl
@[simp] theorem updTInst_units (t : Nat) (f : TInst → TInst) (b : Block) : (updTInst t f b).units = b.units := rfl
@[simp] theorem updTInst_mcs (t : Nat) (f : TInst → TInst) (b : Block) : (updTInst t f b).mcs = b.mcs := rfl
@[simp] theorem updTInst_mport (t : Nat) (f : TInst → TInst) (b : Block) : (updTInst t f b).mport = b.mport := rfl
@[simp] theorem updTInst_rgn (t : Nat) (f : TInst → TInst) (b : Block) : (updTInst t f b).rgn = b.rgn := rfl
@[simp] theorem updTInst_keys (t : Nat) (f : TInst → TInst) (b : Block) : (updTInst t f b).keys = b.keys := rfl
@[simp] theorem updTInst_lcs (t : Nat) (f : TInst → TInst) (b : Block) : (updTInst t f b).lcs = b.lcs := rfl
@[simp] theorem updTInst_lport (t : Nat) (f : TInst → TInst) (b : Block) : (updTInst t f b).lport = b.lport := rfl
@[simp] theorem updTInst_esb (t : Nat) (f : TInst → TInst) (b : Block) : (updTInst t f b).esb = b.esb := rfl
@[simp] theorem updTInst_fab (t : Nat) (f : TInst → TInst) (b : Block) : (updTInst t f b).fab = b.fab := rfl
@[simp] theorem updTInst_red (t : Nat) (f : TInst → TInst) (b : Block) : (updTInst t f b).red = b.red := rfl
@[simp] theorem updTInst_bay (t : Nat) (f : TInst → TInst) (b : Block) : (updTInst t f b).bay = b.bay := rfl
@[simp] theorem updTInst_fo (t : Nat) (f : TInst → TInst) (b : Block) : (updTInst t f b).fo = b.fo := rfl
@[simp] theorem updTInst_jnl (t : Nat) (f : TInst → TInst) (b : Block) : (updTInst t f b).jnl = b.jnl := rfl
@[simp] theorem updTInst_cm (t : Nat) (f : TInst → TInst) (b : Block) : (updTInst t f b).cm = b.cm := rfl
@[simp] theorem updTInst_otp (t : Nat) (f : TInst → TInst) (b : Block) : (updTInst t f b).otp = b.otp := rfl
@[simp] theorem updTInst_boot (t : Nat) (f : TInst → TInst) (b : Block) : (updTInst t f b).boot = b.boot := rfl

@[simp] theorem updScu_time (p : Nat) (f : ScuPage → ScuPage) (b : Block) : (updScu p f b).time = b.time := rfl
@[simp] theorem updScu_freeCtr (p : Nat) (f : ScuPage → ScuPage) (b : Block) : (updScu p f b).freeCtr = b.freeCtr := rfl
@[simp] theorem updScu_tally (p : Nat) (f : ScuPage → ScuPage) (b : Block) : (updScu p f b).tally = b.tally := rfl
@[simp] theorem updScu_ring (p : Nat) (f : ScuPage → ScuPage) (b : Block) : (updScu p f b).ring = b.ring := rfl
@[simp] theorem updScu_inst (p : Nat) (f : ScuPage → ScuPage) (b : Block) : (updScu p f b).inst = b.inst := rfl
@[simp] theorem updScu_units (p : Nat) (f : ScuPage → ScuPage) (b : Block) : (updScu p f b).units = b.units := rfl
@[simp] theorem updScu_mcs (p : Nat) (f : ScuPage → ScuPage) (b : Block) : (updScu p f b).mcs = b.mcs := rfl
@[simp] theorem updScu_mport (p : Nat) (f : ScuPage → ScuPage) (b : Block) : (updScu p f b).mport = b.mport := rfl
@[simp] theorem updScu_rgn (p : Nat) (f : ScuPage → ScuPage) (b : Block) : (updScu p f b).rgn = b.rgn := rfl
@[simp] theorem updScu_lcs (p : Nat) (f : ScuPage → ScuPage) (b : Block) : (updScu p f b).lcs = b.lcs := rfl
@[simp] theorem updScu_lport (p : Nat) (f : ScuPage → ScuPage) (b : Block) : (updScu p f b).lport = b.lport := rfl
@[simp] theorem updScu_esb (p : Nat) (f : ScuPage → ScuPage) (b : Block) : (updScu p f b).esb = b.esb := rfl
@[simp] theorem updScu_fab (p : Nat) (f : ScuPage → ScuPage) (b : Block) : (updScu p f b).fab = b.fab := rfl
@[simp] theorem updScu_red (p : Nat) (f : ScuPage → ScuPage) (b : Block) : (updScu p f b).red = b.red := rfl
@[simp] theorem updScu_bay (p : Nat) (f : ScuPage → ScuPage) (b : Block) : (updScu p f b).bay = b.bay := rfl
@[simp] theorem updScu_fo (p : Nat) (f : ScuPage → ScuPage) (b : Block) : (updScu p f b).fo = b.fo := rfl
@[simp] theorem updScu_jnl (p : Nat) (f : ScuPage → ScuPage) (b : Block) : (updScu p f b).jnl = b.jnl := rfl
@[simp] theorem updScu_cm (p : Nat) (f : ScuPage → ScuPage) (b : Block) : (updScu p f b).cm = b.cm := rfl
@[simp] theorem updScu_trust (p : Nat) (f : ScuPage → ScuPage) (b : Block) : (updScu p f b).trust = b.trust := rfl
@[simp] theorem updScu_otp (p : Nat) (f : ScuPage → ScuPage) (b : Block) : (updScu p f b).otp = b.otp := rfl
@[simp] theorem updScu_boot (p : Nat) (f : ScuPage → ScuPage) (b : Block) : (updScu p f b).boot = b.boot := rfl

@[simp] theorem updMint_time (f : Mint → Mint) (b : Block) : (updMint f b).time = b.time := rfl
@[simp] theorem updMint_freeCtr (f : Mint → Mint) (b : Block) : (updMint f b).freeCtr = b.freeCtr := rfl
@[simp] theorem updMint_tally (f : Mint → Mint) (b : Block) : (updMint f b).tally = b.tally := rfl
@[simp] theorem updMint_ring (f : Mint → Mint) (b : Block) : (updMint f b).ring = b.ring := rfl
@[simp] theorem updMint_inst (f : Mint → Mint) (b : Block) : (updMint f b).inst = b.inst := rfl
@[simp] theorem updMint_units (f : Mint → Mint) (b : Block) : (updMint f b).units = b.units := rfl
@[simp] theorem updMint_mcs (f : Mint → Mint) (b : Block) : (updMint f b).mcs = b.mcs := rfl
@[simp] theorem updMint_mport (f : Mint → Mint) (b : Block) : (updMint f b).mport = b.mport := rfl
@[simp] theorem updMint_rgn (f : Mint → Mint) (b : Block) : (updMint f b).rgn = b.rgn := rfl
@[simp] theorem updMint_lcs (f : Mint → Mint) (b : Block) : (updMint f b).lcs = b.lcs := rfl
@[simp] theorem updMint_lport (f : Mint → Mint) (b : Block) : (updMint f b).lport = b.lport := rfl
@[simp] theorem updMint_esb (f : Mint → Mint) (b : Block) : (updMint f b).esb = b.esb := rfl
@[simp] theorem updMint_fab (f : Mint → Mint) (b : Block) : (updMint f b).fab = b.fab := rfl
@[simp] theorem updMint_red (f : Mint → Mint) (b : Block) : (updMint f b).red = b.red := rfl
@[simp] theorem updMint_bay (f : Mint → Mint) (b : Block) : (updMint f b).bay = b.bay := rfl
@[simp] theorem updMint_fo (f : Mint → Mint) (b : Block) : (updMint f b).fo = b.fo := rfl
@[simp] theorem updMint_jnl (f : Mint → Mint) (b : Block) : (updMint f b).jnl = b.jnl := rfl
@[simp] theorem updMint_cm (f : Mint → Mint) (b : Block) : (updMint f b).cm = b.cm := rfl
@[simp] theorem updMint_trust (f : Mint → Mint) (b : Block) : (updMint f b).trust = b.trust := rfl
@[simp] theorem updMint_otp (f : Mint → Mint) (b : Block) : (updMint f b).otp = b.otp := rfl
@[simp] theorem updMint_boot (f : Mint → Mint) (b : Block) : (updMint f b).boot = b.boot := rfl

@[simp] theorem updStore_time (f : Store → Store) (b : Block) : (updStore f b).time = b.time := rfl
@[simp] theorem updStore_freeCtr (f : Store → Store) (b : Block) : (updStore f b).freeCtr = b.freeCtr := rfl
@[simp] theorem updStore_tally (f : Store → Store) (b : Block) : (updStore f b).tally = b.tally := rfl
@[simp] theorem updStore_ring (f : Store → Store) (b : Block) : (updStore f b).ring = b.ring := rfl
@[simp] theorem updStore_inst (f : Store → Store) (b : Block) : (updStore f b).inst = b.inst := rfl
@[simp] theorem updStore_units (f : Store → Store) (b : Block) : (updStore f b).units = b.units := rfl
@[simp] theorem updStore_mcs (f : Store → Store) (b : Block) : (updStore f b).mcs = b.mcs := rfl
@[simp] theorem updStore_mport (f : Store → Store) (b : Block) : (updStore f b).mport = b.mport := rfl
@[simp] theorem updStore_rgn (f : Store → Store) (b : Block) : (updStore f b).rgn = b.rgn := rfl
@[simp] theorem updStore_lcs (f : Store → Store) (b : Block) : (updStore f b).lcs = b.lcs := rfl
@[simp] theorem updStore_lport (f : Store → Store) (b : Block) : (updStore f b).lport = b.lport := rfl
@[simp] theorem updStore_esb (f : Store → Store) (b : Block) : (updStore f b).esb = b.esb := rfl
@[simp] theorem updStore_fab (f : Store → Store) (b : Block) : (updStore f b).fab = b.fab := rfl
@[simp] theorem updStore_red (f : Store → Store) (b : Block) : (updStore f b).red = b.red := rfl
@[simp] theorem updStore_bay (f : Store → Store) (b : Block) : (updStore f b).bay = b.bay := rfl
@[simp] theorem updStore_fo (f : Store → Store) (b : Block) : (updStore f b).fo = b.fo := rfl
@[simp] theorem updStore_jnl (f : Store → Store) (b : Block) : (updStore f b).jnl = b.jnl := rfl
@[simp] theorem updStore_cm (f : Store → Store) (b : Block) : (updStore f b).cm = b.cm := rfl
@[simp] theorem updStore_trust (f : Store → Store) (b : Block) : (updStore f b).trust = b.trust := rfl
@[simp] theorem updStore_otp (f : Store → Store) (b : Block) : (updStore f b).otp = b.otp := rfl
@[simp] theorem updStore_boot (f : Store → Store) (b : Block) : (updStore f b).boot = b.boot := rfl

@[simp] theorem updDom_time (f : Dom → Dom) (b : Block) : (updDom f b).time = b.time := rfl
@[simp] theorem updDom_freeCtr (f : Dom → Dom) (b : Block) : (updDom f b).freeCtr = b.freeCtr := rfl
@[simp] theorem updDom_tally (f : Dom → Dom) (b : Block) : (updDom f b).tally = b.tally := rfl
@[simp] theorem updDom_ring (f : Dom → Dom) (b : Block) : (updDom f b).ring = b.ring := rfl
@[simp] theorem updDom_inst (f : Dom → Dom) (b : Block) : (updDom f b).inst = b.inst := rfl
@[simp] theorem updDom_units (f : Dom → Dom) (b : Block) : (updDom f b).units = b.units := rfl
@[simp] theorem updDom_mcs (f : Dom → Dom) (b : Block) : (updDom f b).mcs = b.mcs := rfl
@[simp] theorem updDom_mport (f : Dom → Dom) (b : Block) : (updDom f b).mport = b.mport := rfl
@[simp] theorem updDom_rgn (f : Dom → Dom) (b : Block) : (updDom f b).rgn = b.rgn := rfl
@[simp] theorem updDom_keys (f : Dom → Dom) (b : Block) : (updDom f b).keys = b.keys := rfl
@[simp] theorem updDom_lcs (f : Dom → Dom) (b : Block) : (updDom f b).lcs = b.lcs := rfl
@[simp] theorem updDom_lport (f : Dom → Dom) (b : Block) : (updDom f b).lport = b.lport := rfl
@[simp] theorem updDom_esb (f : Dom → Dom) (b : Block) : (updDom f b).esb = b.esb := rfl
@[simp] theorem updDom_fab (f : Dom → Dom) (b : Block) : (updDom f b).fab = b.fab := rfl
@[simp] theorem updDom_red (f : Dom → Dom) (b : Block) : (updDom f b).red = b.red := rfl
@[simp] theorem updDom_bay (f : Dom → Dom) (b : Block) : (updDom f b).bay = b.bay := rfl
@[simp] theorem updDom_fo (f : Dom → Dom) (b : Block) : (updDom f b).fo = b.fo := rfl
@[simp] theorem updDom_jnl (f : Dom → Dom) (b : Block) : (updDom f b).jnl = b.jnl := rfl
@[simp] theorem updDom_cm (f : Dom → Dom) (b : Block) : (updDom f b).cm = b.cm := rfl
@[simp] theorem updDom_otp (f : Dom → Dom) (b : Block) : (updDom f b).otp = b.otp := rfl
@[simp] theorem updDom_boot (f : Dom → Dom) (b : Block) : (updDom f b).boot = b.boot := rfl

@[simp] theorem updIde_time (f : Ide → Ide) (b : Block) : (updIde f b).time = b.time := rfl
@[simp] theorem updIde_freeCtr (f : Ide → Ide) (b : Block) : (updIde f b).freeCtr = b.freeCtr := rfl
@[simp] theorem updIde_tally (f : Ide → Ide) (b : Block) : (updIde f b).tally = b.tally := rfl
@[simp] theorem updIde_ring (f : Ide → Ide) (b : Block) : (updIde f b).ring = b.ring := rfl
@[simp] theorem updIde_inst (f : Ide → Ide) (b : Block) : (updIde f b).inst = b.inst := rfl
@[simp] theorem updIde_units (f : Ide → Ide) (b : Block) : (updIde f b).units = b.units := rfl
@[simp] theorem updIde_mcs (f : Ide → Ide) (b : Block) : (updIde f b).mcs = b.mcs := rfl
@[simp] theorem updIde_mport (f : Ide → Ide) (b : Block) : (updIde f b).mport = b.mport := rfl
@[simp] theorem updIde_rgn (f : Ide → Ide) (b : Block) : (updIde f b).rgn = b.rgn := rfl
@[simp] theorem updIde_keys (f : Ide → Ide) (b : Block) : (updIde f b).keys = b.keys := rfl
@[simp] theorem updIde_lcs (f : Ide → Ide) (b : Block) : (updIde f b).lcs = b.lcs := rfl
@[simp] theorem updIde_lport (f : Ide → Ide) (b : Block) : (updIde f b).lport = b.lport := rfl
@[simp] theorem updIde_esb (f : Ide → Ide) (b : Block) : (updIde f b).esb = b.esb := rfl
@[simp] theorem updIde_fab (f : Ide → Ide) (b : Block) : (updIde f b).fab = b.fab := rfl
@[simp] theorem updIde_red (f : Ide → Ide) (b : Block) : (updIde f b).red = b.red := rfl
@[simp] theorem updIde_bay (f : Ide → Ide) (b : Block) : (updIde f b).bay = b.bay := rfl
@[simp] theorem updIde_fo (f : Ide → Ide) (b : Block) : (updIde f b).fo = b.fo := rfl
@[simp] theorem updIde_jnl (f : Ide → Ide) (b : Block) : (updIde f b).jnl = b.jnl := rfl
@[simp] theorem updIde_cm (f : Ide → Ide) (b : Block) : (updIde f b).cm = b.cm := rfl
@[simp] theorem updIde_otp (f : Ide → Ide) (b : Block) : (updIde f b).otp = b.otp := rfl
@[simp] theorem updIde_boot (f : Ide → Ide) (b : Block) : (updIde f b).boot = b.boot := rfl

theorem getInst_updInst (i j : Nat) (f : Inst → Inst) (b : Block) (h : Sparse.wf {} b.inst = true) :
    getInst (updInst i f b) j = if j = i then f (getInst b i) else getInst b j := get_set h

theorem getUnits_updUnits (i j : Nat) (f : InstUnits → InstUnits) (b : Block) (h : Sparse.wf {} b.units = true) :
    getUnits (updUnits i f b) j = if j = i then f (getUnits b i) else getUnits b j := get_set h

theorem getMcs_updMcs (i j : Nat) (f : Mcs → Mcs) (b : Block) (h : Sparse.wf {} b.mcs = true) :
    getMcs (updMcs i f b) j = if j = i then f (getMcs b i) else getMcs b j := get_set h

theorem getPort_updPort (i j : Nat) (f : MPort → MPort) (b : Block) (h : Sparse.wf {} b.mport = true) :
    getPort (updPort i f b) j = if j = i then f (getPort b i) else getPort b j := get_set h

theorem getLcs_updLcs (i j : Nat) (f : Lcs → Lcs) (b : Block) (h : Sparse.wf {} b.lcs = true) :
    getLcs (updLcs i f b) j = if j = i then f (getLcs b i) else getLcs b j := get_set h

theorem getLport_updLport (i j : Nat) (f : LPort → LPort) (b : Block) (h : Sparse.wf {} b.lport = true) :
    getLport (updLport i f b) j = if j = i then f (getLport b i) else getLport b j := get_set h

theorem getEsb_updEsb (i j : Nat) (f : Esb → Esb) (b : Block) (h : Sparse.wf {} b.esb = true) :
    getEsb (updEsb i f b) j = if j = i then f (getEsb b i) else getEsb b j := get_set h

theorem getFab_updFab (i j : Nat) (f : FabInst → FabInst) (b : Block) (h : Sparse.wf {} b.fab.inst = true) :
    getFab (updFab i f b) j = if j = i then f (getFab b i) else getFab b j := get_set h

theorem getKey_updKey (i j : Nat) (f : KEntry → KEntry) (b : Block) (h : Sparse.wf {} b.keys.kreg = true) :
    getKey (updKey i f b) j = if j = i then f (getKey b i) else getKey b j := get_set h

theorem getCtx_updCtx (i j : Nat) (f : CtxRec → CtxRec) (b : Block) (h : Sparse.wf {} b.cm.ctxs = true) :
    getCtx (updCtx i f b) j = if j = i then f (getCtx b i) else getCtx b j := get_set h

theorem getQueue_updQueue (i j : Nat) (f : Queue → Queue) (b : Block) (h : Sparse.wf {} b.cm.queues = true) :
    getQueue (updQueue i f b) j = if j = i then f (getQueue b i) else getQueue b j := get_set h

theorem getFence_updFence (i j : Nat) (f : Fence → Fence) (b : Block) (h : Sparse.wf {} b.cm.fences = true) :
    getFence (updFence i f b) j = if j = i then f (getFence b i) else getFence b j := get_set h

theorem getSlot_updSlot (i j : Nat) (f : Slot → Slot) (b : Block) (h : Sparse.wf {} b.cm.slots = true) :
    getSlot (updSlot i f b) j = if j = i then f (getSlot b i) else getSlot b j := get_set h

theorem getTInst_updTInst (i j : Nat) (f : TInst → TInst) (b : Block) (h : Sparse.wf {} b.trust.tinst = true) :
    getTInst (updTInst i f b) j = if j = i then f (getTInst b i) else getTInst b j := get_set h

theorem getScu_updScu (i j : Nat) (f : ScuPage → ScuPage) (b : Block) (h : Sparse.wf {} b.keys.scu = true) :
    getScu (updScu i f b) j = if j = i then f (getScu b i) else getScu b j := get_set h

theorem getRgn_setRgn (i j : Nat) (r : Rgn) (b : Block) (h : Sparse.wf {} b.rgn.table = true) :
    getRgn (setRgn i r b) j = if j = i then r else getRgn b j := get_set h

theorem getWin_setWin (i j : Nat) (r : Win) (b : Block) (h : Sparse.wf {} b.fab.table = true) :
    getWin (setWin i r b) j = if j = i then r else getWin b j := get_set h

end Sys2Proof.Laws
end

