-- ==== Sys2Proof/Laws/BayFrame.lean ====
section
/-! SUPPORT. Frames: the shared operations that leave Bay as it is (R343 to R354). -/

namespace Sys2Proof.Laws
open Sys2Proof Sys2Proof.Machine

theorem foldl_bay {β : Type} {f : Block → β → Block} (h : ∀ b x, (f b x).bay = b.bay) (l : List β) (b : Block) : (l.foldl f b).bay = b.bay := by
  induction l generalizing b with
  | nil => rfl
  | cons x l ih => rw [List.foldl_cons, ih, h]

@[simp] theorem raise_bay (i line : Nat) (b : Block) : (raise i line b).bay = b.bay := by
  rfl

@[simp] theorem raisePrimary_bay (line : Nat) (b : Block) : (raisePrimary line b).bay = b.bay := by
  unfold raisePrimary; split <;> rfl

@[simp] theorem setEngSts_bay (e : Eng) (s : CmdSts) (b : Block) : (setEngSts e s b).bay = b.bay := by
  unfold setEngSts; split <;> rfl

@[simp] theorem jnlComplete_bay (seq : Nat) (st : Status) (result : Word) (b : Block) : (jnlComplete seq st result b).bay = b.bay := by
  rfl

@[simp] theorem updCmd_bay (src : Src) (f : Cmd → Cmd) (b : Block) : (updCmd src f b).bay = b.bay := by
  unfold updCmd; split <;> rfl

@[simp] theorem toRecord_bay (src : Src) (b : Block) : (toRecord src b).bay = b.bay := by
  unfold toRecord; (repeat' split) <;> first | rfl | simp

@[simp] theorem cmdEnd_bay (src : Src) (st : Status) (result : Word) (b : Block) : (cmdEnd src st result b).bay = b.bay := by
  unfold cmdEnd; dsimp only; (repeat' split) <;> first | rfl | simp

@[simp] theorem cmdDone_bay (e : Eng) (src : Src) (st : Status) (result : Word) (index : Nat) (b : Block) : (cmdDone e src st result index b).bay = b.bay := by
  unfold cmdDone; (repeat' split) <;> first | rfl | simp

@[simp] theorem doneCmd_bay (src : Src) (st : Status) (result : Word) (b : Block) : (doneCmd src st result b).bay = b.bay := by
  unfold doneCmd; simp

@[simp] theorem setJob_bay (k : Nat) (restore : Bool) (j : Option SealJob) (b : Block) : (setJob k restore j b).bay = b.bay := by
  rfl

@[simp] theorem stopSeal_bay (k : Nat) (restore : Bool) (st : Status) (b : Block) : (stopSeal k restore st b).bay = b.bay := by
  unfold stopSeal; split <;> simp

@[simp] theorem stopSeals_bay (p : Ctx → Bool) (st : Status) (b : Block) : (stopSeals p st b).bay = b.bay := by
  unfold stopSeals; exact foldl_bay (by intro b x; (repeat' split) <;> first | rfl | simp) _ _

@[simp] theorem count_bay (w : Who) (ev : Nat) (b : Block) : (count w ev b).bay = b.bay := by
  unfold count; dsimp only; split <;> rfl

@[simp] theorem hkDrive_bay (b : Block) : (hkDrive b).bay = b.bay := by
  rfl

@[simp] theorem hkPush_bay (c : HkCmd) (b : Block) : (hkPush c b).bay = b.bay := by
  rfl

@[simp] theorem ideStop_bay (stream : BitVec 8) (b : Block) : (ideStop stream b).bay = b.bay := by
  rfl

@[simp] theorem ideStopAll_bay (b : Block) : (ideStopAll b).bay = b.bay := by
  unfold ideStopAll; exact foldl_bay (fun b s => ideStop_bay s b) _ b

theorem jnlAccept_bay {src tag num op ctx token head n} {b c : Block} (h : jnlAccept src tag num op ctx token head b = some (n, c)) : c.bay = b.bay := by
  unfold jnlAccept at h
  dsimp only at h
  split at h
  · cases h; rfl
  · split at h
    · cases h; rfl
    · cases h

@[simp] theorem journalCmd_bay (src : Src) (b : Block) : (journalCmd src b).bay = b.bay := by
  unfold journalCmd
  split
  · rfl
  · dsimp only
    split
    · rfl
    · split
      · next h =>
        rw [updCmd_bay]
        split at h <;> exact jnlAccept_bay h
      · simp

@[simp] theorem endUnrun_bay (src : Src) (st : Status) (b : Block) : (endUnrun src st b).bay = b.bay := by
  unfold endUnrun; simp

@[simp] theorem giveFlits_bay (n vc f : Nat) (b : Block) : (giveFlits n vc f b).bay = b.bay := by
  rfl

@[simp] theorem dropHeld_bay (n plan coll : Nat) (b : Block) : (dropHeld n plan coll b).bay = b.bay := by
  unfold dropHeld; exact foldl_bay (fun _ _ => by simp) _ _

@[simp] theorem enqueue_bay (i : Nat) (s : Staged) (sh : Bool) (b : Block) : (enqueue i s sh b).bay = b.bay := by
  unfold enqueue; simp

theorem stageNow_bay {i s inject} {b c : Block} (h : stageNow i s inject b = some c) : c.bay = b.bay := by
  unfold stageNow at h
  split at h
  · cases h
  · split at h
    · cases h; exact count_bay ..
    · rw [Option.map_eq_some_iff] at h
      obtain ⟨sh, -, rfl⟩ := h
      simp

@[simp] theorem stageOrWait_bay (i : Nat) (s : Staged) (b : Block) : (stageOrWait i s b).bay = b.bay := by
  unfold stageOrWait
  split
  · rfl
  · split
    · next h => exact stageNow_bay h
    · rfl

@[simp] theorem updRef_bay (ty idx : Nat) (f : RefRec → RefRec) (b : Block) : (updRef ty idx f b).bay = b.bay := by
  rfl

@[simp] theorem freeRef_bay (ty idx : Nat) (b : Block) : (freeRef ty idx b).bay = b.bay := by
  rfl

@[simp] theorem reapPlan_bay (id : Nat) (b : Block) : (reapPlan id b).bay = b.bay := by
  unfold reapPlan; (repeat' split) <;> rfl

@[simp] theorem closeInv_bay (v : Inv) (st : Status) (b : Block) : (closeInv v st b).bay = b.bay := by
  unfold closeInv; dsimp only; simp only [reapPlan_bay, cmdDone_bay, count_bay]; rw [foldl_bay (fun _ _ => updLcs_bay ..)]

@[simp] theorem endInv_bay (k : Nat) (st : Status) (b : Block) : (endInv k st b).bay = b.bay := by
  unfold endInv
  split
  · rfl
  · dsimp only
    rw [closeInv_bay]
    split
    · rfl
    · dsimp only
      rw [foldl_bay (by intro b x; split <;> simp), foldl_bay (by intro b x; simp), foldl_bay (by
        intro b x
        exact foldl_bay (by intro b y; split <;> simp) _ _)]

@[simp] theorem stopSealOf_bay (src : Src) (st : Status) (b : Block) : (stopSealOf src st b).bay = b.bay := by
  unfold stopSealOf; exact foldl_bay (by intro b x; (repeat' split) <;> first | rfl | simp) _ _

@[simp] theorem killCommand_bay (q : Nat) (b : Block) : (killCommand q b).bay = b.bay := by
  unfold killCommand; (repeat' split) <;> first | rfl | simp [foldl_bay]

@[simp] theorem abortQueue_bay (q : Nat) (b : Block) : (abortQueue q b).bay = b.bay := by
  unfold abortQueue; simp

@[simp] theorem unpin_bay (k : Nat) (b : Block) : (unpin k b).bay = b.bay := by
  rfl

@[simp] theorem scuEnd_bay (p : Nat) (st : Status) (b : Block) : (scuEnd p st b).bay = b.bay := by
  unfold scuEnd; dsimp only; split <;> rfl

@[simp] theorem scuZeroPage_bay (p : Nat) (st : Status) (b : Block) : (scuZeroPage p st b).bay = b.bay := by
  unfold scuZeroPage; split <;> simp

@[simp] theorem dyingRef_bay (ty idx : Nat) (b : Block) : (dyingRef ty idx b).bay = b.bay := by
  rfl

@[simp] theorem dieQueue_bay (q : Nat) (b : Block) : (dieQueue q b).bay = b.bay := by
  unfold dieQueue; dsimp only; (repeat' split) <;> first | rfl | simp

@[simp] theorem trace_bay (i : Nat) (rec : TraceRec) (b : Block) : (trace i rec b).bay = b.bay := by
  unfold trace; dsimp only; split <;> rfl

@[simp] theorem tracePrimary_bay (rec : TraceRec) (b : Block) : (tracePrimary rec b).bay = b.bay := by
  unfold tracePrimary; split <;> simp

@[simp] theorem regionState_bay (k : Nat) (st : RgnState) (b : Block) : (regionState k st b).bay = b.bay := by
  unfold regionState; split <;> simp

@[simp] theorem endSpill_bay (k : Nat) (b : Block) : (endSpill k b).bay = b.bay := by
  unfold endSpill dropSpill
  refine foldl_bay (fun b x => ?_) _ _
  rw [updEsb_bay, foldl_bay]
  · rfl
  · intro b s
    unfold dropReads
    rw [foldl_bay (fun _ _ => updPort_bay ..), count_bay]

@[simp] theorem startRetire_bay (i : Nat) (src : Option Src) (b : Block) : (startRetire i src b).bay = b.bay := by
  unfold startRetire; simp

@[simp] theorem startDelete_bay (i : Nat) (src : Option Src) (b : Block) : (startDelete i src b).bay = b.bay := by
  unfold startDelete; split <;> rfl

@[simp] theorem recomputeCv_bay (b : Block) : (recomputeCv b).bay = b.bay := by
  rfl

@[simp] theorem ringSendAll_bay (i : Nat) (p : Nat → Inst → Bool) (m : RingMsg) (b : Block) : (ringSendAll i p m b).bay = b.bay := by
  rfl

@[simp] theorem invalidateKey_bay (k : Nat) (b : Block) : (invalidateKey k b).bay = b.bay := by
  unfold invalidateKey; dsimp only; (repeat' split) <;> rfl

@[simp] theorem ctlSend_bay (dst : Pkg) (g : Nat) (line : Line) (tag : Tag) (b : Block) : (ctlSend dst g line tag b).bay = b.bay := by
  unfold ctlSend; split <;> simp

@[simp] theorem tellSubs_bay (k : Nat) (st : Status) (fails : Nat) (b : Block) : (tellSubs k st fails b).bay = b.bay := by
  unfold tellSubs; exact foldl_bay (fun _ _ => by simp) _ _

@[simp] theorem dieFence_bay (k : Nat) (b : Block) : (dieFence k b).bay = b.bay := by
  unfold dieFence; simp [foldl_bay]

@[simp] theorem objectDying_bay (ty i : Nat) (b : Block) : (objectDying ty i b).bay = b.bay := by
  unfold objectDying; split <;> simp

@[simp] theorem leaveRun_bay (tag : Tag) (b : Block) : (leaveRun tag b).bay = b.bay := by
  unfold leaveRun; dsimp only; split <;> first | rfl | simp [foldl_bay]

@[simp] theorem tenantTo_bay (tag : Tag) (st : TState) (b : Block) : (tenantTo tag st b).bay = b.bay := by
  unfold tenantTo; split <;> simp

@[simp] theorem abortTenants_bay (b : Block) : (abortTenants b).bay = b.bay := by
  unfold abortTenants; exact foldl_bay (fun _ _ => by simp) _ _

@[simp] theorem ocPush_bay (i port : Nat) (c : LtOc) (b : Block) : (ocPush i port c b).bay = b.bay := by
  rfl

@[simp] theorem ocPlain_bay (i port : Nat) (id : BitVec 12) (op : Nat) (st : Status) (b : Block) : (ocPlain i port id op st b).bay = b.bay := by
  rfl

@[simp] theorem killHeld_bay (i : Nat) (p : LtOr → Bool) (st atom : Status) (b : Block) : (killHeld i p st atom b).bay = b.bay := by
  unfold killHeld; exact foldl_bay (by intro b x; split <;> rfl) _ _

@[simp] theorem updOut_bay (i e : Nat) (f : Outst → Outst) (b : Block) : (updOut i e f b).bay = b.bay := by
  rfl

@[simp] theorem addTally_bay (ctx : Ctx) (st : Status) (b : Block) : (addTally ctx st b).bay = b.bay := by
  unfold addTally; split <;> rfl

@[simp] theorem completeReq_bay (i e : Nat) (st : Status) (line : Line) (poison : Bool) (sorrel : BitVec 32) (sorigin : Bool) (b : Block) : (completeReq i e st line poison sorrel sorigin b).bay = b.bay := by
  unfold completeReq; dsimp only; (repeat' split) <;> first | rfl | simp

@[simp] theorem killReqs_bay (p : Outst → Bool) (st : Status) (b : Block) : (killReqs p st b).bay = b.bay := by
  unfold killReqs; simp [foldl_bay]

@[simp] theorem abortFabric_bay (b : Block) : (abortFabric b).bay = b.bay := by
  unfold abortFabric; simp [foldl_bay]

@[simp] theorem floodAbort_bay (cause : Status) (b : Block) : (floodAbort cause b).bay = b.bay := by
  unfold floodAbort; exact foldl_bay (by intro b x; split <;> rfl) _ _

@[simp] theorem abortTold_bay (cause : Status) (origin : Pkg) (b : Block) : (abortTold cause origin b).bay = b.bay := by
  unfold abortTold; dsimp only; (repeat' split) <;> first | rfl | simp

end Sys2Proof.Laws
end

