-- ==== Sys2Proof/Laws/Cipher.lean ====
section
/-! SUPPORT. Lengths of what the ciphers give, and the fields of a sideband (R80 to R85, R246). -/

namespace Sys2Proof.Laws
open Sys2Proof.Machine

/-- A number as `n` little-endian bytes. -/
theorem leBytes_length : ∀ n v, (leBytes n v).length = n
  | 0, _ => rfl
  | n + 1, v => by simp [leBytes, leBytes_length n]

/-- The exclusive or of two byte strings. -/
theorem xorBytes_length (a b : Bytes) : (xorBytes a b).length = min a.length b.length := by simp [xorBytes]

/-- ShiftRows gives a block. -/
theorem shiftRows_length (s : Bytes) : (shiftRows s).length = 16 := by simp [shiftRows]

/-- The rounds of AES give a block. -/
theorem aesRounds_length : ∀ (ks : List Bytes) (s : Bytes), ks ≠ [] → (∀ k ∈ ks, k.length = 16) → (aesRounds ks s).length = 16
  | [k], s, _, h => by
    rw [aesRounds, xorBytes_length, shiftRows_length, h k (by simp)]
    rfl
  | k :: k2 :: ks, s, _, h => by
    rw [aesRounds]
    · exact aesRounds_length _ _ (by simp) (fun x hx => h x (by simp at hx ⊢; tauto))
    · simp

/-- A string of `f` pieces of `n` bytes is cut into them. -/
theorem chunks_length {n : Nat} (hn : 0 < n) : ∀ (f : Nat) (l : Bytes), l.length = n * f → ((chunksOf n f l).length = f ∧ ∀ k ∈ chunksOf n f l, k.length = n)
  | 0, l, _ => by simp [chunksOf]
  | f + 1, l, h => by
    have hl : l.length = n * f + n := by rw [h]; ring
    have hne : l.isEmpty = false := by
      cases l with
      | nil => simp at hl; omega
      | cons _ _ => rfl
    have ih := chunks_length hn f (l.drop n) (by rw [List.length_drop, hl]; omega)
    simp only [chunksOf, hne, Bool.false_eq_true, if_false]
    refine ⟨by simp [ih.1], fun k hk => ?_⟩
    rcases List.mem_cons.mp hk with rfl | hk
    · rw [List.length_take, hl]; omega
    · exact ih.2 k hk

/-- The key schedule: as many words as asked for, of four bytes. -/
theorem expand_length {nk : Nat} (hnk : 0 < nk) : ∀ (f i : Nat) (rc : Byte) (ws : List Bytes), nk ≤ ws.length → (∀ w ∈ ws, w.length = 4) →
    ((aesExpand nk f i rc ws).length = f + ws.length ∧ ∀ w ∈ aesExpand nk f i rc ws, w.length = 4)
  | 0, i, rc, ws, _, h => by simp [aesExpand]; exact h
  | f + 1, i, rc, ws, hl, h => by
    have g : ∀ k, k < ws.length → (ws.getD k []).length = 4 := by
      intro k hk
      rw [List.getD_eq_getElem _ _ hk]
      exact h _ (List.getElem_mem hk)
    have h0 := g 0 (by omega)
    have h1 := g (nk - 1) (by omega)
    rw [aesExpand]
    obtain ⟨h2, h3⟩ := expand_length hnk f (i + 1) (if i % nk = 0 then xtimeByte rc else rc)
      (xorBytes (ws.getD (nk - 1) []) (if i % nk = 0 then xorBytes (((ws.getD 0 []).drop 1 ++ (ws.getD 0 []).take 1).map subByte) [rc, 0, 0, 0]
        else if nk > 6 ∧ i % nk = 4 then (ws.getD 0 []).map subByte else ws.getD 0 []) :: ws) (by simp; omega) (by
        intro w hw
        rcases List.mem_cons.mp hw with rfl | hw
        · rw [xorBytes_length, h1]
          split
          · simp only [xorBytes_length, List.length_map, List.length_append, List.length_drop, List.length_take, h0, List.length_cons, List.length_nil]; rfl
          · split <;> simp only [List.length_map, h0] <;> rfl
        · exact h w hw)
    exact ⟨by rw [h2]; simp; omega, h3⟩

/-- AES-256 has 15 round keys of a block. -/
theorem roundKeys_length {key : Bytes} (h : key.length = 32) : (aesRoundKeys key).length = 15 ∧ ∀ k ∈ aesRoundKeys key, k.length = 16 := by
  unfold aesRoundKeys
  dsimp only
  rw [h]
  have hc := chunks_length (n := 4) (by decide) 8 key (by rw [h])
  have he := expand_length (nk := 8) (by decide) (4 * (8 + 7) - 8) 8 1 (chunksOf 4 8 key).reverse (by rw [List.length_reverse, hc.1]) (fun w hw => hc.2 w (List.mem_reverse.mp hw))
  have hfl : ∀ l : List Bytes, (∀ w ∈ l, w.length = 4) → l.flatten.length = 4 * l.length := by
    intro l
    induction l with
    | nil => simp
    | cons w l ih =>
      intro hw
      rw [List.flatten_cons, List.length_append, ih (fun x hx => hw x (by simp [hx])), hw w (by simp), List.length_cons]
      omega
  exact chunks_length (n := 16) (by decide) 15 _ (by
    rw [hfl _ (fun w hw => he.2 w (List.mem_reverse.mp hw)), List.length_reverse, he.1, List.length_reverse, hc.1])

/-- AES gives a block under a key of 32 bytes. -/
theorem aesEncWith_length {key : Bytes} (h : key.length = 32) (b : Bytes) : (aesEncWith (aesRoundKeys key) b).length = 16 := by
  obtain ⟨h1, h2⟩ := roundKeys_length h
  unfold aesEncWith
  split
  · next hk => rw [hk] at h1; cases h1
  · next k ks hk =>
    rw [hk] at h1 h2
    exact aesRounds_length _ _ (by intro e; subst e; simp at h1) (fun x hx => h2 x (by simp [hx]))

/-- The pads of a line (R84) cover it under a key of 32 bytes. -/
theorem pads_length {kenc : Bytes} (h : kenc.length = 32) (t : Tuple) : (padBytes kenc t).length = 128 := by
  unfold padBytes
  simp only [List.length_flatMap, aesEncWith_length h]
  rfl

/-- The keystream of `n` blocks. -/
theorem gctr_length {key : Bytes} (h : key.length = 32) (hi : Nat) : ∀ n c, (gctr (aesRoundKeys key) hi n c).length = 16 * n
  | 0, _ => rfl
  | n + 1, c => by rw [gctr, List.length_append, aesEncWith_length h, gctr_length h hi n (c + 1)]; omega

/-- GCM keeps the length of a text. -/
theorem gcmCrypt_length {key : Bytes} (h : key.length = 32) (iv text : Bytes) : (gcmCrypt key iv text).length = text.length := by
  unfold gcmCrypt
  simp only [xorBytes_length, gctr_length h]
  omega

/-- A GCM tag has 16 bytes. -/
theorem gcmTag_length {key : Bytes} (h : key.length = 32) (iv aad ct : Bytes) : (gcmTag key iv aad ct).length = 16 := by
  unfold gcmTag
  simp only [xorBytes_length, aesEncWith_length h, ghash, beBytes, List.length_reverse, leBytes_length]
  rfl

/-- Keccak keeps its 25 lanes. -/
theorem keccak_length : ∀ (l : List Nat) (a : List Nat), a.length = 25 → (l.foldl keccakRound a).length = 25
  | [], a, h => h
  | rc :: l, a, _ => keccak_length l _ (by simp [keccakRound])

/-- Absorbing keeps the 25 lanes. -/
theorem absorb_length : ∀ (l : List Bytes) (a : List Nat), a.length = 25 → (l.foldl keccakAbsorb a).length = 25
  | [], _, h => h
  | x :: l, a, _ => absorb_length l _ (by unfold keccakAbsorb keccakF; exact keccak_length _ _ (by simp))

/-- Squeezing gives as many blocks as asked for. -/
theorem squeeze_length {rate : Nat} (hr : rate ≤ 200) : ∀ (n : Nat) (a : List Nat), a.length = 25 → (keccakSqueeze rate n a).length = rate * n
  | 0, _, _ => rfl
  | n + 1, a, h => by
    have hb : (a.flatMap (leBytes 8)).length = 200 := by
      simp only [List.length_flatMap, leBytes_length, List.map_const', List.sum_replicate, h]; rfl
    rw [keccakSqueeze, List.length_append, List.length_take, hb, squeeze_length hr n _ (by unfold keccakF; exact keccak_length _ _ h)]
    rw [Nat.min_eq_left hr]; ring

/-- A sponge gives as many bytes as asked for. -/
theorem sponge_length {rate : Nat} (h0 : 0 < rate) (hr : rate ≤ 200) (s : Byte) (m : Bytes) (out : Nat) : (keccakSponge rate s m out).length = out := by
  unfold keccakSponge
  dsimp only
  rw [List.length_take, squeeze_length hr _ _ (absorb_length _ _ (List.length_replicate ..)), Nat.min_eq_left]
  have := Nat.div_add_mod (out + rate - 1) rate
  have := Nat.mod_lt (out + rate - 1) h0
  omega

/-- The encryption key that a region key derives (R80) has 32 bytes. -/
theorem kEnc_length (key : Key) : (kEnc key).length = 32 := sponge_length (by decide) (by decide) ..

/-- A mode is two bits. -/
theorem modeNum_lt (m : Mode) : modeNum m < 4 := by cases m <;> decide

/-- The fields of a sideband (Table 3.5) read back as they were put in. -/
theorem sb_fields (mac : Word) (so : BitVec 32) (g : Nat) (p o : Bool) (m : Mode) (x : Bool) (hg : g < 256) :
    sbMac (sideband mac so g p o m x) = mac ∧ sbSorrel (sideband mac so g p o m x) = so ∧ sbGen (sideband mac so g p o m x) = g
    ∧ sbPoison (sideband mac so g p o m x) = p ∧ sbMode (sideband mac so g p o m x) = modeNum m := by
  have hm := mac.isLt
  have hs := so.isLt
  have hp := Bool.toNat_lt p
  have ho := Bool.toNat_lt o
  have hx := Bool.toNat_lt x
  have hn := modeNum_lt m
  have hv : (sideband mac so g p o m x).toNat = mac.toNat + so.toNat * 2 ^ 64 + g * 2 ^ 96 + p.toNat * 2 ^ 104 + o.toNat * 2 ^ 105 + modeNum m * 2 ^ 106 + x.toNat * 2 ^ 108 := by
    unfold sideband
    rw [BitVec.toNat_ofNat]
    simp only [Nat.shiftLeft_eq, Nat.mod_eq_of_lt hg]
    rw [Nat.mod_eq_of_lt]
    omega
  refine ⟨?_, ?_, ?_, ?_, ?_⟩
  · apply BitVec.eq_of_toNat_eq
    simp only [sbMac, fieldNat, hv, Nat.shiftRight_eq_div_pow, BitVec.toNat_ofNat]
    omega
  · apply BitVec.eq_of_toNat_eq
    simp only [sbSorrel, fieldNat, hv, Nat.shiftRight_eq_div_pow, BitVec.toNat_ofNat]
    omega
  · simp only [sbGen, fieldNat, hv, Nat.shiftRight_eq_div_pow]
    omega
  · simp only [sbPoison, fieldBit, BitVec.getLsbD, hv, Nat.testBit_eq_decide_div_mod_eq]
    cases p
    · simp only [Bool.toNat_false, decide_eq_false_iff_not]; omega
    · simp only [Bool.toNat_true, decide_eq_true_eq]; omega
  · simp only [sbMode, fieldNat, hv, Nat.shiftRight_eq_div_pow]
    omega

end Sys2Proof.Laws
end

