-- ==== Sys2Proof/Laws/Commands.lean ====
section
/-! SUPPORT. When a command is taken and what it then does: one lemma for each of the shared operations that judge a command
before its own effect. A prover rewrites with these and never unfolds the judging. -/

namespace Sys2Proof.Laws
open Sys2Proof Sys2Proof.Machine

/-- A queue's or the kernel port's ready command runs its body on the block that `takenReady` gives. -/
theorem startReady_eq {src op more f b b'} (h : takenReady src op more b = some b') : startReady src op more f b = f b' := by
  unfold takenReady at h
  unfold startReady
  cases hc : srcCmd b src with
  | none => simp [hc] at h
  | some c =>
    simp only [hc] at h ⊢
    split at h
    · rename_i hh
      rw [if_pos hh]
      split at h
      · rename_i ho; simp only [ho]; cases h; rfl
      · rename_i e ho; simp only [ho, arbStart]
        cases hp : arbPick (engineHeads b e) b.cm.drr (Sparse.get {} b.cm.arb e) with
        | none => rw [hp] at h; cases h
        | some x =>
          rw [hp] at h
          dsimp only at h ⊢
          split at h
          · rename_i hw; rw [if_pos hw]; cases h; rfl
          · cases h
    · cases h

/-- A command of an engine runs its body on the block that `taken` gives, in either form. -/
theorem startCmd_eq {e src op sub f b b'} (h : taken e src op sub b = some b') : startCmd e src op sub f b = f b' := by
  cases src with
  | reg z w =>
    unfold taken takenReg at h
    simp only [] at h
    split at h
    · rename_i h1
      simp only [Bool.and_eq_true, bne_iff_ne, ne_eq, Option.isNone_iff_eq_none] at h1
      obtain ⟨⟨hr, hz⟩, he⟩ := h1
      split at h
      · rename_i h2
        simp only [Bool.and_eq_true, Bool.not_eq_true'] at h2
        obtain ⟨⟨hp, hb⟩, hl⟩ := h2
        split at h
        · rename_i q b1 hj
          cases h
          simp only [startCmd, he, if_false, zcpDo, hr, if_true, hz, hp, Bool.not_true, hb, hl, hj, Bool.false_eq_true, if_false, reduceCtorEq]
        · cases h
      · cases h
    · cases h
  | queue q => exact startReady_eq h
  | kport => exact startReady_eq h

/-- A command without a register form runs its body on the block that `takenLocal` gives. -/
theorem startLocal_eq {src op f b b'} (h : takenLocal src op b = some b') : startLocal src op f b = f b' := by
  cases src with
  | reg z w => simp [takenLocal] at h
  | queue q => exact startReady_eq h
  | kport => exact startReady_eq h
/-- A served ZCP write is answered OK and acts. -/
theorem zcpDo_eq {b z w f} (h : served b z w) : zcpDo z true w f b = f (zcpRsp z.inst .ok b) := by
  simp [zcpDo, h.1, h.2]
/-- A mailbox command that is taken acts on its job. -/
theorem mbCommand_eq {m code who f b j b'} (h : mailTaken m code who b = some (j, b')) : mbCommand m code who f b = f j b' := by
  unfold mailTaken at h
  split at h
  · rename_i h1
    simp only [Bool.and_eq_true, Bool.not_eq_true', Bool.or_eq_true, bne_iff_ne, ne_eq] at h1
    obtain ⟨⟨⟨hh, hm⟩, hw⟩, ha⟩ := h1
    split at h
    · rename_i q b1 hj
      cases h
      have : (m.attr == Attr.m && !mgmtSess b m.sess) = false := by
        rcases ha with ha | ha
        · simp [ha]
        · simp [ha]
      simp only [mbCommand, hh, hm, hw, hj, this, Bool.not_true, Bool.or_false, Bool.false_eq_true, if_false]
    · cases h
  · cases h
/-- A domain message that is heard acts. -/
theorem domTake_eq {h known f b b'} (hh : heard h known b = some b') : domTake h known f b = f b' := by
  unfold heard at hh
  by_cases hc : heardOk h known b = true
  · rw [if_pos hc] at hh
    cases hh
    unfold heardOk at hc
    simp only [] at hc
    rw [Bool.and_eq_true] at hc
    unfold domTake
    rw [if_neg (by simp [hc.1])]
    simp only []
    rw [if_pos hc.2]
  · rw [if_neg hc] at hh; cases hh
/-- The responder answers. -/
theorem spdm_eq {f b} (h : answering b) : spdm f b = f b := by
  simp [spdm, h.1, h.2]
/-- A request in an open session acts in it. -/
theorem inSession_eq {r x f b} (h : answering b) (hs : r.sess.bind (openSess b (some r.tr)) = some x) : inSession r f b = f x b := by
  simp [inSession, spdm_eq h, hs]
/-- A vendor-defined request acts in its session. -/
theorem vendor_eq {r x f b} (h : speaksIn r x b) : vendor r f b = f x b := by
  simp [vendor, inSession_eq h.1 h.2.1, h.2.2]
/-- A TDISP request over DOE acts in its session. -/
theorem tdisp_eq {r x f b} (h : speaksIn r x b) (hd : r.tr = .doe) : tdisp r f b = f x b := by
  simp [tdisp, vendor_eq h, hd]
/-- Two changes of an M-port that agree on it are one. -/
theorem updPort_congr {n f g b} (h : f (getPort b n) = g (getPort b n)) : updPort n f b = updPort n g b := by
  unfold updPort Sparse.upd; unfold getPort at h; rw [h]
/-- Two changes of a fabric port that agree on it are one. -/
theorem updLport_congr {n f g b} (h : f (getLport b n) = g (getLport b n)) : updLport n f b = updLport n g b := by
  unfold updLport Sparse.upd; unfold getLport at h; rw [h]
/-- The oldest message on the ring is taken by the instance that it is for, where a way is open. -/
theorem ringTake_head {e p b rest} (h : b.ring = e :: rest) (hp : p e.msg = true) (hw : (ringWay b e.src e.dst).isSome = true) :
    ringTake e.dst p b = some (e, { b with ring := rest }) := by
  simp [ringTake, h, ringFirst, hp, hw]
/-- A sealed message that stands first on the ring, with a way open and all its transfers there and good, acts. -/
theorem ringArrive_head {r p f b e rest} (h : b.ring = e :: rest) (hd : e.dst = r.inst) (hp : p e.msg = true)
    (hw : (ringWay b e.src e.dst).isSome = true) (hg : ringGood b r.inst r.data = true) (hl : r.data.length = ringParts e.msg) :
    ringArrive r p f b = f e.msg (updInst r.inst (fun s => { s with prRx := r.data, ringRx := ringSeen s.ringRx r.data }) { b with ring := rest }) := by
  have hg' : ringGood { b with ring := rest } r.inst r.data = true := hg
  unfold ringArrive
  rw [← hd, ringTake_head h hp hw, hd]
  simp only [hg', hl, if_true]
/-- A sealed message that stands first on the ring and fails its seal check is discarded. -/
theorem ringArrive_bad {r p f b e rest} (h : b.ring = e :: rest) (hd : e.dst = r.inst) (hp : p e.msg = true)
    (hw : (ringWay b e.src e.dst).isSome = true) (hg : ringGood b r.inst r.data = false) :
    ringArrive r p f b = sealFail r.inst (updInst r.inst (fun s => { s with prRx := r.data }) { b with ring := rest }) := by
  have hg' : ringGood { b with ring := rest } r.inst r.data = false := hg
  unfold ringArrive
  rw [← hd, ringTake_head h hp hw, hd]
  simp only [hg', Bool.false_eq_true, if_false]
/-- A sealed message that is heard acts. -/
theorem ringArrive_eq {r p f b e b'} (h : ringHeard r p b = some (e, b')) : ringArrive r p f b = f e.msg b' := by
  unfold ringHeard at h
  unfold ringArrive
  cases hr : ringTake r.inst p b with
  | none => rw [hr] at h; cases h
  | some x =>
    simp only [hr] at h ⊢
    split at h
    · next hg =>
      cases h
      simp only [Bool.and_eq_true, decide_eq_true_eq] at hg
      simp only [hg.1, hg.2, if_true]
    · cases h

end Sys2Proof.Laws
end

