-- ==== Sys2Proof/Laws/Link.lean ====
section
/-! SUPPORT. Flits on LL_RX: what a beat of one flit does to an LCS whose stream is framed. -/

namespace Sys2Proof.Laws
open Sys2Proof.Machine

/-- The low bits of a widened vector are the vector. -/
theorem ofNat_fieldNat_setWidth {w w' : Nat} (f : BitVec (w + 1)) (h : w + 1 ≤ w') : BitVec.ofNat (w + 1) (fieldNat (f.setWidth w') w 0) = f := by
  apply BitVec.eq_of_toNat_eq
  have h1 : f.toNat < 2 ^ w' := Nat.lt_of_lt_of_le f.isLt (Nat.pow_le_pow_right (by decide) h)
  simp [fieldNat, Nat.mod_eq_of_lt h1]

/-- A packet of one flit goes in one beat, whose slot 0 is that flit. -/
theorem llBeats_one (vc : Nat) (f : Flit) (hv : vc < 8) :
    ∃ x, llBeats 2 vc [f] = [x] ∧ x.v = 1 ∧ slotFlit x 0 = { sop := true, eop := true, vc := vc, flit := f } := by
  refine ⟨⟨1, 1, 1, BitVec.ofNat 6 vc, f.setWidth 1024⟩, ?_, rfl, ?_⟩
  · have h1 : vc % 8 = vc := Nat.mod_eq_of_lt hv
    simp [llBeats, chunksOf, h1, List.zipIdx]
  · have h1 : vc % 64 % 8 = vc := by omega
    have h2 : fieldNat (BitVec.ofNat 6 vc) 2 0 = vc := by simp [fieldNat, h1]
    simp only [slotFlit, Nat.mul_zero, Nat.zero_add, h2, ofNat_fieldNat_setWidth f (by decide : 511 + 1 ≤ 1024)]
    rfl

/-- A beat that carries one flit is that flit taken by the stream. -/
theorem rxAny_beat {b : Block} {n : Nat} {x : LlBeat} {hw : HwFault} (hp : (getLcs b n).present = true)
    (hr : (getInst b (getLcs b n).inst).released = true) (hu : (getLport b n).up = true) (hv : x.v = 1) :
    rxAny n [x] hw b = rxOne n hw b (slotFlit x 0) := by
  simp [rxAny, hp, hr, hu, rxBeat, hv]

/-- The first flit of a framed packet, with credit, is held; with EOP the packet is whole. -/
theorem rxOne_first {b : Block} {n : Nat} {f : RxFlit} {hw : HwFault} (hm : (getLport b n).mode = false)
    (ho : (getLport b n).rxOpen = none) (hs : f.sop = true) (hn : (getLport b n).rxStray.contains f.vc = false)
    (hc : 0 < (getLport b n).rxGrant.getD f.vc 0) : rxOne n hw b f = rxJoin n [] f hw b := by
  simp only [rxOne, hm, Bool.false_eq_true, if_false, rxFramed, ho, hs, hn, hc, decide_true, Bool.not_true]
  simp

/-- A later flit of the open packet, with credit, joins it. -/
theorem rxOne_next {b : Block} {n : Nat} {f : RxFlit} {hw : HwFault} {fl : List Flit} (hm : (getLport b n).mode = false)
    (ho : (getLport b n).rxOpen = some (f.vc, fl)) (hs : f.sop = false) (hl : fl.length < 9)
    (hc : 0 < (getLport b n).rxGrant.getD f.vc 0) : rxOne n hw b f = rxJoin n fl f hw b := by
  simp only [rxOne, hm, Bool.false_eq_true, if_false, rxFramed, ho, hs, hc, decide_true, Bool.not_true]
  simp [Nat.not_le_of_lt hl]

/-- A framed packet of one flit is taken whole. -/
theorem rxAny_one {b : Block} {n vc : Nat} {f : Flit} {hw : HwFault} (hp : (getLcs b n).present = true)
    (hr : (getInst b (getLcs b n).inst).released = true) (hu : (getLport b n).up = true) (hm : (getLport b n).mode = false)
    (ho : (getLport b n).rxOpen = none) (hn : (getLport b n).rxStray.contains vc = false) (hv : vc < 8)
    (hc : 0 < (getLport b n).rxGrant.getD vc 0) :
    rxAny n (llBeats 2 vc [f]) hw b = rxPacket n vc [f] hw (updLport n (fun x => { x with rxOpen := none }) (holdFlit n vc b)) := by
  obtain ⟨x, hx, h1, h2⟩ := llBeats_one vc f hv
  rw [hx, rxAny_beat hp hr hu h1, h2, rxOne_first hm ho rfl hn hc]
  rfl

end Sys2Proof.Laws
end

