-- ==== Sys2Proof/Laws/Ring.lean ====
section
/-! SUPPORT. The seal of the package ring (R255): what a source seals, a receiver with its key accepts while the SEQ numbers rise. -/

namespace Sys2Proof.Laws
open Sys2Proof.Machine

/-- A number that `n` bytes hold is read back. -/
theorem leNat_leBytes : ∀ n v, leNat (leBytes n v) = v % 256 ^ n
  | 0, v => by simp [leBytes, leNat, Nat.mod_one]
  | n + 1, v => by
    have h : (BitVec.ofNat 8 v).toNat = v % 256 := BitVec.toNat_ofNat ..
    rw [leBytes, leNat, leNat_leBytes n, h, pow_succ, Nat.mul_comm (256 ^ n) 256, Nat.mod_mul]

/-- The parts of a sealed transfer (Table 9.7): its header, 40 bytes encrypted, and 12 bytes of tag. -/
theorem ringSeal_parts (key : Key) (src dst seq type : Nat) {payload : Bytes} (h : payload.length = 40) :
    ∃ ct tag : Bytes, ct.length = 40 ∧ tag.length = 12
      ∧ ringSeal key src dst seq type payload = [BitVec.ofNat 8 src, BitVec.ofNat 8 dst, BitVec.ofNat 8 type, 0] ++ leBytes 8 seq ++ ct ++ tag
      ∧ tag = (gcmTag (keyBytes key) (ringIv ([BitVec.ofNat 8 src, BitVec.ofNat 8 dst, BitVec.ofNat 8 type, 0] ++ leBytes 8 seq))
          ([BitVec.ofNat 8 src, BitVec.ofNat 8 dst, BitVec.ofNat 8 type, 0] ++ leBytes 8 seq) ct).take 12 := by
  have hk : (keyBytes key).length = 32 := leBytes_length 32 _
  refine ⟨_, _, ?_, ?_, rfl, rfl⟩
  · rw [gcmCrypt_length hk, h]
  · rw [List.length_take, gcmTag_length hk]; rfl

/-- A sealed transfer passes the check of a receiver with the key that has accepted only lower SEQ numbers from its source. -/
theorem ringOpens_seal {key : Key} {rx : Sparse Nat} {src dst seq type : Nat} {payload : Bytes} {t : List Bytes} (hs : src < 256)
    (hq : seq < 2 ^ 64) (hr : Sparse.get 0 rx src < seq) (hp : payload.length = 40) (ht : ringOpens key (Sparse.set 0 rx src seq) t = true) :
    ringOpens key rx (ringSeal key src dst seq type payload :: t) = true := by
  obtain ⟨ct, tag, hc, hg, e, et⟩ := ringSeal_parts key src dst seq type hp
  have hl : (leBytes 8 seq).length = 8 := leBytes_length 8 seq
  have hn : leNat (leBytes 8 seq) = seq := by rw [leNat_leBytes, Nat.mod_eq_of_lt (by rw [show (256 : Nat) ^ 8 = 2 ^ 64 from rfl]; exact hq)]
  have hb : (BitVec.ofNat 8 src).toNat = src := by rw [BitVec.toNat_ofNat]; exact Nat.mod_eq_of_lt hs
  generalize hH : [BitVec.ofNat 8 src, BitVec.ofNat 8 dst, BitVec.ofNat 8 type, (0 : Byte)] ++ leBytes 8 seq = hdr at e et
  have hh : hdr.length = 12 := by rw [← hH, List.length_append, hl]; rfl
  have h0 : (hdr ++ ct ++ tag).headD 0 = BitVec.ofNat 8 src := by rw [← hH]; rfl
  have h1 : ((hdr ++ ct ++ tag).drop 4).take 8 = leBytes 8 seq := by
    rw [← hH]
    show ((leBytes 8 seq ++ ct ++ tag)).take 8 = _
    rw [List.append_assoc, List.take_append_of_le_length (by omega), List.take_of_length_le (by omega)]
  have h2 : (hdr ++ ct ++ tag).take 12 = hdr := by
    rw [List.append_assoc, List.take_append_of_le_length (by omega), List.take_of_length_le (by omega)]
  have h3 : ((hdr ++ ct ++ tag).drop 12).take 40 = ct := by
    rw [List.append_assoc, List.drop_append_of_le_length (by omega), List.drop_of_length_le (by omega), List.nil_append,
      List.take_append_of_le_length (by omega), List.take_of_length_le (by omega)]
  have h4 : (hdr ++ ct ++ tag).drop 52 = tag := by
    rw [List.drop_append_of_le_length (by rw [List.length_append]; omega), List.drop_of_length_le (by rw [List.length_append]; omega), List.nil_append]
  have h5 : (hdr ++ ct ++ tag).length = 64 := by rw [List.length_append, List.length_append]; omega
  rw [e, ringOpens]
  simp only [h0, h1, h2, h3, h4, h5, hb, hn, hr, ht, ← et, decide_true, beq_self_eq_true, Bool.and_self]

/-- Transfers sealed under rising SEQ numbers pass. -/
theorem ringOpens_seals {key : Key} {src dst type : Nat} {payload : Nat → Bytes} (hs : src < 256) (hp : ∀ k, (payload k).length = 40) :
    ∀ (n k seq : Nat) (rx : Sparse Nat), seq + k + n ≤ 2 ^ 64 → Sparse.get 0 rx src < seq + k →
      ringOpens key rx ((List.range' k n).map (fun k => ringSeal key src dst (seq + k) type (payload k))) = true
  | 0, _, _, _, _, _ => rfl
  | n + 1, k, seq, rx, hq, hr => by
    rw [List.range'_succ, List.map_cons]
    refine ringOpens_seal hs (by omega) hr (hp k) ?_
    refine ringOpens_seals hs hp n (k + 1) seq _ (by omega) ?_
    rw [get_set_self (by omega)]
    omega

/-- A message that its source has sealed passes at an instance with the source's key that has accepted only lower SEQ numbers from it. -/
theorem ringGood_sealed {b : Block} {i src dst seq : Nat} {key : Key} {m : RingMsg} (hk : (getInst b i).ringKey = some key) (hs : src < 256)
    (hq : seq + ringParts m ≤ 2 ^ 64) (hr : Sparse.get 0 (getInst b i).ringRx src < seq) :
    ringGood b i (ringSealed key src dst seq m) = true := by
  have h0 : 0 < ringParts m := by cases m <;> simp [ringParts]
  have h1 : ringOpens key (getInst b i).ringRx (ringSealed key src dst seq m) = true := by
    unfold ringSealed
    rw [List.range_eq_range']
    exact ringOpens_seals hs (fun _ => leBytes_length 40 _) _ 0 seq _ (by omega) hr
  have h2 : (ringSealed key src dst seq m).isEmpty = false := by
    unfold ringSealed
    cases h : ringParts m with
    | zero => omega
    | succ n => rw [List.range_succ_eq_map]; rfl
  simp only [ringGood, hk, h1, h2, Bool.not_false, Bool.and_self]

/-- A message has the transfers that its kind takes. -/
theorem ringSealed_length (key : Key) (src dst seq : Nat) (m : RingMsg) : (ringSealed key src dst seq m).length = ringParts m := by
  simp [ringSealed]

end Sys2Proof.Laws
end

