-- ==== Sys2Proof/Laws/Status.lean ====
section
/-! SUPPORT. Status codes by rank (R24, R25). -/

namespace Sys2Proof.Laws
open Sys2Proof.Machine

theorem rank_inj (a b : Status) (h : statusRank a = statusRank b) : a = b := by cases a <;> cases b <;> first | rfl | (simp [statusRank] at h)
theorem rank_ok (a : Status) : statusRank a ≤ 20 := by cases a <;> simp [statusRank]
theorem min_spec (a b : Status) : (statusMin a b = a ∨ statusMin a b = b) ∧ statusRank (statusMin a b) ≤ statusRank a ∧ statusRank (statusMin a b) ≤ statusRank b := by
  unfold statusMin
  split
  · exact ⟨.inr rfl, by omega, by omega⟩
  · exact ⟨.inl rfl, by omega, by omega⟩
theorem fold_spec : ∀ (l : List Status) (a : Status), (l.foldl statusMin a = a ∨ l.foldl statusMin a ∈ l) ∧ statusRank (l.foldl statusMin a) ≤ statusRank a
    ∧ ∀ x ∈ l, statusRank (l.foldl statusMin a) ≤ statusRank x
  | [], a => ⟨.inl rfl, by simp, by simp⟩
  | x :: l, a => by
    rw [List.foldl_cons]
    obtain ⟨h1, h2, h3⟩ := fold_spec l (statusMin a x)
    obtain ⟨m1, m2, m3⟩ := min_spec a x
    refine ⟨?_, by omega, ?_⟩
    · rcases h1 with h1 | h1
      · rw [h1]
        rcases m1 with m | m
        · exact .inl m
        · rw [m]; exact .inr (by simp)
      · exact .inr (by simp [h1])
    · intro y hy
      rcases List.mem_cons.mp hy with rfl | hy
      · omega
      · exact h3 y hy

end Sys2Proof.Laws
end

