-- ==== Sys2Proof/Tests/Slice0.lean ====
section
/-! SUPPORT. Tests: states that meet the hypotheses of the statements, and small checks of single steps. -/

namespace Sys2Proof.Tests
set_option Elab.async false
open Sys2Proof Sys2Proof.Machine

/-- A region of 2 MiB at address 0. -/
def rgn0 : Rgn := { state := .active, size := 1 }

/-- A released package: instance 0 the primary with MCSs 0 and 1 and LCS 0, armed, the journal and the object store locked,
a region at address 0. -/
def base : Block :=
  { inst := [(0, { built := true, nMcs := 2, nLcs := 1, primary := true, role := .pp, loaded := true, ringKey := some 1,
                   released := true, ao := { good := true, armed := true } })]
    mcs := [(0, { present := true }), (1, { present := true })]
    lcs := [(0, { present := true })]
    rgn := { table := [(0, rgn0)], map := [{ base := 0, pages := 4096, w := 2, f := 0, b := 0 }] }
    jnl := { lock := true }
    cm := { storeLock := true }
    boot := { hard := false, step := 12, master := some 0 } }

/-- A state with nothing waiting. -/
def st (b : Block) : State := { b := b, pending := [] }
/-- The released package changed. -/
def on (f : Block → Block) : State := st (f base)
def s0 : State := st base
/-- The kernel, at instance 0. -/
def kz : ZReq := { inst := 0, attr := .k, tag := 0 }
def rq0 : MnReq := { addr := 0, tag := 0, ctx := 0, layer := 0, opid := 0, id := 1 }
def w0 : MnWr := { data := 5, svalid := false, sorrel := 0, poison := false }
def item0 : Item := { region := 0, share := 0, level := 0, index := 0 }
def rd0 : Rd := { seq := 1, rq := rq0, ridx := 0, rgn := rgn0, gline := 0, vbu := false }
def hz0 : Haz := { seq := 3, rq := rq0, wr := w0, ridx := 0, rgn := rgn0, gline := 0 }
def ci0 : CacheItem := { item := item0, tag := 0, way := 0, data := 0, dirty := true, used := 0 }
def ft0 : Fetch := { item := item0, cls := 0, tag := 0, phase := .waiting, asker := .read 1, dual := false }
def bk0 : BackItem := { item := item0, tag := 0, data := 0, phase := .ready }
/-- The released package with M-port 0 changed. -/
def onPort (f : MPort → MPort) : State := on (updPort 0 f)
def sess0 : Sess := { num := 1, tr := .mctp, mgmt := true, done := true, keys := 0 }
/-- The released package with a session open. -/
def onSess (x : Sess) : State := on (updAtt (fun a => { a with sess := [x] }))
/-- A member of a domain, as package 1, whose authority is package 2. -/
def member : Dom :=
  { state := .admitted, id := 7, pkg := 1, ident := 11, auth := some (2, 22),
    binds := [(0, { state := .admitted, pkg := 2, ident := 22 }), (1, { state := .admitted, pkg := 3, ident := 33 })] }
def onDom (f : Dom → Dom) : State := on (updDom (fun _ => f member))
def rdo0 : RdOut := { id := 1, data := 0, poison := false, status := .ok, sorrel := 0, sorigin := false }
def abortState : State :=
  onDom id |> fun s => { s with b := updLport 0 (fun p => { p with up := true, kBay := some 3, rxGrant := List.replicate 8 32 }) { s.b with time := 5 } }
def win0 : Win := { valid := true, base := 0, size := 2, peer := 2, peerExp := 9, perm := 15 }
/-- Instance 0 with a window to package 2 and an UP pair to its LCS 5. -/
def fabBase : Block :=
  { updFab 0 (fun f => { f with tlb := [0] }) (updPair 0 0 (fun _ => { valid := true, peer := 2, lcs := 5, keys := [(0, 1)] }) base) with
    fab := { (updFab 0 (fun f => { f with tlb := [0] }) base).fab with
      table := [(0, win0)], serving := [{ inst := 0, base := 0, size := 100 }], peerMask := [(2, some 32)] } }
def onFab (f : Block → Block) : State := st (f fabBase)
def or0 : LtOr := { op := 0, addr := 0, tag := 0, ctx := 0, layer := 0, opid := 0, id := 1, attr := 0, data := 0, svalid := false, sorrel := 0 }
def oc0 : LtOc := { id := 1, data := 0, poison := false, status := .ok, sorrel := 0, sorigin := false }
def pkt0 : Pkt :=
  { vc := 0, ce := false, op := 0x11, cls := 0, dst := 2, dstLcs := 5, src := 0, srcLcs := 0, origin := 0, poison := 0, txn := 9, lines := [] }
def pktIn : Pkt := { pkt0 with dst := 0, dstLcs := 0, src := 2, srcLcs := 5 }
def staged0 : Staged := { lcs := 0, pkt := pkt0, shared := false, entry := none, tag := 0, held := false }
def out0 : Outst := { live := true, dst := 2, op := 0, pkt := some pkt0, home := 5 }
def inb0 : Inb :=
  { id := 0, use := .read 0 pktIn, rd := true, addr := 0, tag := 0, ctx := 0, layer := 0, opid := 0, data := 0, svalid := false, sorrel := 0,
    poison := false, order := 0, flits := 0, vc := 0, sent := false }
def ic0 : LtIc := { id := 0, data := 0, poison := false, status := .ok, sorrel := 0, sorigin := false }
def arc0 : Arc :=
  { src := 2, iinst := 0, reqid := 5, pending := false, pair := 0, pkt := pktIn, line := 0, tag := 0, ctx := 0, status := .ok, result := 0,
    waiters := [], started := false, order := 0 }
/-- LCS 0 up with credits, changed. -/
def onLport (f : LPort → LPort) : State :=
  onFab (fun b => updLport 0 (fun p => f { p with up := true, txCrd := List.replicate 8 64, rxGrant := List.replicate 8 64 }) b)
theorem launch_done {l : Launch} (h : (match l with | .done _ => true | .wait _ => false) = true) :
    l = .done (match l with | .done b => b | .wait _ => base) := by
  cases l with
  | done b => rfl
  | wait y => cases h
/-- The bytes of a packet that package 2's LCS 5 sends LCS 0 under epoch 0 and key 1. -/
def wire0 : Bytes := bytesOfFlits (flitsOf (protect 1 (pktIv 0 0 1 0) (pktHeader 3 1 0 0 pktIn) (pktSegments pktIn)))
def cmd0 : Cmd :=
  { op := 0x60, flags := 0, token := 0, bytes := [], long := false, first := 0, phase := .ready, status := .ok, result := 0, jseq := 0, sends := 0 }
/-- A block with a command ready at the kernel command port. -/
def withCmd (c : Cmd) (b : Block) : Block := { b with cm := { b.cm with kport := { busy := true, cmd := some c } } }
def step0 : Step :=
  { exec := 0, flags := 0x44, flags2 := 0, chunk := 0, dep := 0, outStep := 0, inPkg := 0, inLcs := 0, outLcs := 0, outPkg := 0, outPeer := 0 }
def plan0 : Plan := { id := 7, ctx := 0, op := 0, ifmt := 0x12, ofmt := 0x12, stoch := false, timeout := 5, steps := [step0] }
def inv0 : Inv :=
  { id := 3, plan := 7, ce := 96, coll := 0, inB := 0, outB := 0, scrB := 0, ctx := 0, tag := 0, src := .kport,
    steps := [{ active := true, done := true }], inexact := false }
def planImage : Bytes :=
  [0x5A, 0x5A, 0x33, 0x50, 1, 1, 0, 0x12, 0x12, 0, 7, 0, 5] ++ List.replicate 52 0 ++ [0x44] ++ List.replicate 30 0
def withRed (ps : List Plan) (vs : List Inv) (b : Block) : Block := { b with red := { b.red with plans := ps, invs := vs } }
/-- The released package in production, with key 20. -/
def keyBase (e : KEntry) (arg : Word) (data : Sparse Word) : Block :=
  updKey 20 (fun _ => e) (updMint (fun m => { m with arg := arg, data := data }) (updOtp (fun o => { o with lc := .prod }) base))
def key0 : KEntry := { state := .active, cv := true, type := 4, usage := 0xFF }
def job0 : MintJob :=
  { src := .kport, op := 6, status := .ok, result := 0, index := 20, blob := [], target := 20, waits := [], store := .none }
def kc0 : KcEntry := { index := 20, gen := 0, type := 4, usage := 0xFF, owner := 0, ancestors := [], grant := 5, work := workKeys 1, used := 0 }
/-- A message of instance 1 for instance 0, the first that it seals under the ring key 1. -/
def pk0 (m : RingMsg) : RingPkt := { src := 1, dst := 0, bcast := false, seq := 1, msg := m, data := ringSealed 1 1 0 1 m }
def in0 (m : RingMsg) : RingIn := { inst := 0, data := ringSealed 1 1 0 1 m }
theorem ring_good {b : Block} (m : RingMsg) (h : (getInst b 0).ringKey = some 1) (h' : (getInst b 0).ringRx = []) :
    ringGood b 0 (ringSealed 1 1 0 1 m) = true := by
  refine Laws.ringGood_sealed h (by decide) ?_ (by rw [h']; decide)
  have := Config.layoutExtra.isLt
  cases m <;> simp only [ringParts] <;> omega
/-- A message at the head of the ring for instance 0, in a package with key 20. -/
def onRing (m : RingMsg) (e : KEntry := key0) : State := st { keyBase e 0 [] with ring := [pk0 m] }
/-- A context of tag 0 that a cipher page of tenant 0 may name, and a job on that page. -/
def scuBase (f : ScuPage → ScuPage) : Block :=
  updScu 0 f { base with cm := { base.cm with ctxs := [(1, { state := .defined, tag := 0 })] } }
def sjob0 : ScuJob :=
  { op := 8, prio := 1, key := none, mat := 0, ctx := 1, arg := 0, need := 0, got := [], out := [], fin := false, sent := false }
def tz : ZReq := { inst := 0, attr := .t, tag := 0 }
def fl0 : FlCmd := { op := 0, addr := 0, len := 1, data := [] }
def onStore (f : Store → Store) : State := on (updStore f)
def hk0 : HkCmd := { op := 0, stream := 1, sub := 0, dir := true, kset := false, key := 1, ifv := 1 }
def onIde (f : Ide → Ide) : State := on (updIde f)
def boot0 : Boot := { hard := false, step := 7, master := some 0 }
def lay0 : LayoutImg :=
  { bytes := [],
    insts := [{ num := 0, role := 1, mcsBase := 0, lcsBase := 0, nMcs := 2, nLcs := 1, waves := [0, 0, 1] },
              { num := 1, role := 0, mcsBase := 2, lcsBase := 1, nMcs := 0, nLcs := 0, waves := [] }],
    pairs := [(0, 1)], ports := [(0, 0)], groups := [], map := [], seed := 0, serving := [], ways := [], walk := [], store := 3,
    ctxBase := 0, jnlBase := 0, pkg := 1 }
def fw0 : FwImg := { bytes := [], major := 3, svn := 1 }
/-- The package during boot: instance 0 built, its die good. -/
def onBoot (f : Boot → Boot) : State :=
  st { base with boot := f boot0, inst := [(0, { built := true, nMcs := 2, nLcs := 1, primary := true, ao := { good := true } })] }
def mq0 : MbReq := { attr := .k, sess := none, token := 0 }
def mj0 : MbJob := { code := 0, req := mq0, jseq := 0, arg := 0 }
def onLc (l : Lc) : State := on (updOtp (fun o => { o with lc := l }))
/-- A domain message of the authority of `member`. -/
def hdr0 : DomHdr := { domain := 7, sender := 2, ident := 22, seq := 5, sigOk := true, onPair := false }
/-- The block once the message is taken. -/
def heardB (h : DomHdr) (s : State) : Block :=
  updDom (fun d => { d with seen := (h.ident, h.seq.toNat) :: d.seen.filter (fun e => e.1 != h.ident) }) s.b
def dka : Dom := { member with role := .dka, auth := none }
def onDka (f : Dom → Dom) : State := on (updDom (fun _ => f dka))
def joiner : Dom := { state := .joining, id := 7, ident := 11, joinTo := some (2, 100) }
def onJoin : State := on (updDom (fun _ => joiner))
def evid0 : Evidence :=
  { chainOk := true, ek := 5, nonce := 3, fwHash := 9, arb := 1, layoutHash := 1, lcState := 2, debug := false, ppPass := true,
    storeOpen := true, storeSeq := 0, importGen := 0, certs := [], resp := [] }
def pol0 : Policy :=
  { epochN := 16, flags := 0, domainId := 7, dka := 1, standby := 2, maxMembers := 8, fw := [9], layout := [1],
    minRoll := 0 }
def cand0 : Cand := { ident := 44, pkg := 4, nonce := 3, again := false }
def bindQ : Bind := { state := .quarantined, pkg := 4, ident := 44, answered := true }
def hand0 : Hand := { peer := 2, inst := some 0, want := [], started := 0, pairs := [], done := false }
theorem except_ok (d : Block) {x : Except Status Block} (h : (match x with | .ok _ => true | .error _ => false) = true) :
    x = .ok (match x with | .ok y => y | .error _ => d) := by
  cases x with
  | ok y => rfl
  | error y => cases h
def sr0 : SpdmReq := { tr := .doe, sess := none }
/-- A request in the open session `sessT`. -/
def sr1 : SpdmReq := { tr := .doe, sess := some 1 }
def sessT : Sess := { sess0 with tr := .doe, mgmt := false }
/-- A session open, tenant instance 0 as given, context 1 of its tag. -/
def tenantBase (t : TInst) (b : Block) : Block :=
  updTInst 0 (fun _ => t) (updAtt (fun a => { a with sess := [sessT] })
    { b with cm := { b.cm with ctxs := [(1, { state := .defined, tag := 0 })] } })
def tinst0 : TInst := { state := .run, tdisp := true, sess := some 1 }
def mig0 : Mig := { tag := 0, peer := 2, source := true, kek := 20, frozen := true, restored := false, committed := false, aborted := false }
/-- A member of a domain with a migration and tenant instance 0. -/
def onMig (g : List Mig) (t : TInst) : State :=
  onDom id |> fun s => { s with b := updTInst 0 (fun _ => t) { s.b with trust := { s.b.trust with migs := g } } }
def blob0 : MigBlob :=
  { tdisp := false, pasid := 0, stream := 0, ifid := 0, ctxs := [], queues := [], fences := [], keys := [], dropped := [], regions := [] }
/-- A member of a domain with an SP. -/
def spBase (f : Fo → Fo) : State :=
  onDom id |> fun s => { s with b := updFo f { s.b with inst := s.b.inst ++ [(1, { built := true, primary := true, role := .sp, released := true })] } }
/-- A released package with context 1, queue 5 of it and fence 0, and a command ready at the kernel command port. -/
def objCmd (op : Nat) (l : List Nat) : State :=
  st (withCmd { cmd0 with op := op, bytes := List.replicate 40 0 ++ l.flatMap (leBytes 8) } (updRef tyCtx 1 (fun r => { r with ref := 1, creator := true })
    (updRef tyQueue 5 (fun r => { r with ref := 1, creator := true })
      (updCtx 1 (fun c => { c with state := .defined }) (updQueue 5 (fun q => { q with state := .stopped, ctx := 1 }) base)))))
/-- A released package with room for the object store and the journal. -/
def roomy : Block :=
  { base with rgn := { base.rgn with map := [{ base := 0, pages := 1048576, w := 2, f := 0, b := 0 }],
                                     groups := [{ mcs := 0, channels := 1, sideband := true, carve := 0, carveLen := 1048576 },
                                                { mcs := 1, channels := 1, sideband := true, carve := 0, carveLen := 1048576 }] }
              cm := { base.cm with storeLock := false } }
/-- Context 1 in slot 0, with queue 5 as given. -/
def withQueue (f : Queue → Queue) (b : Block) : Block :=
  updSlot 0 (fun s => { s with ctx := some 1 }) (updCtx 1 (fun c => { c with state := .resident })
    (updQueue 5 (fun q => f { q with state := .open, ctx := 1, tail := 2, log2 := 3 }) b))
/-- That queue over a region of its context. -/
def queueBase (f : Queue → Queue) : Block := withQueue f (setRgn 0 { rgn0 with owner := 1 } base)
/-- A handle of fence 4 of this package, and one of package 2. -/
def h4 : Word := 70
def h2 : Word := 6 + 2 * 2 ^ 40
/-- Fence 4 lives, shared with package 2. -/
def fenceBase (f : Fence → Fence) (b : Block) : Block :=
  updRef tyFence 4 (fun r => { r with ref := 1, creator := true }) (updFence 4 (fun x => f
    { x with live := true, ctx := 1, sharers := [{ pkg := 2, tag := 0, wait := true, signal := true }] }) b)
def sigCmd (phase : CmdPhase) (h : Word) (sends : Nat) : Cmd :=
  { cmd0 with op := 0, flags := 2, phase := phase, sends := sends, bytes := List.replicate 24 0 ++ leBytes 8 h.toNat ++ leBytes 8 9 }
def fence0 (h : Word) : FenceLine := { src := 2, value := 9, handle := h, status := .ok, tag := 0, fails := 0 }
def mirror0 : Mirror := { handle := h2, tag := 0, value := 3, status := .ok, fails := 0, heard := false }
def withMirror (b : Block) : Block := { b with cm := { b.cm with mirrors := [mirror0] } }
def dump0 : Dump := { state := 1, ctx := 1, len := 128, dst := 0x1000, fence := h2, value := 0, key := 20 }
/-- Context 1, its region 0 and key 20, and dump 0 as given. -/
def dumpBase (x : Dump) (e : KEntry) : Block :=
  updKey 20 (fun _ => e) (updDump 0 (fun _ => x) (setRgn 0 { rgn0 with owner := 1 }
    { base with cm := { base.cm with ctxs := [(1, { state := .defined, tag := 0 })], mirrors := [{ mirror0 with heard := true }] } }))
def keyC : KEntry := { state := .active, cv := true, type := 4, usage := 0xFF, owner := 1 }
def seal0 : SealJob :=
  { restore := false, ctx := 1, src := .kport, base := 0, states := 2, lines := 2, started := true, count := 1, next := [], got := 2,
    digest := 0, bad := none, key := 1 }
/-- Slot 0 with a seal and a restore as given. -/
def slotBase (w r : Option SealJob) : Block :=
  updSlot 0 (fun s => { s with wr := w, rd := r }) { base with cm := { base.cm with ctxs := [(1, { state := .resident, tag := 0 })] } }
/-- A seal of slot 0 whose context is resident is ready at the kernel command port. -/
def sealCmd : State :=
  st (updCtx 1 (fun c => { c with state := .resident }) (updSlot 0 (fun s => { s with ctx := some 1 }) (objCmd 3 [0, 0, 0]).b))
def sealBlock : Block := (taken .none .kport 3 0 sealCmd.b).getD base
theorem seal_pages (p : Fin 9) : (((List.range 32).map (fun n => if (getMcs (fresh sealBlock).2 n).present then pagesOn (fresh sealBlock).2 n 0 p.val else 0)).foldl (· + ·) 0
    == p.val - 0) = true := by
  revert p
  decide +kernel
theorem seal_room {t : Nat} (h : t ≤ 512) : imageServed (fresh sealBlock).2 0 t = true := by
  have e := seal_pages ⟨(0 + t + 63) / 64, by omega⟩
  exact e
/-- Line 0 of an image of context 1 with ciphertext 0, sealed under key generation `g`. -/
def image0 (g : Nat) : Sideband :=
  let t := tupleOf (imageRgn 1 0 1) 0 { major := 0, minor := 0 }
  sideband (lineMac (workKeys 1).mac t 0) (sorrelOf (ctrLine (workKeys 1).enc t 0) ^^^ sorrelMask (workKeys 1).enc t) g false false .ro false
theorem image_statuses {g : Nat} (hg : g < 256) :
    (imageCheck (slotBase none (some seal0)) seal0 0 0 (image0 g)).early = []
    ∧ (imageCheck (slotBase none (some seal0)) seal0 0 0 (image0 g)).late = if g = 0 then [] else [.tagFail] := by
  have F := fun mac so p o m x => Laws.sb_fields mac so g p o m x hg
  rw [show imageCheck (slotBase none (some seal0)) seal0 0 0 (image0 g)
    = checkLine (imageRgn 1 0 1) (workKeys 1) [0] 0 0 { major := 0, minor := 0 } 0 (some (image0 g)) false from rfl]
  by_cases h : g = 0
  · subst h
    simp [checkLine, image0, imageRgn, F, modeNum]
  · simp [checkLine, image0, imageRgn, F, h, modeNum]
/-- What a transfer on MS_ needs. -/
def msCan (b : Block) (n g : Nat) (wr : Bool) (id : BitVec 10) : Prop :=
  freeMsId (getPort b n) = some id ∧ (if wr then (getPort b n).wrCrd else (getPort b n).rdCrd).getD (chanOf b n g).1 0 ≠ 0
    ∧ lineFree (getPort b n) g wr = true
theorem line_room : 0 < Config.lineSpace := Nat.succ_pos _
def lj0 : LineJob := { line := 3, g := 3, old := { major := 0, minor := 0 }, new := { major := 0, minor := 0 } }
def po0 : Posted := { line := 3, g := 3, data := 0, sb := 0 }
theorem ring_heard {p : RingMsg → Bool} (m : RingMsg) (h : p m = true) :
    ∃ b, ringHeard (in0 m) p (onRing m).b = some (pk0 m, b) := by
  unfold ringHeard
  rw [show ringTake (in0 m).inst p (onRing m).b = some (pk0 m, { (onRing m).b with ring := [] }) from
    Laws.ringTake_head (e := pk0 m) rfl h (show (ringWay (keyBase key0 0 []) 1 0).isSome = true by decide +kernel)]
  simp only [show ringGood { (onRing m).b with ring := [] } (in0 m).inst (in0 m).data = true from ring_good m rfl rfl,
    show (in0 m).data.length = ringParts (pk0 m).msg from Laws.ringSealed_length .., decide_true, Bool.and_self, if_true]
  exact ⟨_, rfl⟩
/-- A sealed message stands first on the ring for its instance, its way open and all its transfers good. -/
abbrev headOn (s : State) (r : RingIn) (e : RingPkt) (rest : List RingPkt) : Prop :=
  s.b.ring = e :: rest ∧ e.dst = r.inst ∧ (ringWay s.b e.src e.dst).isSome = true ∧ ringGood s.b r.inst r.data = true
    ∧ r.data.length = ringParts e.msg
theorem head_on (m : RingMsg) (e : KEntry) : headOn (onRing m e) (in0 m) (pk0 m) [] :=
  ⟨rfl, rfl, show (ringWay (keyBase key0 0 []) 1 0).isSome = true by decide +kernel, ring_good m rfl rfl, Laws.ringSealed_length ..⟩
/-- A message at the head of the ring during boot. -/
def onRingBoot (m : RingMsg) (l : Option LayoutImg := none) : State :=
  st { base with boot := { boot0 with layout := l },
                 inst := [(0, { built := true, nMcs := 2, nLcs := 1, primary := true, ao := { good := true }, ringKey := some 1 })], ring := [pk0 m] }
/-- A cipher job alone at priority 0. -/
def arb0 : Arb := { last := [300, 0, 0, 0] }
/-- A record of an image of 80 bytes in slot 0 of the Sealed Store, its tag as given. -/
def rec0 (tag : Bytes) : Bytes := List.replicate 16 0 ++ [80, 0, 0, 0] ++ List.replicate 12 0 ++ tag
def tag0 : Bytes := gcmTag (keyBytes 0) (storeIv 0 false 0) [] (List.replicate 64 0)

theorem wit_HardResetEvents :
    (∃ s : State, s.b.boot.hard = true ∧ s.b.boot.step = 0 ∧ s.b.inst.all (fun e => !e.2.ao.asleep) = true ∧ s.b.inst.any (fun e => e.2.built && e.2.primary && e.2.ao.good) = true) ∧
    (∃ (s : State) (i : Nat), (getInst s.b i).built = true ∧ (getInst s.b i).primary = false) ∧
    (∃ (s : State) (i : Nat), (getInst s.b i).built = true ∧ (getInst s.b i).ao.good = true ∧ (getInst s.b i).ao.asleep = false) ∧
    (∃ (s : State) (i : Nat), (getInst s.b i).ao.asleep = true) :=
  ⟨⟨State.reset, by decide +kernel⟩,
   ⟨st { base with inst := [(1, { built := true })] }, 1, by decide +kernel⟩,
   ⟨s0, 0, by decide +kernel⟩,
   ⟨on (updAo 0 (fun a => { a with asleep := true })), 0, by decide +kernel⟩⟩

theorem wit_SoftAndComputeResets :
    (∃ (s : State) (i : Nat), (getInst s.b i).released = true ∧ s.b.bay.softDue = []) ∧
    (∃ (s : State) (z : ZReq), served s.b z .bay ∧ z.attr = .k) ∧
    (∃ (s : State) (i : Nat), (getInst s.b i).released = true ∧ (getInst s.b i).crst = false) :=
  ⟨⟨s0, 0, by decide +kernel⟩,
   ⟨s0, kz, by decide +kernel⟩,
   ⟨s0, 0, by decide +kernel⟩⟩

theorem wit_TamperEvents :
    (∃ (s : State) (i _bit : Nat), (getInst s.b i).ao.armed = true ∧ (getInst s.b i).ao.asleep = false ∧ (getInst s.b i).released = true ∧ s.b.boot.hard = false) ∧
    (∃ (s : State) (i _bit : Nat), (getInst s.b i).ao.armed = false) :=
  ⟨⟨s0, 0, 3, by decide +kernel⟩,
   ⟨on (updAo 0 (fun a => { a with armed := false })), 0, 3, by decide +kernel⟩⟩

theorem wit_ScanRequest :
    (∃ (s : State) (i : Nat), (getInst s.b i).built = true ∧ s.b.boot.hard = false ∧ 3 ≤ s.b.boot.step ∧ s.b.otp.lc = .test) ∧
    (∃ (s : State) (i : Nat), (getInst s.b i).built = true ∧ s.b.boot.hard = false ∧ 3 ≤ s.b.boot.step ∧ s.b.otp.lc ≠ .test ∧ (getInst s.b i).ao.armed = true ∧ (getInst s.b i).released = true ∧ let b := updAo i (fun a => { a with count := min 65535 (a.count + 1) }) s.b; let b := enterOos .tamper (zeroize i (count { inst := i } (evBay 4) (raise i 8 b))); scanCount b + scanWaiting b < 64) :=
  ⟨⟨on (updOtp (fun o => { o with lc := .test })), 0, by decide +kernel⟩,
   ⟨s0, 0, by dsimp only; decide +kernel⟩⟩

theorem wit_BayControl :
    (∃ (s : State) (z : ZReq), served s.b z .bay ∧ z.attr = .k) ∧
    (∃ (s : State) (z : ZReq) (_w : Word), served s.b z .bay ∧ z.attr = .k) ∧
    (∃ (s : State) (z : ZReq) (n : Nat), served s.b z .bay ∧ z.attr = .m ∧ mgmtSess s.b (some n) = true) ∧
    (∃ s : State, s.b.bay.state = 1 ∧ domRest s.b = true ∧ inDomain s.b = false ∧ s.b.bay.cause ≠ .tamper ∧ s.b.inst.any (fun e => e.2.ao.armed && e.2.ao.oos) = false) ∧
    (∃ (s : State) (n : Nat) (f : Flit) (key : Key), (getLcs s.b n).present = true ∧ (getInst s.b (getLcs s.b n).inst).released = true ∧ (getLport s.b n).up = true ∧ (getLport s.b n).mode = false ∧ (getLport s.b n).rxOpen = none ∧ (getLport s.b n).rxStray.contains (ctlVc s.b n) = false ∧ ctlVc s.b n < 8 ∧ 0 < (getLport s.b n).rxGrant.getD (ctlVc s.b n) 0 ∧ (bytesOfFlits [f]).take 8 = abortMarker ∧ let b := giveFlits n (ctlVc s.b n) 1 (updLport n (fun x => { x with rxOpen := none }) (holdFlit n (ctlVc s.b n) s.b)); let l := leBytes 64 f.toNat; let t := leNat ((l.drop 20).take 8); let now := (thyme b (getLcs b n).inst).toNat; l.take 8 = abortMarker ∧ leNat ((l.drop 8).take 8) = b.trust.dom.id.toNat ∧ b.trust.dom.state = .admitted ∧ (getLport b n).kBay = some key ∧ gcmTag (keyBytes key) ((l.drop 20).take 8 ++ (l.drop 16).take 2 ++ [0, 0]) (l.take 48) [] = l.drop 48 ∧ t ≤ now + 1000000 ∧ now ≤ t + 1000000 ∧ b.bay.lastRel.toNat < t ∧ b.bay.state ≠ 1 ∧ b.bay.due = none) :=
  ⟨⟨s0, kz, by decide +kernel⟩,
   ⟨s0, kz, 5, by decide +kernel⟩,
   ⟨onSess sess0, { kz with attr := .m }, 1, by decide +kernel⟩,
   ⟨on (fun b => { b with bay := { b.bay with state := 1 } }), by decide +kernel⟩,
   ⟨abortState, 0, abortFlit 3 7 9 .tagFail 5, 3, by dsimp only; decide +kernel⟩⟩

theorem wit_OnlineTest :
    (∃ (s : State) (z : ZReq) (w : Word), served s.b z .bay ∧ z.attr = .k ∧ let b := zcpRsp z.inst .ok s.b; let o := oltOf w; o.kind = 2 ∧ o.isLcs = true ∧ o.lane < 18 ∧ (getUnits b z.inst).olt.busy = false ∧ oltHeld b z.inst 2 o.unit true = true ∧ laneIsOut b z.inst o = false ∧ 0 < (getLcs b o.unit).spares) ∧
    (∃ (s : State) (z : ZReq) (w : Word), served s.b z .bay ∧ z.attr = .k ∧ let b := zcpRsp z.inst .ok s.b; let o := oltOf w; o.kind = 1 ∧ (getUnits b z.inst).olt.busy = false ∧ oltHeld b z.inst 1 o.unit o.isLcs = true ∧ (getLcs b o.unit).state = .outOfService) ∧
    (∃ (s : State) (n : Nat), (getLcs s.b n).present = true ∧ (getLcs s.b n).state = .outOfService ∧ (getUnits s.b (getLcs s.b n).inst).rejoin.contains (true, n) = false ∧ (getInst s.b (getLcs s.b n).inst).released = true) ∧
    (∃ (s : State) (n : Nat) (lanes : BitVec 24) (misr : BitVec 64), let i := (getLcs s.b n).inst; let used := ((List.range 24).filter (fun k => lanes.getLsbD k)).length; misrOk (bstUnit s.b true n) misr = true ∧ used ≤ min 2 (getLcs s.b n).spares ∧ (getUnits s.b i).olt.busy = false ∧ (getUnits s.b i).rejoin.contains (true, n) = true) ∧
    (∃ (s : State) (n _lane : Nat), (getLcs s.b n).present = true ∧ 0 < (getLcs s.b n).spares) ∧
    (∃ (s : State) (n : Nat) (t : BitVec 64), (getLport s.b n).leftMask = some t ∧ t.toNat + 24000 ≤ s.b.time.toNat) :=
  ⟨⟨s0, kz, 0x8008, by dsimp only; decide +kernel⟩,
   ⟨on (updLcs 0 (fun l => { l with state := .outOfService })), kz, 0x8004, by dsimp only; decide +kernel⟩,
   ⟨on (updLcs 0 (fun l => { l with state := .outOfService })), 0, by decide +kernel⟩,
   ⟨on (updUnits 0 (fun u => { u with rejoin := [(true, 0)] })), 0, 1, Config.misrRef 8, beq_self_eq_true _, by decide +kernel⟩,
   ⟨s0, 0, 0, by decide +kernel⟩,
   ⟨on (fun b => updLport 0 (fun p => { p with leftMask := some 0 }) { b with time := 24000 }), 0, 0, by decide +kernel⟩⟩

theorem wit_MemoryRequests :
    (∃ (s : State) (n : Nat) (rq : MnReq) (k : Nat) (r : Rgn), (getMcs s.b n).present = true ∧ (getInst s.b (getMcs s.b n).inst).released = true ∧ (getMcs s.b n).state ≠ .down ∧ (getPort s.b n).drain = false ∧ (getPort s.b n).soft = false ∧ (getPort s.b n).pnt.length < 64 ∧ rdIdBusy (getPort s.b n) rq.id = false ∧ judge s.b n rq none = .ok k r ∧ mnHeld s.b n false = false) ∧
    (∃ (s : State) (n : Nat) (rq : MnReq) (_hw : HwFault) (l : List Status), (getMcs s.b n).present = true ∧ (getInst s.b (getMcs s.b n).inst).released = true ∧ (getMcs s.b n).state ≠ .down ∧ (getPort s.b n).drain = false ∧ (getPort s.b n).soft = false ∧ (getPort s.b n).pnt.length < 64 ∧ rdIdBusy (getPort s.b n) rq.id = false ∧ judge s.b n rq none = .bad l false ∧ mnHeld s.b n false = false) ∧
    (∃ (s : State) (n : Nat) (rq : MnReq) (w : MnWr) (k : Nat) (r : Rgn), (getMcs s.b n).present = true ∧ (getInst s.b (getMcs s.b n).inst).released = true ∧ (getMcs s.b n).state ≠ .down ∧ (getPort s.b n).drain = false ∧ (getPort s.b n).soft = false ∧ openHaz s.b n < 256 ∧ wrIdBusy (getPort s.b n) rq.id = false ∧ judge s.b n rq (some w) = .ok k r ∧ mnHeld s.b n true = false ∧ w.svalid = false) ∧
    (∃ (s : State) (n seq : Nat) (out : RdOut) (rest : List (Nat × RdOut)), (getPort s.b n).rdata = (seq, out) :: rest) ∧
    (∃ (s : State) (n : Nat) (x : WackOut) (rest : List WackOut), (getPort s.b n).wack = x :: rest) ∧
    (∃ (s : State) (n : Nat) (x : PntOut) (rest : List PntOut), (getPort s.b n).pnt = x :: rest) :=
  ⟨⟨s0, 0, rq0, 0, rgn0, by decide +kernel⟩,
   ⟨on (setRgn 0 { rgn0 with state := .loading }), 0, rq0, .none, [.badConfig], by decide +kernel⟩,
   ⟨s0, 0, rq0, w0, 0, rgn0, by decide +kernel⟩,
   ⟨onPort (fun p => { p with rdata := [(4, rdo0)] }), 0, 4, rdo0, [], by decide +kernel⟩,
   ⟨onPort (fun p => { p with wack := [{ id := 1, status := .ok }] }), 0, { id := 1, status := .ok }, [], by decide +kernel⟩,
   ⟨onPort (fun p => { p with pnt := [{ id := 1, addr := 0, tag := 0, status := .poison }] }), 0, { id := 1, addr := 0, tag := 0, status := .poison }, [], by decide +kernel⟩⟩

theorem wit_MemoryTransfers :
    ((∃ (s : State) (n : Nat) (rid id : BitVec 10) (rd : Rd), (getPort s.b n).reads.find? (fun r => r.rq.id == rid && r.mem == .toIssue && r.ready.isNone) = some rd ∧ (getPort s.b n).haz.any (fun h => h.rq.addr == rd.rq.addr && decide (h.seq < rd.seq)) = false ∧ linesHeld (getPort s.b n) < Config.lineSpace ∧ msCan s.b n rd.gline false id) ∧
    (∃ (s : State) (n : Nat) (i : Item) (id : BitVec 10), (getPort s.b n).fetch.any (fun f => f.item == i && f.phase == .slot) = true ∧ (getPort s.b n).back.any (fun x => x.item == i) = false ∧ (getPort s.b n).out.any (fun o => o.what == .item i) = false ∧ msCan s.b n (itemLine s.b (getRgn s.b i.region) i) false id)) ∧
    (∃ (s : State) (n : Nat) (host : Nat) (w : PageWork) (j : LineJob) (id : BitVec 10), pageJobOf (getPort s.b n) host .toRead .reading = some (w, j) ∧ msCan s.b n (j.g) false id) ∧
    (∃ (s : State) (n : Nat) (seq : Nat) (h : Haz) (id : BitVec 10), (getPort s.b n).haz.find? (fun h => h.seq == seq && h.phase == .committed) = some h ∧ (getPort s.b n).haz.any (fun x => x.rq.addr == h.rq.addr && decide (x.seq < h.seq)) = false ∧ (getPort s.b n).reads.any (fun r => r.rq.addr == h.rq.addr && decide (r.seq < h.seq) && r.ready.isNone) = false ∧ msCan s.b n (h.gline) true id) ∧
    (∃ (s : State) (n : Nat) (i : Item) (x : BackItem) (id : BitVec 10), (getPort s.b n).back.find? (fun x => x.item == i) = some x ∧ x.phase = .ready ∧ msCan s.b n (itemLine s.b (getRgn s.b i.region) i) true id) ∧
    (∃ (s : State) (n : Nat) (host : Nat) (w : PageWork) (j : LineJob) (id : BitVec 10), pageJobOf (getPort s.b n) host .toWrite .writing = some (w, j) ∧ msCan s.b n (j.g) true id) ∧
    (∃ (s : State) (n : Nat) (host : Nat) (x : Posted) (id : BitVec 10), pageJobOf (getPort s.b n) host .toWrite .writing = none ∧ (getPort s.b n).posted.find? (fun x => x.line == host && !x.onMs) = some x ∧ msCan s.b n (x.g) true id) ∧
    (∃ (s : State) (n : Nat) (id : BitVec 10) (o : MsOut) (rid : BitVec 10) (rd : Rd), (getPort s.b n).out.find? (fun o => o.id == id && !o.wr) = some o ∧ o.drop = false ∧ o.what = .data rid ∧ let b := updPort n (fun p => { p with out := p.out.filter (fun x => !(x.id == id && !x.wr)) }) s.b; (getPort b n).reads.find? (fun r => r.seq == o.seq && r.mem == .onMs) = some rd) ∧
    (∃ (s : State) (n : Nat) (id : BitVec 10) (o : MsOut) (i : Item) (f : Fetch), (getPort s.b n).out.find? (fun o => o.id == id && !o.wr) = some o ∧ o.drop = false ∧ o.what = .item i ∧ let b := updPort n (fun p => { p with out := p.out.filter (fun x => !(x.id == id && !x.wr)) }) s.b; (getPort b n).fetch.find? (fun f => f.item == i && f.phase == .onMs) = some f) ∧
    (∃ (s : State) (n : Nat) (id : BitVec 10) (o : MsOut) (seq : Nat), (getPort s.b n).out.find? (fun o => o.id == id && o.wr) = some o ∧ o.what = .entry seq) ∧
    (∃ (s : State) (n : Nat) (id : BitVec 10) (o : MsOut) (i : Item), (getPort s.b n).out.find? (fun o => o.id == id && o.wr) = some o ∧ o.what = .back i) ∧
    (∃ (s : State) (n : Nat) (id : BitVec 10) (o : MsOut) (host : Nat) (w : PageWork) (j : LineJob), (getPort s.b n).out.find? (fun o => o.id == id && o.wr) = some o ∧ o.what = .line host ∧ pageJobOf (getPort (updPort n (fun p => { p with out := p.out.filter (fun x => !(x.id == id && x.wr)) }) s.b) n) host .onWr .writing = some (w, j)) ∧
    (∃ (s : State) (n : Nat) (_rd _wr : BitVec 4), (getMcs s.b n).present = true ∧ (getInst s.b (getMcs s.b n).inst).released = true ∧ (∀ c ∈ (getPort s.b n).rdCrd, c < 255) ∧ (∀ c ∈ (getPort s.b n).wrCrd, c < 255)) ∧
    (∃ (s : State) (n c : Nat) (rd _wr : BitVec 4), (getMcs s.b n).present = true ∧ (getInst s.b (getMcs s.b n).inst).released = true ∧ (255, c) ∈ (getPort s.b n).rdCrd.zipIdx ∧ rd.getLsbD c = true) :=
  ⟨⟨⟨onPort (fun p => { p with rdCrd := [1, 1, 1, 1], wrCrd := [1, 1, 1, 1], reads := [{ rd0 with mem := .toIssue }] }), 0, 1, 0, { rd0 with mem := .toIssue }, by decide +kernel, by decide +kernel, line_room, by unfold msCan; and_intros <;> decide +kernel⟩,
    ⟨onPort (fun p => { p with rdCrd := [1, 1, 1, 1], wrCrd := [1, 1, 1, 1], fetch := [{ ft0 with phase := .slot }] }), 0, item0, 0, by unfold msCan; and_intros <;> decide +kernel⟩⟩,
   ⟨onPort (fun p => { p with rdCrd := [1, 1, 1, 1], wrCrd := [1, 1, 1, 1], pages := [{ region := 0, rgn := rgn0, page := 0, seq := 3, sweep := false, item := item0, stage := .reading, lines := [{ lj0 with phase := .toRead }] }] }), 0, 3, { region := 0, rgn := rgn0, page := 0, seq := 3, sweep := false, item := item0, stage := .reading, lines := [{ lj0 with phase := .toRead }] }, { lj0 with phase := .toRead }, 0, by unfold msCan; and_intros <;> decide +kernel⟩,
   ⟨onPort (fun p => { p with rdCrd := [1, 1, 1, 1], wrCrd := [1, 1, 1, 1], haz := [{ hz0 with phase := .committed }] }), 0, 3, { hz0 with phase := .committed }, 0, by unfold msCan; and_intros <;> decide +kernel⟩,
   ⟨onPort (fun p => { p with rdCrd := [1, 1, 1, 1], wrCrd := [1, 1, 1, 1], back := [bk0] }), 0, item0, bk0, 0, by unfold msCan; and_intros <;> decide +kernel⟩,
   ⟨onPort (fun p => { p with rdCrd := [1, 1, 1, 1], wrCrd := [1, 1, 1, 1], pages := [{ region := 0, rgn := rgn0, page := 0, seq := 3, sweep := false, item := item0, stage := .writing, lines := [{ lj0 with phase := .toWrite }] }] }), 0, 3, { region := 0, rgn := rgn0, page := 0, seq := 3, sweep := false, item := item0, stage := .writing, lines := [{ lj0 with phase := .toWrite }] }, { lj0 with phase := .toWrite }, 0, by unfold msCan; and_intros <;> decide +kernel⟩,
   ⟨onPort (fun p => { p with rdCrd := [1, 1, 1, 1], wrCrd := [1, 1, 1, 1], posted := [po0] }), 0, 3, po0, 0, by unfold msCan; and_intros <;> decide +kernel⟩,
   ⟨onPort (fun p => { p with out := [{ id := 0, wr := false, ch := 0, g := 0, what := .data 1, seq := 1, drop := false }], reads := [{ rd0 with mem := .onMs }] }), 0, 0, { id := 0, wr := false, ch := 0, g := 0, what := .data 1, seq := 1, drop := false }, 1, { rd0 with mem := .onMs }, by dsimp only; decide +kernel⟩,
   ⟨onPort (fun p => { p with out := [{ id := 0, wr := false, ch := 0, g := 0, what := .item item0, seq := 0, drop := false }], fetch := [{ ft0 with phase := .onMs }] }), 0, 0, { id := 0, wr := false, ch := 0, g := 0, what := .item item0, seq := 0, drop := false }, item0, { ft0 with phase := .onMs }, by dsimp only; decide +kernel⟩,
   ⟨onPort (fun p => { p with out := [{ id := 0, wr := true, ch := 0, g := 0, what := .entry 3, seq := 3, drop := false }] }), 0, 0, { id := 0, wr := true, ch := 0, g := 0, what := .entry 3, seq := 3, drop := false }, 3, by decide +kernel⟩,
   ⟨onPort (fun p => { p with out := [{ id := 0, wr := true, ch := 0, g := 0, what := .back item0, seq := 0, drop := false }] }), 0, 0, { id := 0, wr := true, ch := 0, g := 0, what := .back item0, seq := 0, drop := false }, item0, by decide +kernel⟩,
   ⟨onPort (fun p => { p with out := [{ id := 0, wr := true, ch := 0, g := 3, what := .line 3, seq := 3, drop := false }], pages := [{ region := 0, rgn := rgn0, page := 0, seq := 3, sweep := false, item := item0, stage := .writing, lines := [{ lj0 with phase := .onWr }] }] }), 0, 0, { id := 0, wr := true, ch := 0, g := 3, what := .line 3, seq := 3, drop := false }, 3, { region := 0, rgn := rgn0, page := 0, seq := 3, sweep := false, item := item0, stage := .writing, lines := [{ lj0 with phase := .onWr }] }, { lj0 with phase := .onWr }, by decide +kernel⟩,
   ⟨s0, 0, 1, 1, by decide +kernel⟩,
   ⟨onPort (fun p => { p with rdCrd := [255, 0, 0, 0] }), 0, 0, 1, 0, by decide +kernel⟩⟩

theorem wit_MemoryPath :
    (∃ (s : State) (n seq : Nat), (getPort s.b n).haz.any (fun h => h.seq == seq && h.phase == .checked) = true) ∧
    (∃ (s : State) (n : Nat) (id : BitVec 10) (rd : Rd), (getPort s.b n).reads.find? (fun r => r.rq.id == id && r.verify && r.needs.isEmpty) = some rd ∧ rd.late = [] ∧ rd.lateDual = false ∧ rd.delivered = true) ∧
    (∃ (s : State) (n cls : Nat) (f : Fetch), slotFree (engMcs s.b n) (fetchesOf s.b n) cls = true ∧ (getPort s.b n).fetch.find? (fun f => f.cls == cls && f.phase == .waiting) = some f) ∧
    (∃ (s : State) (_n : Nat) (i : Item) (c : CacheItem), cachedItem s.b i = some c) :=
  ⟨⟨onPort (fun p => { p with haz := [{ hz0 with phase := .checked }] }), 0, 3, by decide +kernel⟩,
   ⟨onPort (fun p => { p with reads := [{ rd0 with verify := true, delivered := true }] }), 0, 1, { rd0 with verify := true, delivered := true }, by decide +kernel⟩,
   ⟨onPort (fun p => { p with fetch := [ft0] }), 0, 0, ft0, by decide +kernel⟩,
   ⟨onPort (fun p => { p with cache := [ci0] }), 0, item0, ci0, by decide +kernel⟩⟩

theorem wit_MemorySlices :
    (∃ (s : State) (z : ZReq) (k : Nat), served s.b z (.mcs k) ∧ let b := zcpRsp z.inst .ok s.b; (getMcs b k).busy = false ∧ (getMcs b (partner k)).busy = false ∧ (getMcs b k).state = .inService ∧ (getMcs b (partner k)).state = .inService ∧ (getMcs b (partner k)).present = true) ∧
    (∃ (s : State) (k : Nat), (getMcs s.b k).busy = true ∧ (getMcs s.b (partner k)).busy = true ∧ (getMcs s.b k).state = .inService ∧ (getMcs s.b (partner k)).state = .inService ∧ drained s.b (partner k) = true) ∧
    (∃ (s : State) (z : ZReq) (k : Nat), served s.b z (.mcs k) ∧ let b := zcpRsp z.inst .ok s.b; (getMcs b k).busy = false ∧ (getMcs b (partner k)).busy = false ∧ (getMcs b k).state = .carrying) ∧
    (∃ (s : State) (n : Nat) (_sramOk : Bool), (getMcs s.b n).present = true) ∧
    (∃ (s : State) (z : ZReq) (n : Nat) (w : Word), served s.b z (.mcs n) ∧ fieldNat w 3 2 = 0) ∧
    (∃ (s : State) (z : ZReq) (n : Nat) (_w : Word), served s.b z (.lcs n)) ∧
    (∃ (s : State) (z : ZReq) (n c : Nat) (w : Word), served s.b z (.mcs n) ∧ c < 8 ∧ fieldNat w 5 0 ≤ fieldNat w 14 8 ∧ fieldNat w 14 8 ≤ 64 ∧ let b := zcpRsp z.inst .ok s.b; let walk := (getMcs b n).walk.set c (fieldNat w 5 0, fieldNat w 14 8); (walk.map (·.1)).foldl (· + ·) 0 ≤ 64) ∧
    (∃ (s : State) (z : ZReq) (n _k : Nat) (_w : Word), served s.b z (.mcs n)) ∧
    (∃ (s : State) (z : ZReq) (n _k : Nat) (_w : Word), served s.b z (.lcs n)) :=
  ⟨⟨s0, kz, 0, by dsimp only; decide +kernel⟩,
   ⟨on (fun b => updPort 1 (fun p => { p with drain := true }) (updMcs 0 (fun m => { m with busy := true }) (updMcs 1 (fun m => { m with busy := true }) b))), 0, by decide +kernel⟩,
   ⟨on (updMcs 0 (fun m => { m with state := .carrying })), kz, 0, by dsimp only; decide +kernel⟩,
   ⟨s0, 0, true, by decide +kernel⟩,
   ⟨s0, kz, 0, 0, by decide +kernel⟩,
   ⟨s0, kz, 0, 0, by decide +kernel⟩,
   ⟨s0, kz, 0, 0, 16388, by dsimp only; decide +kernel⟩,
   ⟨s0, kz, 0, 0, 0, by decide +kernel⟩,
   ⟨s0, kz, 0, 0, 0, by decide +kernel⟩⟩

theorem wit_TreeSteps :
    (∃ (s : State) (n : Nat) (w : PageWork) (rest : List PageWork), takeFirst (fun (w : PageWork) => !w.sweep && w.stage == .done) (getPort s.b n).pages = some (w, rest)) ∧
    (∃ (s : State) (n node : Nat) (i : Item), (getPort s.b n).roofAsk.contains node = true ∧ roofItem s.b node = some i) ∧
    (∃ (s : State) (n node slot : Nat) (x : BackItem) (mac : Word), replicating s.b = false ∧ (getPort s.b n).back.find? (fun x => (roofMac x).isSome && x.item.index % 16 == slot && roofNode s.b (getRgn s.b x.item.region) x.item.share (x.item.index / 16) == node) = some x ∧ x.phase = .roofAsked mac) :=
  ⟨⟨onPort (fun p => { p with pages := [{ region := 0, rgn := rgn0, page := 0, seq := 3, sweep := false, item := item0, stage := .done }] }), 0, { region := 0, rgn := rgn0, page := 0, seq := 3, sweep := false, item := item0, stage := .done }, [], by decide +kernel⟩,
   ⟨on (fun b => updPort 0 (fun p => { p with roofAsk := [5] }) (setRgn 0 { rgn0 with mode := .rw, roofBase := 4, roofNodes := 2 } b)), 0, 5, (roofItem (on (fun b => updPort 0 (fun p => { p with roofAsk := [5] }) (setRgn 0 { rgn0 with mode := .rw, roofBase := 4, roofNodes := 2 } b))).b 5).getD item0, by decide +kernel⟩,
   ⟨onPort (fun p => { p with back := [{ item := { item0 with index := 17 }, tag := 0, data := 7, phase := .roofAsked 7 }] }), 0, roofNode (onPort (fun p => { p with back := [{ item := { item0 with index := 17 }, tag := 0, data := 7, phase := .roofAsked 7 }] })).b (getRgn (onPort (fun p => { p with back := [{ item := { item0 with index := 17 }, tag := 0, data := 7, phase := .roofAsked 7 }] })).b 0) 0 1, 1, { item := { item0 with index := 17 }, tag := 0, data := 7, phase := .roofAsked 7 }, 7, by decide +kernel⟩⟩

theorem wit_RegionCommands :
    (∃ (s : State) (src : Src) (b : Block) (t : Option (Nat × Nat × Nat)) (i : Nat), taken .rgn src 0x50 1 s.b = some b ∧ replicating b = false ∧ createChecks b (stageOf b src) false = ([], t) ∧ ((reqOf b src).kernel && kClosed b (stageOf b src).tag) = false ∧ lowestFrom (fun k => (getRgn b k).state == .free) 4096 0 = some i) ∧
    (∃ (s : State) (src : Src) (b : Block) (t : Option (Nat × Nat × Nat)) (i : Nat), taken .rgn src 0x50 3 s.b = some b ∧ replicating b = false ∧ createChecks b (stageOf b src) true = ([], t) ∧ ((reqOf b src).kernel && kClosed b (stageOf b src).tag) = false ∧ lowestFrom (fun k => (getRgn b k).state == .free) 4096 0 = some i) ∧
    (∃ (s : State) (src : Src) (b : Block), taken .rgn src 0x50 2 s.b = some b ∧ replicating b = false ∧ let i := rgnIndex b src; (getRgn b i).state = .loading ∧ mayAct b (reqOf b src) (getRgn b i).owner (getRgn b i).tag = true) ∧
    (∃ (s : State) (src : Src) (b : Block), taken .rgn src 0x50 6 s.b = some b ∧ replicating b = false ∧ let i := rgnIndex b src; [RgnState.loading, .checking, .active, .rekey].contains (getRgn b i).state = true ∧ mayAct b (reqOf b src) (getRgn b i).owner (getRgn b i).tag = true) ∧
    (∃ (s : State) (src : Src) (b : Block), taken .rgn src 0x50 4 s.b = some b ∧ replicating b = false ∧ let i := rgnIndex b src; [RgnState.loading, .checking, .active, .rekey, .failed].contains (getRgn b i).state = true ∧ mayAct b (reqOf b src) (getRgn b i).owner (getRgn b i).tag = true) ∧
    (∃ (s : State) (src : Src) (b : Block), taken .rgn src 0x50 5 s.b = some b ∧ replicating b = false ∧ let i := rgnIndex b src; let r := getRgn b i; let k := (stageOf b src).key; r.state = .active ∧ mayAct b (reqOf b src) r.owner r.tag = true ∧ (r.mode = .xts ∨ r.mode = .rw) ∧ keyChecks b r.mode r.owner k = [] ∧ k ≠ r.key) :=
  ⟨⟨on (fun b => { b with rgn := { b.rgn with stage := 40 * 2 ^ 64 + 2 ^ 96, map := [{ base := 0, pages := 65536, w := 2, f := 0, b := 0 }] } }), .reg kz 0, (taken .rgn (.reg kz 0) 80 1 (on (fun b => { b with rgn := { b.rgn with stage := 40 * 2 ^ 64 + 2 ^ 96, map := [{ base := 0, pages := 65536, w := 2, f := 0, b := 0 }] } })).b).getD (on (fun b => { b with rgn := { b.rgn with stage := 40 * 2 ^ 64 + 2 ^ 96, map := [{ base := 0, pages := 65536, w := 2, f := 0, b := 0 }] } })).b, some (0, 0, 0), 1, by decide +kernel⟩,
   ⟨on (fun b => updKey 3 (fun _ => { state := .active, cv := true, type := 6, usage := 16 }) { b with rgn := { b.rgn with stage := 32 + 40 * 2 ^ 64 + 2 ^ 96 + 3 * 2 ^ 192, map := [{ base := 0, pages := 65536, w := 2, f := 0, b := 0 }] } }), .reg kz 0, (taken .rgn (.reg kz 0) 80 3 (on (fun b => updKey 3 (fun _ => { state := .active, cv := true, type := 6, usage := 16 }) { b with rgn := { b.rgn with stage := 32 + 40 * 2 ^ 64 + 2 ^ 96 + 3 * 2 ^ 192, map := [{ base := 0, pages := 65536, w := 2, f := 0, b := 0 }] } })).b).getD (on (fun b => updKey 3 (fun _ => { state := .active, cv := true, type := 6, usage := 16 }) { b with rgn := { b.rgn with stage := 32 + 40 * 2 ^ 64 + 2 ^ 96 + 3 * 2 ^ 192, map := [{ base := 0, pages := 65536, w := 2, f := 0, b := 0 }] } })).b, some (0, 0, 0), 1, by decide +kernel⟩,
   ⟨on (setRgn 0 { rgn0 with state := .loading }), .reg kz 0, (taken .rgn (.reg kz 0) 80 2 (on (setRgn 0 { rgn0 with state := .loading })).b).getD (on (setRgn 0 { rgn0 with state := .loading })).b, by dsimp only; decide +kernel⟩,
   ⟨s0, .reg kz 0, (taken .rgn (.reg kz 0) 80 6 (s0).b).getD (s0).b, by dsimp only; decide +kernel⟩,
   ⟨s0, .reg kz 0, (taken .rgn (.reg kz 0) 80 4 (s0).b).getD (s0).b, by dsimp only; decide +kernel⟩,
   ⟨on (fun b => updKey 3 (fun _ => { state := .active, cv := true, type := 8, usage := 16 }) (setRgn 0 { rgn0 with mode := .xts } { b with rgn := { b.rgn with stage := 3 * 2 ^ 192 } })), .reg kz 0, (taken .rgn (.reg kz 0) 80 5 (on (fun b => updKey 3 (fun _ => { state := .active, cv := true, type := 8, usage := 16 }) (setRgn 0 { rgn0 with mode := .xts } { b with rgn := { b.rgn with stage := 3 * 2 ^ 192 } }))).b).getD (on (fun b => updKey 3 (fun _ => { state := .active, cv := true, type := 8, usage := 16 }) (setRgn 0 { rgn0 with mode := .xts } { b with rgn := { b.rgn with stage := 3 * 2 ^ 192 } }))).b, by dsimp only; decide +kernel⟩⟩

theorem wit_RegionSweeps :
    (∃ (s : State) (i : Nat) (r : Rgn) (src : Option Src), replicating s.b = false ∧ getRgn s.b i = r ∧ r.state = .retiring ∧ regionIdle s.b i = true ∧ s.b.rgn.retireSrc.find? (fun e => e.1 == i) = some (i, src) ∧ r.mode = .plain ∧ (r.prevGen != r.keyGen && r.prevKey != 0) = false) ∧
    (∃ (s : State) (i : Nat) (r : Rgn), replicating s.b = false ∧ getRgn s.b i = r ∧ r.state = .retiring ∧ regionIdle s.b i = true ∧ s.b.rgn.retireSrc.find? (fun e => e.1 == i) = some (i, none) ∧ r.mode = .rw ∧ (r.prevGen != r.keyGen && r.prevKey != 0) = false) ∧
    (∃ (s : State) (n : Nat) (sw : Sweep) (w : PageWork), (getPort s.b n).pages.find? (fun w => w.sweep) = none ∧ currentSweep s.b n = some sw ∧ (getPort s.b n).drain = false ∧ (getPort s.b n).soft = false ∧ (getMcs s.b n).state ≠ .down ∧ sweepJob s.b n sw = some w) ∧
    (∃ (s : State) (n : Nat) (w : PageWork), (getPort s.b n).pages.find? (fun w => w.sweep) = some w ∧ w.stage = .done) ∧
    (∃ (s : State) (i : Nat), replicating s.b = false ∧ (getRgn s.b i).state = .rekey ∧ s.b.mcs.all (fun e => e.2.sweeps.all (fun s => s.region != i || s.done)) = true) ∧
    (∃ (s : State) (i : Nat) (ans : List MemAns), replicating s.b = false ∧ (getRgn s.b i).state = .checking ∧ ans ≠ [] ∧ (regionKeys s.b (getRgn s.b i)).contains .wait = false ∧ keyGone (regionKeys s.b (getRgn s.b i)) = none ∧ (List.range ((getRgn s.b i).size * unitLines)).foldl (checkSweepLine (getRgn s.b i) (workKeys (getKey s.b (getRgn s.b i).key).key) ans) ([], 0) = ([], (getRgn s.b i).digest)) :=
  ⟨⟨on (fun b => { setRgn 0 { rgn0 with state := .retiring } b with rgn := { (setRgn 0 { rgn0 with state := .retiring } b).rgn with retireSrc := [(0, none)] } }), 0, { rgn0 with state := .retiring }, none, by decide +kernel⟩,
   ⟨on (fun b => { setRgn 0 { rgn0 with state := .retiring, mode := .rw } b with rgn := { (setRgn 0 { rgn0 with state := .retiring, mode := .rw } b).rgn with retireSrc := [(0, none)] } }), 0, { rgn0 with state := .retiring, mode := .rw }, by decide +kernel⟩,
   ⟨on (fun b => updKey 0 (fun e => { e with budget := unlimited }) (updMcs 0 (fun m => { m with sweeps := [{ region := 0, ptr := 0, done := false, stopped := false }] }) (setRgn 0 { rgn0 with state := .rekey, mode := .rw } b))), 0, { region := 0, ptr := 0, done := false, stopped := false }, (sweepJob (on (fun b => updKey 0 (fun e => { e with budget := unlimited }) (updMcs 0 (fun m => { m with sweeps := [{ region := 0, ptr := 0, done := false, stopped := false }] }) (setRgn 0 { rgn0 with state := .rekey, mode := .rw } b)))).b 0 { region := 0, ptr := 0, done := false, stopped := false }).getD { region := 0, rgn := rgn0, page := 0, seq := 3, sweep := true, item := item0, stage := .done }, by decide +kernel⟩,
   ⟨onPort (fun p => { p with pages := [{ region := 0, rgn := rgn0, page := 0, seq := 3, sweep := true, item := item0, stage := .done }] }), 0, { region := 0, rgn := rgn0, page := 0, seq := 3, sweep := true, item := item0, stage := .done }, by decide +kernel⟩,
   ⟨on (setRgn 0 { rgn0 with state := .rekey, mode := .rw }), 0, by decide +kernel⟩,
   ⟨on (setRgn 0 { rgn0 with state := .checking, size := 0 }), 0, [{ line := 0, data := 0, sb := 0, poison := false }], by decide +kernel⟩⟩

theorem wit_InitiatorPorts :
    (∃ (s : State) (i port : Nat) (h : LtOr) (k e n home : Nat) (b' : Block), let seq := (getFab s.b i).order; let b := updFab i (fun f => { f with tlb := tlbUse k f.tlb }) (updFab i (fun f => { f with order := f.order + 1 }) s.b); let w := getWin b k; let loff := h.addr.toNat - w.base * 16384; let reqid := reqidOf e (getOut b i e); let b1 := updOut i e (fun o => { o with live := true, port := port, id := h.id, op := 0, win := k, dst := w.peer, tag := h.tag, ctx := h.ctx, layer := h.layer, opid := h.opid, group := loff / 4, order := seq, st := .ok, sends := 0, waiting := false }) b; (getInst s.b i).released = true ∧ port < (getInst s.b i).nLcs ∧ s.b.bay.state ≠ 1 ∧ s.b.bay.softDue.contains (i, false) = false ∧ (getFab s.b i).held.any (fun x => x.port == port) = false ∧ h.op = 0 ∧ contOf h = 0 ∧ lowestFrom (fun e => !(getOut s.b i e).live) 32768 0 ≠ none ∧ tagGate s.b h.tag = none ∧ syntaxBad [h] = false ∧ (getFab s.b i).tlb.find? (fun k => importHit s.b k h) = some k ∧ transBad b i k [h] = [] ∧ lineBlocked b i seq [h] = false ∧ b.fab.dead.contains w.peer = false ∧ (esbClass (getEsb b i) clsReq).en = true ∧ choosePath b i w.peer w.peerExp (loff / 4) = some (n, home) ∧ lowestFrom (fun e => !(getOut b i e).live) 32768 0 = some e ∧ stageEntry i e n home (reqPkt b i 0 w.peer n home w.peerExp loff h.tag false reqid [] 0 0) h.tag (pathHolds b i w.peer) b1 = some b') ∧
    (∃ (s : State) (i port : Nat) (h : LtOr), (getInst s.b i).released = true ∧ port < (getInst s.b i).nLcs ∧ s.b.bay.state ≠ 1 ∧ s.b.bay.softDue.contains (i, false) = false ∧ (getFab s.b i).held.any (fun x => x.port == port) = false ∧ contOf h = 0 ∧ lowestFrom (fun e => !(getOut s.b i e).live) 32768 0 ≠ none ∧ tagGate s.b h.tag = none ∧ syntaxBad [h] = false ∧ (getFab s.b i).tlb.find? (fun k => importHit s.b k h) = none) ∧
    (∃ (s : State) (i port : Nat) (w : LtHeld) (h : LtOr) (t : List LtOr) (k : Nat) (x : Win), (getFab s.b i).held.find? (fun x => x.port == port && x.why == .tlb) = some w ∧ w.xfers = h :: t ∧ s.b.fab.table.find? (fun e => importHit s.b e.1 h) = some (k, x)) ∧
    (∃ (s : State) (i port : Nat) (e : Nat × LtOc) (r : List (Nat × LtOc)), takeFirst (fun e => e.1 == port) (getFab s.b i).oc = some (e, r)) ∧
    (∃ (s : State) (i port k : Nat) (w : LtHeld) (b' : Block), s.b.bay.state ≠ 1 ∧ (getFab (stageWaiting i s.b) i).held.find? (fun x => x.port == port && x.why != .tlb) = some w ∧ w.win = some k ∧ launch i port w.xfers k w.seq (stageWaiting i s.b) = .done b') :=
  ⟨⟨onFab id, 0, 0, or0, 0, 0, 0, 5, (stageEntry 0 0 0 5 (reqPkt (updFab 0 (fun f => { f with tlb := tlbUse 0 f.tlb }) fabBase) 0 0 2 0 5 9 0 0 false (reqidOf 0 (getOut (updFab 0 (fun f => { f with tlb := tlbUse 0 f.tlb }) fabBase) 0 0)) [] 0 0) 0 (pathHolds (updFab 0 (fun f => { f with tlb := tlbUse 0 f.tlb }) fabBase) 0 2) (updFab 0 (fun f => { f with order := f.order + 1 }) (updOut 0 0 (fun o => { o with live := true, port := 0, id := 1, op := 0, win := 0, dst := 2, tag := 0, ctx := 0, layer := 0, opid := 0, group := 0, order := (getFab (updFab 0 (fun f => { f with tlb := tlbUse 0 f.tlb }) fabBase) 0).order, st := .ok, sends := 0, waiting := false }) (updFab 0 (fun f => { f with tlb := tlbUse 0 f.tlb }) fabBase)))).getD (updFab 0 (fun f => { f with order := f.order + 1 }) (updOut 0 0 (fun o => { o with live := true, port := 0, id := 1, op := 0, win := 0, dst := 2, tag := 0, ctx := 0, layer := 0, opid := 0, group := 0, order := (getFab (updFab 0 (fun f => { f with tlb := tlbUse 0 f.tlb }) fabBase) 0).order, st := .ok, sends := 0, waiting := false }) (updFab 0 (fun f => { f with tlb := tlbUse 0 f.tlb }) fabBase))), by dsimp only; decide +kernel⟩,
   ⟨s0, 0, 0, or0, by decide +kernel⟩,
   ⟨onFab (updFab 0 (fun f => { f with held := [{ port := 0, seq := 0, xfers := [or0], why := .tlb, win := none }] })), 0, 0, { port := 0, seq := 0, xfers := [or0], why := .tlb, win := none }, or0, [], 0, win0, by decide +kernel⟩,
   ⟨onFab (updFab 0 (fun f => { f with oc := [(0, oc0)] })), 0, 0, (0, oc0), [], by decide +kernel⟩,
   ⟨onFab (updFab 0 (fun f => { f with held := [{ port := 0, seq := 0, xfers := [or0], why := .cells, win := some 0 }] })), 0, 0, 0, { port := 0, seq := 0, xfers := [or0], why := .cells, win := some 0 }, _, by decide +kernel, by decide +kernel, rfl, launch_done (by decide +kernel)⟩⟩

theorem wit_OutstandingRequests :
    (∃ (s : State) (i : Nat) (d : Pkg), let held := (getEsb s.b i).staged.filter (fun s => s.held && s.pkt.dst == d); (getFab s.b i).outst.any (fun e => e.2.live && !e.2.waiting && e.2.dst == d && e.2.path != pathSig s.b i d && !held.any (fun s => s.entry == some e.1)) = false) ∧
    (∃ (s : State) (i e : Nat), (getOut s.b i e).live = true ∧ (getOut s.b i e).waiting = false ∧ (getOut s.b i e).op ∈ [0x00, 0x02, 0x03]) ∧
    (∃ (s : State) (i e : Nat), (getOut s.b i e).live = true ∧ (getOut s.b i e).op = 0x01) ∧
    (∃ (s : State) (i e n home : Nat) (q : Pkt), (getOut s.b i e).pkt = some q ∧ (getOut s.b i e).live = true ∧ opAtomic (getOut s.b i e).op = true ∧ (getOut s.b i e).sends ≠ 0 ∧ (getOut s.b i e).sends < 3 ∧ choosePath s.b i (getOut s.b i e).dst (txnExport q.txn) (getOut s.b i e).group = some (n, home)) ∧
    (∃ (s : State) (i e : Nat), (getOut s.b i e).live = true ∧ opAtomic (getOut s.b i e).op = true) ∧
    (∃ (s : State) (i e n home : Nat) (q : Pkt) (b' : Block), (getOut s.b i e).pkt = some q ∧ (getOut s.b i e).live = true ∧ (getOut s.b i e).waiting = true ∧ acquireBlocked s.b i (getOut s.b i e).win (getOut s.b i e).tag (getOut s.b i e).order = false ∧ s.b.fab.dead.contains (getOut s.b i e).dst = false ∧ choosePath s.b i (getOut s.b i e).dst (txnExport q.txn) (getOut s.b i e).group = some (n, home) ∧ stageEntry i e n home { q with srcLcs := n, dstLcs := home } (getOut s.b i e).tag (pathHolds s.b i (getOut s.b i e).dst) s.b = some b') :=
  ⟨⟨onFab id, 0, 2, by dsimp only; decide +kernel⟩,
   ⟨onFab (updOut 0 0 (fun _ => out0)), 0, 0, by decide +kernel⟩,
   ⟨onFab (updOut 0 0 (fun _ => { out0 with op := 1 })), 0, 0, by decide +kernel⟩,
   ⟨onFab (updOut 0 0 (fun _ => { out0 with op := 8, sends := 1 })), 0, 0, 0, 5, pkt0, by decide +kernel⟩,
   ⟨onFab (updOut 0 0 (fun _ => { out0 with op := 8, sends := 1 })), 0, 0, by decide +kernel⟩,
   ⟨onFab (updOut 0 0 (fun _ => { out0 with waiting := true })), 0, 0, 0, 5, pkt0, (stageEntry 0 0 0 5 { pkt0 with srcLcs := 0, dstLcs := 5 } 0 (pathHolds (onFab (updOut 0 0 (fun _ => { out0 with waiting := true }))).b 0 2) (onFab (updOut 0 0 (fun _ => { out0 with waiting := true }))).b).getD fabBase, by decide +kernel⟩⟩

theorem wit_TargetDeliveries :
    (∃ (s : State) (n : Nat) (x : Inb) (id : BitVec 12), (getLport s.b n).inb.find? (fun x => !x.sent) = some x ∧ freeIrId (getLport s.b n) = some id) ∧
    (∃ (s : State) (n : Nat) (c : LtIc) (_hw : HwFault) (x : Inb), (getLport s.b n).inb.find? (fun x => x.sent && x.done.isNone && x.id == c.id) = some x) ∧
    (∃ (s : State) (n pair : Nat) (q : Pkt) (x : Inb) (c : LtIc) (_hw : HwFault), x.use = .read pair q ∧ c.poison = false ∧ forced true n 2 (dropInb n x s.b) = (false, dropInb n x s.b) ∧ sorrelOf c.data = c.sorrel) ∧
    (∃ (s : State) (k sidx : Nat) (_data : Line) (_poison : Bool) (_st : Status) (_sorrel : BitVec 32) (n : Nat) (p : LPort) (x : Inb), s.b.lport.find? (fun e => e.2.inb.any (asksFor k sidx)) = some (n, p) ∧ p.inb.find? (asksFor k sidx) = some x) ∧
    (∃ (s : State) (n : Nat) (src : Pkg) (iinst : BitVec 7) (reqid : BitVec 32), let mine := fun (a : Arc) => a.src == src && a.iinst == iinst.toNat && a.reqid == reqid.toNat && !a.pending; (getLport s.b n).arc.any mine = true) :=
  ⟨⟨onLport (fun p => { p with inb := [inb0] }), 0, inb0, 0, by decide +kernel⟩,
   ⟨onLport (fun p => { p with inb := [{ inb0 with sent := true }] }), 0, ic0, .none, { inb0 with sent := true }, by decide +kernel⟩,
   ⟨s0, 0, 0, pktIn, inb0, { ic0 with sorrel := sorrelOf 0 }, .none, by decide +kernel⟩,
   ⟨onLport (fun p => { p with inb := [{ inb0 with use := .stepRead 3 1 0, sent := true }] }), 3, 1, 0, false, .ok, 0, 0, getLport (onLport (fun p => { p with inb := [{ inb0 with use := .stepRead 3 1 0, sent := true }] })).b 0, { inb0 with use := .stepRead 3 1 0, sent := true }, by decide +kernel⟩,
   ⟨onLport (fun p => { p with arc := [arc0] }), 0, 2, 0, 5, by dsimp only; decide +kernel⟩⟩

theorem wit_Egress :
    (∃ (s : State) (n : Nat) (x : Sent), canSend s.b n = true ∧ let b := txLeft n s.b; keyless b n = false ∧ resendHead b n = some x) ∧
    (∃ (s : State) (n : Nat) (f : Flit), canSend s.b n = true ∧ let b := txLeft n s.b; keyless b n = false ∧ resendHead b n = none ∧ (getLport b n).bayFlit = some f ∧ 1 ≤ (getLport b n).txCrd.getD (ctlVc b n) 0) ∧
    (∃ (s : State) (n : Nat) (e : Nat × Option Nat) (epoch : Nat) (key : Key), canSend s.b n = true ∧ let b := txLeft n s.b; keyless b n = false ∧ resendHead b n = none ∧ (getLport b n).bayFlit = none ∧ 3 ≤ (getLport b n).txCrd.getD (ctlVc b n) 0 ∧ resyncHead b n = some (e, epoch, key)) ∧
    (∃ (s : State) (n : Nat) (x : Staged) (k : Nat) (q : Pair) (epoch : Nat) (key : Key), canSend s.b n = true ∧ let b := txLeft n s.b; keyless b n = false ∧ resendHead b n = none ∧ (getLport b n).bayFlit = none ∧ resyncHead b n = none ∧ headOf b n clsCtl = some (x, k, q, epoch, key)) ∧
    (∃ (s : State) (n : Nat) (x : Staged) (k : Nat) (q : Pair) (epoch : Nat) (key : Key) (t : Nat × Bool) (d : Sparse Nat), canSend s.b n = true ∧ let b := txLeft n s.b; keyless b n = false ∧ resendHead b n = none ∧ (getLport b n).bayFlit = none ∧ resyncHead b n = none ∧ headOf b n clsCtl = none ∧ drrPick b n 9 (Sparse.get (0, false) (getEsb b (getLcs b n).inst).turn n) (getEsb b (getLcs b n).inst).drr = (some (x, k, q, epoch, key), t, d)) :=
  ⟨⟨onLport (fun p => { p with resend := some { vc := 0, flits := [0], pair := none, cls := none, shared := false } }), 0, { vc := 0, flits := [0], pair := none, cls := none, shared := false }, by dsimp only; decide +kernel⟩,
   ⟨onLport (fun p => { p with bayFlit := some 5 }), 0, 5, by dsimp only; decide +kernel⟩,
   ⟨onLport (fun p => { p with resync := [(0, none)] }), 0, (0, none), 0, 1, by dsimp only; decide +kernel⟩,
   ⟨st (updEsb 0 (fun e => { e with staged := [{ staged0 with pkt := { pkt0 with cls := clsCtl, vc := 4 } }] }) (onLport id).b), 0, { staged0 with pkt := { pkt0 with cls := clsCtl, vc := 4 } }, 0, { valid := true, peer := 2, lcs := 5, keys := [(0, 1)] }, 0, 1, by dsimp only; decide +kernel⟩,
   ⟨st (updEsb 0 (fun e => { e with staged := [staged0] }) (onLport id).b), 0, staged0, 0, { valid := true, peer := 2, lcs := 5, keys := [(0, 1)] }, 0, 1, (drrPick (st (updEsb 0 (fun e => { e with staged := [staged0] }) (onLport id).b)).b 0 9 (0, false) []).2.1, (drrPick (st (updEsb 0 (fun e => { e with staged := [staged0] }) (onLport id).b)).b 0 9 (0, false) []).2.2, by dsimp only; and_intros <;> first | decide +kernel | rfl⟩⟩

theorem wit_LinkState :
    (∃ (s : State) (n : Nat) (crd : BitVec 16), (getInst s.b (getLcs s.b n).inst).released = true ∧ (getLcs s.b n).present = true ∧ (getLport s.b n).up = true ∧ (getLport s.b n).crdHold = false ∧ let new := (getLport s.b n).txCrd.zipIdx.map (fun e => e.1 + fieldNat crd (2 * e.2 + 1) (2 * e.2)); new.any (fun c => decide (1024 < c)) = false) ∧
    (∃ (s : State) (n : Nat), (getLcs s.b n).present = true ∧ (getInst s.b (getLcs s.b n).inst).released = true ∧ (getLport s.b n).up = false ∧ modeLegal s.b n (getLport s.b n).modeNext = true) ∧
    (∃ (s : State) (n : Nat) (_cut : Bool), (getLcs s.b n).present = true ∧ (getLport s.b n).up = true) ∧
    (∃ (s : State) (n : Nat) (mode : Bool), (getLcs s.b n).present = true ∧ (getLport s.b n).modeNext = !mode ∧ (getLport s.b n).up = false) ∧
    (∃ (s : State) (n : Nat) (mode : Bool), (getLcs s.b n).present = true ∧ (getLport s.b n).modeNext = !mode ∧ (getLport s.b n).up = true) ∧
    (∃ (s : State) (n : Nat), (getLcs s.b n).state = .retraining ∧ (getLport s.b n).up = false) ∧
    (∃ (s : State) (n k : Nat), (getPair s.b n k).valid = true ∧ (getPair s.b n k).up = true ∧ (getPair s.b n k).vcs.any (fun v => v.rx == .broken) = true ∧ (getLport s.b n).resync.any (fun e => e.1 == k && e.2.isNone) = false) :=
  ⟨⟨onLport id, 0, 1, by dsimp only; decide +kernel⟩,
   ⟨s0, 0, by decide +kernel⟩,
   ⟨onLport id, 0, true, by decide +kernel⟩,
   ⟨s0, 0, true, by decide +kernel⟩,
   ⟨onLport id, 0, true, by decide +kernel⟩,
   ⟨on (updLcs 0 (fun l => { l with state := .retraining })), 0, by decide +kernel⟩,
   ⟨st (updPair 0 0 (fun p => { p with vcs := [{ rx := .broken }] }) fabBase), 0, 0, by decide +kernel⟩⟩

theorem wit_Ingress :
    ((∃ (s : State) (n : Nat) (x : LlBeat) (fl : List Flit), (getLcs s.b n).present = true ∧ (getInst s.b (getLcs s.b n).inst).released = true ∧ (getLport s.b n).up = true ∧ (getLport s.b n).mode = false ∧ x.v = 1 ∧ let f := slotFlit x 0; 0 < (getLport s.b n).rxGrant.getD f.vc 0 ∧ (getLport s.b n).rxOpen = none ∧ f.sop = true ∧ (getLport s.b n).rxStray.contains f.vc = false ∧ fl = []) ∧
    (∃ (s : State) (n : Nat) (x : LlBeat) (fl : List Flit), (getLcs s.b n).present = true ∧ (getInst s.b (getLcs s.b n).inst).released = true ∧ (getLport s.b n).up = true ∧ (getLport s.b n).mode = false ∧ x.v = 1 ∧ let f := slotFlit x 0; 0 < (getLport s.b n).rxGrant.getD f.vc 0 ∧ (getLport s.b n).rxOpen = some (f.vc, fl) ∧ f.sop = false ∧ fl.length < 9)) ∧
    (∃ (b : Block) (n vc : Nat) (fl : List Flit), n = 0 ∧ vc = 4 ∧ b = base ∧ (bytesOfFlits fl).take 8 = abortMarker ∧ fl.length = 1) ∧
    (∃ (b : Block) (n vc : Nat) (fl : List Flit), n = 0 ∧ vc = 4 ∧ b = base ∧ (bytesOfFlits fl).take 8 = resyncMarker) ∧
    (∃ (b : Block) (n vc : Nat) (fl : List Flit), n = 0 ∧ vc = 4 ∧ b = base ∧ (bytesOfFlits fl).take 8 ≠ resyncMarker ∧ ((bytesOfFlits fl).take 8 ≠ abortMarker ∨ fl.length ≠ 1)) ∧
    (∃ (b b0 : Block) (n vc flits pk : Nat) (bytes : Bytes) (p : Pair) (key : Key), let h := rxHeader bytes; let ct := (bytes.drop 32).take (132 * h.nl); let iv := pktIv h.epoch vc h.dir h.seq; h.typ = 0 ∧ h.ver = (if (getLcs b n).z2 then 2 else 3) ∧ h.nl ≤ 4 ∧ flits = pktFlits h.nl ∧ h.seq < 2 ^ 63 ∧ h.pkt.vc = vc ∧ (bytes.drop (pktLen h.nl)).any (fun x => x != 0) = false ∧ h.pkt.dst = b.trust.dom.pkg ∧ h.pkt.dstLcs = n ∧ findPair b n h.pkt.src h.pkt.srcLcs = some (pk, p) ∧ p.up = true ∧ (p.vcs.getD vc {}).rx = .normal ∧ rxKey b n p h.epoch = some key ∧ (p.vcs.getD vc {}).rxEpoch ≤ h.epoch ∧ h.seq = (p.vcs.getD vc {}).rxNext ∧ forced true n 1 b = (false, b0) ∧ h.dir = dirBit h.pkt.src.toNat h.pkt.srcLcs h.pkt.dst.toNat h.pkt.dstLcs ∧ gcmTag (keyBytes key) iv (bytes.take 32) ct = (bytes.drop (32 + 132 * h.nl)).take 16) :=
  ⟨⟨⟨onLport id, 0, { v := 1, sop := 1, eop := 0, vc := 0, data := 5 }, [], by dsimp only; decide +kernel⟩,
    ⟨onLport (fun p => { p with rxOpen := some (0, [4]) }), 0, { v := 1, sop := 0, eop := 1, vc := 0, data := 5 }, [4], by dsimp only; decide +kernel⟩⟩,
   ⟨base, 0, 4, [BitVec.ofNat 512 (leNat abortMarker)], by decide +kernel⟩,
   ⟨base, 0, 4, [BitVec.ofNat 512 (leNat resyncMarker), 2, 3], by decide +kernel⟩,
   ⟨base, 0, 4, [1, 2], by decide +kernel⟩,
   ⟨(onLport id).b, (onLport id).b, 0, 0, (flitsOf wire0).length, 0, wire0, { valid := true, peer := 2, lcs := 5, keys := [(0, 1)] }, 1, by dsimp only; decide +kernel⟩⟩

theorem wit_StagingRegisters :
    (∃ (s : State) (z : ZReq) (w : Word), served s.b z .esb ∧ ((fieldBit w 1 = true → (getEsb (zcpRsp z.inst .ok s.b) z.inst).spillEn = true))) ∧
    (∃ (s : State) (z : ZReq) (c : Nat) (w : Word), served s.b z .esb ∧ c < 5 ∧ let b := zcpRsp z.inst .ok s.b; let k : EsbClass := { vc := fieldNat w 2 0, en := fieldBit w 3, min := fieldNat w 21 8, max := fieldNat w 38 24, mark := fieldNat w 53 40, weight := max 1 (fieldNat w 59 56) }; classesOk (getInst b z.inst).nLcs ((getEsb b z.inst).cls.set c k) (getEsb b z.inst).msgMax = true) ∧
    (∃ (s : State) (z : ZReq) (w : Word), served s.b z .esb ∧ let b := zcpRsp z.inst .ok s.b; classesOk (getInst b z.inst).nLcs (getEsb b z.inst).cls (fieldNat w 14 0) = true) ∧
    (∃ (s : State) (z : ZReq) (_x : Nat) (w : Word), served s.b z .esb ∧ fieldNat w 13 0 ≤ fieldNat w 29 16 ∧ fieldNat w 29 16 ≤ (esbClass (getEsb (zcpRsp z.inst .ok s.b) z.inst) clsMsg).max) ∧
    (∃ (s : State) (z : ZReq) (_t : Nat) (w : Word), served s.b z .esb ∧ fieldNat w 31 0 ≤ fieldNat w 63 32) ∧
    (∃ (s : State) (z : ZReq) (n v : Nat) (w : Word), served s.b z (.lcs n) ∧ 9 ≤ fieldNat w 10 0 ∧ let rx := (getLcs (zcpRsp z.inst .ok s.b) n).rxvc.set v (fieldNat w 10 0); rx.foldl (· + ·) 0 ≤ 1024) ∧
    (∃ (s : State) (i : Nat) (x : Spilled) (t : List Spilled) (sh : Bool), (getEsb s.b i).spill = x :: t ∧ admission s.b i x.lcs clsMsg (pktFlits x.nl) false = some sh ∧ x.asked = none) ∧
    (∃ (s : State) (i : Nat) (x : Spilled) (t : List Spilled) (sh : Bool) (l : List (Nat × Nat × Nat)), (getEsb s.b i).spill = x :: t ∧ admission s.b i x.lcs clsMsg (pktFlits x.nl) false = some sh ∧ x.asked = some l ∧ l.all (fun a => (spillRd s.b a).all (fun r => r.ready.isSome)) = true) :=
  ⟨⟨s0, kz, 1, by decide +kernel⟩,
   ⟨s0, kz, 4, (4 + 8 + 64 * 2 ^ 8 + 4096 * 2 ^ 24 + 2048 * 2 ^ 40 + 2 ^ 56), by dsimp only; decide +kernel⟩,
   ⟨s0, kz, 4096, by dsimp only; decide +kernel⟩,
   ⟨s0, kz, 0, 64 + 128 * 2 ^ 16, by decide +kernel⟩,
   ⟨s0, kz, 0, 1 + 2 ^ 32, by decide +kernel⟩,
   ⟨s0, kz, 0, 0, 128, by dsimp only; decide +kernel⟩,
   ⟨on (updEsb 0 (fun e => { e with spill := [{ slot := 0, lcs := 0, tag := 0, nl := 1 }] })), 0, { slot := 0, lcs := 0, tag := 0, nl := 1 }, [], false, by decide +kernel⟩,
   ⟨on (fun b => updPort 0 (fun p => { p with reads := [{ rd0 with own := true, ready := some rdo0 }] }) (updEsb 0 (fun e => { e with spill := [{ slot := 0, lcs := 0, tag := 0, nl := 1, asked := some [(0, 0, 1)] }] }) b)), 0, { slot := 0, lcs := 0, tag := 0, nl := 1, asked := some [(0, 0, 1)] }, [], false, [(0, 0, 1)], by decide +kernel⟩⟩

theorem wit_Windows :
    (∃ (s : State) (src : Src) (b : Block) (i : Nat), taken .wtu src 0x51 1 s.b = some b ∧ replicating b = false ∧ let w := stageWin b src; winChecks b w = [] ∧ ((reqOf b src).kernel && kClosed b w.tag) = false ∧ lowestFrom (fun k => !(getWin (askBind w.peer b) k).valid) 16384 0 = some i) ∧
    (∃ (s : State) (src : Src) (b : Block), taken .wtu src 0x51 2 s.b = some b ∧ replicating b = false ∧ let w := getWin b (winIndex b src); w.valid = true ∧ w.deleting = false ∧ mayAct b (reqOf b src) w.ctx w.tag = true) ∧
    (∃ (s : State) (i : Nat), replicating s.b = false ∧ (getWin s.b i).deleting = true ∧ winIdle s.b i = true) ∧
    (∃ s : State, ownMask s.b ≠ s.b.fab.mask ∧ primaryInst s.b ≠ none) ∧
    (∃ (s : State) (p : Pkg) (_mask : BitVec 64), boundPeer s.b p = true) ∧
    (∃ (s : State) (p : Pkg), Sparse.get none s.b.fab.peerMask p.toNat = some 0) ∧
    (∃ (s : State) (p : Pkg), let pairs := s.b.lport.flatMap (fun e => (e.2.pairs.filter (fun x => x.2.valid && x.2.peer == p)).map (·.2)); pairs ≠ [] ∧ pairs.all (fun x => !x.up) = true) :=
  ⟨⟨onFab (fun b => updDom (fun _ => member) { b with fab := { b.fab with stage := 16 + 4 * 2 ^ 32 + 2 * 2 ^ 64 + 2 * 2 ^ 96 } }), .reg kz 0, (taken .wtu (.reg kz 0) 81 1 (onFab (fun b => updDom (fun _ => member) { b with fab := { b.fab with stage := 16 + 4 * 2 ^ 32 + 2 * 2 ^ 64 + 2 * 2 ^ 96 } })).b).getD (onFab (fun b => updDom (fun _ => member) { b with fab := { b.fab with stage := 16 + 4 * 2 ^ 32 + 2 * 2 ^ 64 + 2 * 2 ^ 96 } })).b, 1, by dsimp only; decide +kernel⟩,
   ⟨onFab id, .reg kz 0, (taken .wtu (.reg kz 0) 81 2 (onFab id).b).getD (onFab id).b, by dsimp only; decide +kernel⟩,
   ⟨onFab (fun b => setWin 0 { win0 with deleting := true } b), 0, by decide +kernel⟩,
   ⟨s0, by decide +kernel⟩,
   ⟨onDom id, 2, 5, by decide +kernel⟩,
   ⟨on (fun b => { b with fab := { b.fab with peerMask := [(2, some 0)] } }), 2, by decide +kernel⟩,
   ⟨st (updPair 0 0 (fun p => { p with up := false }) fabBase), 2, by dsimp only; decide +kernel⟩⟩

theorem wit_Plans :
    (∃ (s : State) (src : Src) (image : Bytes) (rd : Status) (b : Block), takenLocal src 0x60 s.b = some b ∧ let r := readAt src image.length rd b; statusFailing r.1 = false ∧ let l := image.take (64 + 32 * ((image[5]?).getD 0).toNat); let p := planOf (reqOf r.2 src).ctx l; planChecks r.2 l p = []) ∧
    (∃ (s : State) (src : Src) (b : Block) (p : Plan), takenLocal src 0x61 s.b = some b ∧ let id := fieldNat (srcWord b src) 7 0; planById b id = some p ∧ p.dying = false ∧ b.red.invs.any (fun v => v.plan == id) = false ∧ ((reqOf b src).kernel = true ∨ p.ctx = (reqOf b src).ctx)) ∧
    (∃ (s : State) (src : Src) (blk : BitVec 512) (rd : Status) (b : Block) (p : Plan), takenLocal src 0x62 s.b = some b ∧ let r := readAt src 64 rd b; let v := newInv r.2 src blk p; statusFailing r.1 = false ∧ invokeChecks r.2 (reqOf r.2 src) blk = [] ∧ planById r.2 (fieldNat blk 7 0) = some p ∧ abortsOf r.2 v = []) :=
  ⟨⟨st (withCmd cmd0 base), .kport, planImage, .ok, (takenLocal .kport 96 (st (withCmd cmd0 base)).b).getD (st (withCmd cmd0 base)).b, by dsimp only; decide +kernel⟩,
   ⟨st (withCmd { cmd0 with op := 0x61, bytes := List.replicate 40 0 ++ [7] } (withRed [plan0] [] base)), .kport, (takenLocal .kport 97 (st (withCmd { cmd0 with op := 0x61, bytes := List.replicate 40 0 ++ [7] } (withRed [plan0] [] base))).b).getD (st (withCmd { cmd0 with op := 0x61, bytes := List.replicate 40 0 ++ [7] } (withRed [plan0] [] base))).b, plan0, by dsimp only; decide +kernel⟩,
   ⟨st (withCmd { cmd0 with op := 0x62 } (withRed [plan0] [] base)), .kport, 7 + 96 * 2 ^ 32, .ok, (takenLocal .kport 98 (st (withCmd { cmd0 with op := 0x62 } (withRed [plan0] [] base))).b).getD (st (withCmd { cmd0 with op := 0x62 } (withRed [plan0] [] base))).b, plan0, by dsimp only; decide +kernel⟩⟩

theorem wit_PlanRuns :
    (∃ (s : State) (n : Nat) (h : HeldPkt) (t : List HeldPkt), (getLport s.b n).held = h :: t) ∧
    (∃ (s : State) (n : Nat) (e : Nat × Nat), laneNext (lanePrefetch n (makeRoom n ((laneRuns s.b n).foldl (fun b e => stagePacket e.1 e.2 b) s.b))) n = some e) ∧
    (∃ (s : State) (k sidx : Nat) (v : Inv) (p : Plan) (r : StepRun) (x : Step), getInv s.b k = some v ∧ planById s.b v.plan = some p ∧ v.steps[sidx]? = some r ∧ p.steps[sidx]? = some x ∧ stIn x = true ∧ r.active = true ∧ r.done = false ∧ r.inLine < formLines p v.ce (formIn x)) ∧
    (∃ (s : State) (k : Nat) (v : Inv) (p : Plan), getInv s.b k = some v ∧ planById s.b v.plan = some p ∧ planOut s.b p = true) ∧
    (∃ (s : State) (k : Nat) (v : Inv) (p : Plan), getInv s.b k = some v ∧ planById s.b v.plan = some p ∧ planDown s.b p = true) ∧
    (∃ (s : State) (k : Nat) (v : Inv) (p : Plan) (st : Status), getInv s.b k = some v ∧ planById s.b v.plan = some p ∧ statusFailing st = true) ∧
    (∃ (s : State) (k : Nat) (v : Inv), getInv s.b k = some v ∧ v.steps.all (fun r => r.done) = true ∧ s.b.boot.debug = false) ∧
    (∃ (s : State) (z : ZReq) (n : Nat) (w : Word), served s.b z (.lcs n) ∧ z.attr = .k ∧ fieldBit w 0 = true) ∧
    (∃ (s : State) (r : RingIn) (e : RingPkt) (tag : Tag) (st : Status) (b : Block), ringHeard r isReport s.b = some (e, b) ∧ e.msg = .silentError tag st) :=
  ⟨⟨onLport (fun p => { p with held := [{ pair := 0, pkt := pktIn }] }), 0, { pair := 0, pkt := pktIn }, [], by decide +kernel⟩,
   ⟨st (withRed [{ plan0 with steps := [{ step0 with flags := 0x41, inPkg := 2, inLcs := 5 }] }] [{ inv0 with steps := [{ active := true, inLine := 1, remote := [{ data := 5, inex := false }] }] }] (base)), 0, (3, 0), by decide +kernel⟩,
   ⟨st (withRed [{ plan0 with steps := [{ step0 with flags := 0x41, inPkg := 2, inLcs := 5 }] }] [{ inv0 with steps := [{ active := true }] }] (base)), 3, 0, { inv0 with steps := [{ active := true }] }, { plan0 with steps := [{ step0 with flags := 0x41, inPkg := 2, inLcs := 5 }] }, { active := true }, { step0 with flags := 0x41, inPkg := 2, inLcs := 5 }, by decide +kernel⟩,
   ⟨st (withRed [plan0] [inv0] ((updLcs 0 (fun l => { l with state := .outOfService }) base))), 3, inv0, plan0, by decide +kernel⟩,
   ⟨st (withRed [{ plan0 with steps := [{ step0 with flags := 0x41, inPkg := 2, inLcs := 5 }] }] [{ inv0 with steps := [{ active := true }] }] (base)), 3, { inv0 with steps := [{ active := true }] }, { plan0 with steps := [{ step0 with flags := 0x41, inPkg := 2, inLcs := 5 }] }, by decide +kernel⟩,
   ⟨st (withRed [plan0] [inv0] (base)), 3, inv0, plan0, .poison, by decide +kernel⟩,
   ⟨st (withRed [plan0] [inv0] (base)), 3, inv0, by decide +kernel⟩,
   ⟨s0, kz, 0, 1, by decide +kernel⟩,
   (let ⟨b, h⟩ := ring_heard (p := isReport) (.silentError 0 .poison) rfl; ⟨onRing (.silentError 0 .poison), in0 (.silentError 0 .poison), pk0 (.silentError 0 .poison), 0, .poison, b, h, rfl⟩)⟩

theorem wit_MintCommands :
    (∃ (s : State) (src : Src) (data d : Bytes) (rd rd' : Status) (b : Block) (arg budget : Word) (i op : Nat), op ∈ [1, 3, 4] ∧ taken .mint src 0x40 op s.b = some b ∧ mintArgs src op data rd s.b = (arg, budget, d, rd') ∧ let r := srcAccess src false (srcOp b src 64).toNat (mintNeeds (mintWord src op s.b)) rd' b; let b' := clearExport src r.2; replicating b' = false ∧ statusFailing r.1 = false ∧ mintChecks b' src (mintWord src op s.b) arg d = [] ∧ freeKey b' = some i) ∧
    (∃ (s : State) (src : Src) (d : Bytes) (rd' : Status) (b : Block) (arg budget : Word) (i : Nat), taken .mint src 0x40 2 s.b = some b ∧ mintArgs src 2 [] .ok s.b = (arg, budget, d, rd') ∧ replicating (clearExport src b) = false ∧ statusFailing rd' = false ∧ mintChecks (clearExport src b) src (mintWord src 2 s.b) arg d = [] ∧ freeKey (clearExport src b) = some i) ∧
    (∃ (s : State) (src : Src) (d : Bytes) (rd' : Status) (b : Block) (arg budget : Word), taken .mint src 0x40 5 s.b = some b ∧ mintArgs src 5 [] .ok s.b = (arg, budget, d, rd') ∧ replicating (clearExport src b) = false ∧ statusFailing rd' = false ∧ mintChecks (clearExport src b) src (mintWord src 5 s.b) arg d = []) ∧
    (∃ (s : State) (src : Src) (d : Bytes) (rd' : Status) (b : Block) (arg budget : Word), taken .mint src 0x40 6 s.b = some b ∧ mintArgs src 6 [] .ok s.b = (arg, budget, d, rd') ∧ replicating (clearExport src b) = false ∧ statusFailing rd' = false ∧ mintChecks (clearExport src b) src (mintWord src 6 s.b) arg d = []) ∧
    (∃ (s : State) (j : MintJob) (rest : List MintJob), s.b.keys.mint.jobs = j :: rest ∧ j.waits = [] ∧ j.store = .none) ∧
    (∃ s : State, replicating s.b = false ∧ rueActs (getKey s.b s.b.keys.mint.rue) = true) :=
  ⟨⟨st (keyBase { key0 with type := 0 } 0 [(0, 5)]), .reg kz (1 + 5 * 2 ^ 4 + 20 * 2 ^ 16 + 0x31 * 2 ^ 32 + 2 ^ 40), [], (mintArgs (.reg kz (1 + 5 * 2 ^ 4 + 20 * 2 ^ 16 + 0x31 * 2 ^ 32 + 2 ^ 40)) 1 [] .ok (st (keyBase { key0 with type := 0 } 0 [(0, 5)])).b).2.2.1, .ok, .ok, (taken .mint (.reg kz (1 + 5 * 2 ^ 4 + 20 * 2 ^ 16 + 0x31 * 2 ^ 32 + 2 ^ 40)) 64 1 (st (keyBase { key0 with type := 0 } 0 [(0, 5)])).b).getD (st (keyBase { key0 with type := 0 } 0 [(0, 5)])).b, 0, 0x0000FFFFFFFFFFFF, 16, 1, by dsimp only; decide +kernel⟩,
   ⟨st (keyBase { key0 with type := 0 } 0 []), .reg kz (2 + 4 * 2 ^ 4 + 20 * 2 ^ 16), [], .ok, (taken .mint (.reg kz (2 + 4 * 2 ^ 4 + 20 * 2 ^ 16)) 64 2 (st (keyBase { key0 with type := 0 } 0 [])).b).getD (st (keyBase { key0 with type := 0 } 0 [])).b, 0, 0x0000FFFFFFFFFFFF, 16, by decide +kernel⟩,
   ⟨st (keyBase { key0 with type := 0 } 0 []), .reg kz (5 + 20 * 2 ^ 16), [], .ok, (taken .mint (.reg kz (5 + 20 * 2 ^ 16)) 64 5 (st (keyBase { key0 with type := 0 } 0 [])).b).getD (st (keyBase { key0 with type := 0 } 0 [])).b, 0, 0x0000FFFFFFFFFFFF, by decide +kernel⟩,
   ⟨st (keyBase key0 (20 * 2 ^ 13) []), .reg kz (6 + 20 * 2 ^ 16), [], .ok, (taken .mint (.reg kz (6 + 20 * 2 ^ 16)) 64 6 (st (keyBase key0 (20 * 2 ^ 13) [])).b).getD (st (keyBase key0 (20 * 2 ^ 13) [])).b, 20 * 2 ^ 13, 0x0000FFFFFFFFFFFF, by decide +kernel⟩,
   ⟨st (updMint (fun m => { m with jobs := [job0] }) base), job0, [], by decide +kernel⟩,
   ⟨st (updKey 0 (fun _ => { state := .active }) base), by decide +kernel⟩⟩

theorem wit_RingMessages :
    (∃ (s : State) (r : RingIn) (e : RingPkt) (rest : List RingPkt) (x : KcEntry), headOn s r e rest ∧ e.msg = .push x) ∧
    (∃ (s : State) (r : RingIn) (e : RingPkt) (rest : List RingPkt) (d k : Nat), headOn s r e rest ∧ e.msg = .fillReq d k ∧ keyUsable (getKey s.b k) = true ∧ s.b.keys.mint.zeroed = false) ∧
    (∃ (s : State) (r : RingIn) (e : RingPkt) (rest : List RingPkt) (d k : Nat), headOn s r e rest ∧ e.msg = .fillReq d k ∧ keyUsable (getKey s.b k) = false) ∧
    (∃ (s : State) (r : RingIn) (e : RingPkt) (rest : List RingPkt) (k : Nat), headOn s r e rest ∧ e.msg = .fillNeg k) ∧
    (∃ (s : State) (r : RingIn) (e : RingPkt) (rest : List RingPkt) (d k gen g : Nat), headOn s r e rest ∧ e.msg = .evict d k gen g) ∧
    (∃ (s : State) (r : RingIn) (e : RingPkt) (rest : List RingPkt) (k gen : Nat), headOn s r e rest ∧ e.msg = .inval k gen) ∧
    (∃ (s : State) (r : RingIn) (e : RingPkt) (rest : List RingPkt) (d k : Nat), headOn s r e rest ∧ e.msg = .invalAck d k) ∧
    (∃ (s : State) (r : RingIn) (e : RingPkt) (rest : List RingPkt) (d k : Nat), headOn s r e rest ∧ e.msg = .grantReq d k ∧ keyUsable (getKey s.b k) = true ∧ (getKey s.b k).budget ≠ 0) ∧
    (∃ (s : State) (r : RingIn) (e : RingPkt) (rest : List RingPkt) (d k : Nat), headOn s r e rest ∧ e.msg = .grantReq d k ∧ keyUsable (getKey s.b k) = true ∧ (getKey s.b k).budget = 0 ∧ (updInst r.inst (fun s => { s with prRx := r.data }) { s.b with ring := rest }).inst.any (fun s => s.2.kc.any (fun x => x.index == k && x.grant != 0 && x.grant != unlimited)) = true) ∧
    (∃ (s : State) (r : RingIn) (e : RingPkt) (rest : List RingPkt) (k g : Nat), headOn s r e rest ∧ e.msg = .grant k g) ∧
    (∃ (s : State) (r : RingIn) (e : RingPkt) (rest : List RingPkt) (k : Nat), headOn s r e rest ∧ e.msg = .recall k) ∧
    (∃ (s : State) (r : RingIn) (e : RingPkt) (rest : List RingPkt) (d k gen g : Nat), headOn s r e rest ∧ e.msg = .recallAck d k gen g) ∧
    (∃ (s : State) (r : RingIn) (e : RingPkt) (rest : List RingPkt), headOn s r e rest ∧ e.msg = .zeroize) ∧
    (∃ (s : State) (r : RingIn) (e : RingPkt) (rest : List RingPkt) (x : KcEntry), s.b.ring = e :: rest ∧ e.dst = r.inst ∧ (ringWay s.b e.src e.dst).isSome = true ∧ ringGood s.b r.inst r.data = false ∧ e.msg = .push x) ∧
    (∃ (s : State) (i : Nat) (_east : Bool), (getInst s.b i).built = true) ∧
    (∃ (i src seq : Nat) (key : Key) (m : RingMsg), (getInst base i).ringKey = some key ∧ src < 256 ∧ seq + ringParts m ≤ 2 ^ 64 ∧ Sparse.get 0 (getInst base i).ringRx src < seq) ∧
    (∃ (d : Bytes), leNat ((d.drop 4).take 8) ≤ Sparse.get 0 (getInst base 0).ringRx (d.headD 0).toNat) :=
  ⟨⟨onRing (.push kc0) key0, in0 (.push kc0), pk0 (.push kc0), [], kc0, head_on (.push kc0) key0, rfl⟩,
   ⟨onRing (.fillReq 1 20) key0, in0 (.fillReq 1 20), pk0 (.fillReq 1 20), [], 1, 20, head_on (.fillReq 1 20) key0, rfl, rfl, rfl⟩,
   ⟨onRing (.fillReq 1 20) { key0 with cv := false }, in0 (.fillReq 1 20), pk0 (.fillReq 1 20), [], 1, 20, head_on (.fillReq 1 20) { key0 with cv := false }, rfl, rfl⟩,
   ⟨onRing (.fillNeg 20) key0, in0 (.fillNeg 20), pk0 (.fillNeg 20), [], 20, head_on (.fillNeg 20) key0, rfl⟩,
   ⟨onRing (.evict 1 20 0 5) key0, in0 (.evict 1 20 0 5), pk0 (.evict 1 20 0 5), [], 1, 20, 0, 5, head_on (.evict 1 20 0 5) key0, rfl⟩,
   ⟨onRing (.inval 20 0) key0, in0 (.inval 20 0), pk0 (.inval 20 0), [], 20, 0, head_on (.inval 20 0) key0, rfl⟩,
   ⟨onRing (.invalAck 1 20) key0, in0 (.invalAck 1 20), pk0 (.invalAck 1 20), [], 1, 20, head_on (.invalAck 1 20) key0, rfl⟩,
   ⟨onRing (.grantReq 1 20) { key0 with budget := 9 }, in0 (.grantReq 1 20), pk0 (.grantReq 1 20), [], 1, 20, head_on (.grantReq 1 20) { key0 with budget := 9 }, rfl, rfl, by decide +kernel⟩,
   ⟨st (updKc 1 (fun _ => [kc0]) (onRing (.grantReq 1 20)).b), in0 (.grantReq 1 20), pk0 (.grantReq 1 20), [], 1, 20,
    ⟨rfl, rfl, show (ringWay (updKc 1 (fun _ => [kc0]) (keyBase key0 0 [])) 1 0).isSome = true by decide +kernel, ring_good _ rfl rfl, Laws.ringSealed_length ..⟩, rfl, rfl, rfl, by decide +kernel⟩,
   ⟨onRing (.grant 20 5) key0, in0 (.grant 20 5), pk0 (.grant 20 5), [], 20, 5, head_on (.grant 20 5) key0, rfl⟩,
   ⟨onRing (.recall 20) key0, in0 (.recall 20), pk0 (.recall 20), [], 20, head_on (.recall 20) key0, rfl⟩,
   ⟨onRing (.recallAck 1 20 0 5) key0, in0 (.recallAck 1 20 0 5), pk0 (.recallAck 1 20 0 5), [], 1, 20, 0, 5, head_on (.recallAck 1 20 0 5) key0, rfl⟩,
   ⟨onRing (.zeroize) key0, in0 (.zeroize), pk0 (.zeroize), [], head_on (.zeroize) key0, rfl⟩,
   ⟨onRing (.push kc0), { inst := 0, data := [List.replicate 64 0] }, pk0 (.push kc0), [], kc0, rfl, rfl,
    show (ringWay (keyBase key0 0 []) 1 0).isSome = true by decide +kernel, by decide +kernel, rfl⟩,
   ⟨s0, 0, true, by decide +kernel⟩,
   ⟨0, 1, 1, 1, .recall 20, by decide +kernel⟩,
   ⟨List.replicate 64 0, by decide +kernel⟩⟩

theorem wit_CipherUnit :
    (∃ (s : State) (z : ZReq) (w : Word) (e : Instr × Nat), e ∈ [(Instr.scuAes256Encrypt z w, 0x01), (.scuAes256Decrypt z w, 0x02), (.scuAes128Encrypt z w, 0x03), (.scuAes128Decrypt z w, 0x04), (.scuSha384 z w, 0x08), (.scuKmac256 z w, 0x09), (.scuMlkemKeygen z w, 0x10), (.scuMlkemEncaps z w, 0x11), (.scuMlkemDecaps z w, 0x12), (.scuMldsaKeygen z w, 0x18), (.scuMldsaSign z w, 0x19), (.scuMldsaVerify z w, 0x1A), (.scuEcdsaKeygen z w, 0x20), (.scuEcdsaSign z w, 0x21), (.scuEcdsaVerify z w, 0x22)] ∧ served s.b z (.scu z.tag.toNat) ∧ (getScu s.b z.tag.toNat).busy = false ∧ scuChecks (zcpRsp z.inst .ok s.b) z.tag.toNat e.2 w (getScu s.b z.tag.toNat).arg = []) ∧
    (∃ (s : State) (z : ZReq), served s.b z (.scu z.tag.toNat) ∧ (getScu s.b z.tag.toNat).busy = true) ∧
    (∃ (s : State) (z : ZReq) (len : BitVec 12) (j : ScuJob), served s.b z (.scu z.tag.toNat) ∧ (getScu s.b z.tag.toNat).job = some j ∧ (getScu s.b z.tag.toNat).wantIn = true ∧ 1 ≤ len.toNat ∧ len.toNat ≤ 2048) ∧
    (∃ (s : State) (z : ZReq) (j : ScuJob), served s.b z (.scu z.tag.toNat) ∧ (getScu s.b z.tag.toNat).job = some j ∧ (getScu s.b z.tag.toNat).outAvail = true) ∧
    (∃ (s : State) (p : Nat) (j : ScuJob) (out : Bytes) (h : Head) (a : Arb), (getScu s.b p).job = some j ∧ j.fin = false ∧ j.sent = false ∧ j.need ≤ j.got.length ∧ arbPick (scuHeads s.b) s.b.cm.drr (Sparse.get {} s.b.cm.arb 1) = some (h, a) ∧ h.who = 300 + p ∧ scuMakes j.op = none ∧ scuCompute s.b j = (.ok, out)) ∧
    (∃ (s : State) (p i : Nat) (j : ScuJob) (out : Bytes) (ty : Nat) (use : BitVec 8) (h : Head) (a : Arb), replicating s.b = false ∧ (getScu s.b p).job = some j ∧ j.fin = false ∧ j.sent = false ∧ j.need ≤ j.got.length ∧ arbPick (scuHeads s.b) s.b.cm.drr (Sparse.get {} s.b.cm.arb 1) = some (h, a) ∧ h.who = 300 + p ∧ scuMakes j.op = some (ty, use) ∧ let b := updScu p (fun s => { s with job := some { j with sent := true } }) { s.b with cm := { s.b.cm with arb := Sparse.set {} s.b.cm.arb 1 a } }; (getScu b p).job = some { j with sent := true } ∧ scuCompute b { j with sent := true } = (.ok, out) ∧ freeKey (fresh b).2 = some i ∧ scuRandom j.op = true) :=
  ⟨⟨st (scuBase (fun p => { p with arg := 0 })), tz, 2 ^ 32, (.scuSha384 tz (2 ^ 32), 8), by decide +kernel⟩,
   ⟨st (scuBase (fun p => { p with busy := true })), tz, by decide +kernel⟩,
   ⟨st (scuBase (fun p => { p with wantIn := true, job := some sjob0 })), tz, 64, sjob0, by decide +kernel⟩,
   ⟨st (scuBase (fun p => { p with outAvail := true, job := some sjob0 })), tz, sjob0, by decide +kernel⟩,
   ⟨st (scuBase (fun p => { p with job := some { sjob0 with prio := 0 } })), 0, { sjob0 with prio := 0 }, sha384 [], { who := 300, prio := 0, bound := scuBound 8 0 }, arb0, rfl, rfl, rfl, by decide, by decide +kernel, rfl, rfl, rfl⟩,
   ⟨st (scuBase (fun p => { p with job := some { sjob0 with op := 0x20, prio := 0 } })), 0, 16, { sjob0 with op := 0x20, prio := 0 }, leBytes 97 (ecPublic 0).toNat, 3, 8, { who := 300, prio := 0, bound := scuBound 0x20 0 }, arb0, by decide +kernel, rfl, rfl, rfl, by decide, by decide +kernel, rfl, rfl, rfl, rfl, by decide +kernel, rfl⟩⟩

theorem wit_SealedStore :
    (∃ s : State, storeCanUpdate s.b = true) ∧
    (∃ (s : State) (err : BitVec 2), s.b.keys.store.flReq ≠ none ∧ (∃ k, s.b.keys.store.phase = .programming k) ∧ err ≠ 0) ∧
    (∃ (b : Block) (data : Bytes), b.keys.store.phase = .recordRead ∧ data = storeRec b) ∧
    (∃ (b : Block) (data : Bytes), b.keys.store.phase = .recordRead ∧ data ≠ storeRec b) ∧
    (∃ (s : State) (c : FlCmd) (k : Nat), s.b.keys.store.flReq = some c ∧ s.b.keys.store.phase = .search k) ∧
    (∃ (b : Block) (n : Nat) (r : Bytes) (t : List (Nat × Bytes)), b.keys.store.cands = (n, r) :: t ∧ imageGood (getKey b 1).key r b.keys.store.got = true) ∧
    (∃ (b : Block) (n : Nat) (r : Bytes) (t : List (Nat × Bytes)), b.keys.store.cands = (n, r) :: t ∧ imageGood (getKey b 1).key r b.keys.store.got = false) :=
  ⟨⟨onStore (fun s => { s with isOpen := true, dirty := true }), by decide +kernel⟩,
   ⟨onStore (fun s => { s with flReq := some fl0, phase := .programming 0 }), 1, by decide +kernel, ⟨0, by decide +kernel⟩, by decide⟩,
   ⟨(onStore (fun s => { s with phase := .recordRead })).b, _, rfl, rfl⟩,
   ⟨(onStore (fun s => { s with phase := .recordRead })).b, [], by decide +kernel⟩,
   ⟨onStore (fun s => { s with flReq := some fl0, phase := .search 1 }), fl0, 1, by decide +kernel⟩,
   ⟨(onStore (fun s => { s with cands := [(1, rec0 tag0)], got := List.replicate 64 0 ++ tag0 })).b, 1, rec0 tag0, [], by decide +kernel⟩,
   ⟨(onStore (fun s => { s with cands := [(1, rec0 [])], got := [] })).b, 1, rec0 [], [], by decide +kernel⟩⟩

theorem wit_HostLink :
    (∃ (s : State) (r : SpdmReq) (stream : BitVec 8) (_sub : BitVec 2) (_dir _kset : Bool) (_key : Key) (_ifv : BitVec 64), mailUp s.b = true ∧ r.tr = .doe ∧ (tenantSess s.b r).isSome = true ∧ ((ideStreams s.b.trust.ide).contains stream = true ∨ (ideStreams s.b.trust.ide).length < 8)) ∧
    (∃ (s : State) (c : HkCmd), s.b.trust.ide.drive = some c) ∧
    (∃ (s : State) (c : HkCmd), s.b.trust.ide.ack = some c) ∧
    (∃ (s : State) (i : Nat) (type : BitVec 8) (beats : List MgBeat), primaryInst s.b = some i ∧ (getInst s.b i).released = true ∧ mgFramed beats = true ∧ (mgBytes beats).length ≤ 256 ∧ type ∈ [0x00, 0x05, 0x06]) ∧
    (∃ (s : State) (i : Nat) (time interp : BitVec 64), s.b.boot.hard = false ∧ (getInst s.b i).built = true ∧ s.b.time.toNat ≤ interp.toNat ∧ interp.toNat ≤ time.toNat + 20 ∧ time.toNat ≤ interp.toNat + 1000) ∧
    (∃ (s : State) (i : Nat) (time interp : BitVec 64), s.b.boot.hard = false ∧ (getInst s.b i).built = true ∧ s.b.time.toNat ≤ interp.toNat ∧ (time.toNat + 20 < interp.toNat ∨ interp.toNat + 1000 < time.toNat)) :=
  ⟨⟨onSess { sess0 with tr := .doe, mgmt := false }, { tr := .doe, sess := some 1 }, 1, 0, true, false, 1, 1, by decide +kernel⟩,
   ⟨onIde (fun i => { i with drive := some hk0 }), hk0, by decide +kernel⟩,
   ⟨onIde (fun i => { i with ack := some hk0 }), hk0, by decide +kernel⟩,
   ⟨s0, 0, 5, [{ data := 1, som := true, eom := true, last := 3 }], by decide +kernel⟩,
   ⟨s0, 0, 10, 10, by decide +kernel⟩,
   ⟨s0, 0, 0, 100, by decide +kernel⟩⟩

theorem wit_BootFuses :
    (∃ (s : State) (i : Nat), s.b.boot.hard = false ∧ 2 ≤ s.b.boot.step ∧ (getInst s.b i).built = true ∧ (getInst s.b i).primary = true ∧ (getInst s.b i).ao.good = true ∧ s.b.boot.master = none) ∧
    (∃ (s : State) (i m : Nat), s.b.boot.hard = false ∧ 2 ≤ s.b.boot.step ∧ (getInst s.b i).built = true ∧ (getInst s.b i).primary = true ∧ (getInst s.b i).ao.good = true ∧ s.b.boot.master = some m ∧ m ≠ i ∧ s.b.otp.second = false) ∧
    (∃ (s : State) (i : Nat), s.b.boot.hard = false ∧ 2 ≤ s.b.boot.step ∧ (getInst s.b i).built = true ∧ (getInst s.b i).primary = true ∧ (getInst s.b i).ao.good = true ∧ s.b.otp.gnt = some i ∧ otpActive s.b = false ∧ s.b.otp.job = none) ∧
    (∃ (s : State) (_data : BitVec 32) (k : Nat), otpActive s.b = true ∧ s.b.otp.job = some (.sense k)) ∧
    (∃ (s : State) (_data : BitVec 32) (i k : Nat), otpActive s.b = false ∧ s.b.otp.gnt = some i ∧ s.b.otp.sense2 = some k) ∧
    (∃ (s : State) (_data : BitVec 32) (w v : Nat) (again : Bool), otpActive s.b = true ∧ s.b.otp.job = some (.prog w v again false)) ∧
    (∃ (s : State) (data : BitVec 32) (w v : Nat) (again : Bool), otpActive s.b = true ∧ s.b.otp.job = some (.prog w v again true) ∧ data = otpExpect s.b w v) ∧
    (∃ (s : State) (data : BitVec 32) (w v : Nat) (again : Bool), otpActive s.b = true ∧ s.b.otp.job = some (.prog w v again true) ∧ data ≠ otpExpect s.b w v) ∧
    (∃ (s : State) (_data : BitVec 32), otpActive s.b = true ∧ s.b.otp.job ≠ none) ∧
    (∃ (s : State) (i num _role : Nat) (_key : Key), (getInst s.b i).built = true ∧ (getInst s.b i).ao.good = true ∧ s.b.boot.hard = false ∧ (getInst s.b i).released = false ∧ s.b.boot.step = 7 ∧ s.b.boot.halted = false ∧ (getInst s.b i).ringKey = none ∧ num = i ∧ (layInst s.b i).isSome = true) ∧
    (∃ (s : State) (i num _role : Nat) (_key : Key), (getInst s.b i).built = true ∧ (getInst s.b i).ao.good = true ∧ s.b.boot.hard = false ∧ ((getInst s.b i).released = true ∨ ((getInst s.b i).ringKey.isSome = true ∧ num = i))) ∧
    (∃ (s : State) (i num _role : Nat) (_key : Key), (getInst s.b i).built = true ∧ (getInst s.b i).ao.good = true ∧ s.b.boot.hard = false ∧ (getInst s.b i).released = false ∧ num ≠ i) ∧
    (∃ (s : State) (r : RingIn) (e : RingPkt) (rest : List RingPkt) (m : Nat), s.b.ring = e :: rest ∧ e.dst = r.inst ∧ e.msg = .layout ∧ (ringWay s.b e.src e.dst).isSome = true ∧ s.b.boot.master = some m ∧ ringGood s.b r.inst r.data = true ∧ r.data.length = ringParts .layout) ∧
    (∃ (s : State) (r : RingIn) (e : RingPkt) (rest : List RingPkt) (m : Nat), s.b.ring = e :: rest ∧ e.dst = r.inst ∧ e.msg = .layout ∧ (ringWay s.b e.src e.dst).isSome = true ∧ s.b.boot.master = some m ∧ ringGood s.b r.inst r.data = false) ∧
    (∃ (s : State) (i m : Nat) (data : List Bytes) (e : RingPkt) (rest : List RingPkt), s.b.ring = e :: rest ∧ e.dst = m ∧ e.msg = .layoutAck i ∧ (ringWay s.b e.src e.dst).isSome = true ∧ ringGood s.b m data = true ∧ data.length = ringParts (.layoutAck i) ∧ s.b.boot.master = some m ∧ s.b.boot.step = 7 ∧ s.b.boot.absent.contains i = false) ∧
    (∃ (s : State) (i : Nat), s.b.boot.step = 7 ∧ s.b.boot.halted = false ∧ (layInst s.b i).isSome = true ∧ s.b.boot.master ≠ some i ∧ s.b.boot.acks.contains i = false) :=
  ⟨⟨onBoot (fun o => { o with master := none }), 0, by decide +kernel⟩,
   ⟨st (updOtp (fun o => { o with gnt := none }) (onBoot (fun o => { o with step := 7, master := some 1 })).b), 0, 1, by decide +kernel⟩,
   ⟨st (updOtp (fun o => { o with gnt := some 0 }) (onBoot (fun o => { o with step := 7, master := some 1 })).b), 0, by decide +kernel⟩,
   ⟨st (updOtp (fun o => { o with gnt := some 0, job := some (.sense 3) }) (onBoot id).b), 5, 3, by decide +kernel⟩,
   ⟨st (updOtp (fun o => { o with gnt := some 0, sense2 := some 3 }) (onBoot (fun o => { o with step := 7, master := some 1 })).b), 5, 0, 3, by decide +kernel⟩,
   ⟨st (updOtp (fun o => { o with gnt := some 0, job := some (.prog 5 3 false false) }) (onBoot id).b), 0, 5, 3, false, by decide +kernel⟩,
   ⟨st (updOtp (fun o => { o with gnt := some 0, job := some (.prog 5 3 false true) }) (onBoot id).b), 3, 5, 3, false, by decide +kernel⟩,
   ⟨st (updOtp (fun o => { o with gnt := some 0, job := some (.prog 5 3 false true) }) (onBoot id).b), 0, 5, 3, false, by decide +kernel⟩,
   ⟨st (updOtp (fun o => { o with gnt := some 0, job := some (.sense 3) }) (onBoot id).b), 0, by decide +kernel⟩,
   ⟨onBoot (fun o => { o with layout := some lay0 }), 0, 0, 1, 1, by decide +kernel⟩,
   ⟨onRingBoot .zeroize, 0, 0, 1, 1, by decide +kernel⟩,
   ⟨onBoot (fun o => { o with layout := some lay0 }), 0, 1, 1, 1, by decide +kernel⟩,
   ⟨onRingBoot .layout, in0 .layout, pk0 .layout, [], 0, rfl, rfl, rfl, show (ringWay (onRingBoot .layout).b 1 0).isSome = true by decide +kernel, rfl, ring_good _ rfl rfl, Laws.ringSealed_length ..⟩,
   ⟨onRingBoot .layout, { inst := 0, data := [List.replicate 64 0] }, pk0 .layout, [], 0, rfl, rfl, rfl, show (ringWay (onRingBoot .layout).b 1 0).isSome = true by decide +kernel, rfl, by decide +kernel⟩,
   ⟨onRingBoot (.layoutAck 1), 1, 0, _, pk0 (.layoutAck 1), [], rfl, rfl, rfl, show (ringWay (onRingBoot (.layoutAck 1)).b 1 0).isSome = true by decide +kernel, ring_good (.layoutAck 1) rfl rfl, Laws.ringSealed_length .., rfl, rfl, rfl⟩,
   ⟨onBoot (fun o => { o with layout := some lay0 }), 1, by decide +kernel⟩⟩

theorem wit_BootImages :
    (∃ (s : State) (i k : Nat), s.b.boot.asked = some k ∧ s.b.boot.master = some i ∧ s.b.boot.sent = false ∧ s.b.boot.halted = false) ∧
    (∃ (s : State) (data : Bytes), data.length ≤ 4096 ∧ s.b.boot.sent = true ∧ s.b.boot.halted = false) ∧
    (∃ (s : State) (_l : LayoutImg), s.b.boot.sent = true ∧ s.b.boot.halted = false ∧ s.b.boot.asked = some 0) ∧
    (∃ (s : State) (slot : Bool) (_f : FwImg), s.b.boot.sent = true ∧ s.b.boot.halted = false ∧ s.b.boot.asked = some (if slot then 2 else 1) ∧ s.b.boot.aoFw.valid = true ∧ s.b.boot.aoFw.pending = false) ∧
    (∃ (s : State) (_res : List (Nat × Nat × BitVec 24 × BitVec 64)), s.b.boot.step = 8 ∧ s.b.boot.halted = false) ∧
    (∃ (s : State) (i : Nat), s.b.boot.master = some i ∧ s.b.boot.step = 11 ∧ s.b.boot.halted = false ∧ s.b.keys.store.phase = .idle) :=
  ⟨⟨onBoot (fun o => { o with asked := some 1 }), 0, 1, by decide +kernel⟩,
   ⟨onBoot (fun o => { o with sent := true }), [1, 2], by decide +kernel⟩,
   ⟨onBoot (fun o => { o with sent := true, asked := some 0, buf := [1, 2] }), lay0, by decide +kernel⟩,
   ⟨onBoot (fun o => { o with sent := true, asked := some 1, buf := [3], aoFw := { valid := true } }), false, fw0, by decide +kernel⟩,
   ⟨onBoot (fun o => { o with step := 8 }), [], by decide +kernel⟩,
   ⟨onBoot (fun o => { o with step := 11 }), 0, by decide +kernel⟩⟩

theorem wit_LifeCycleCommands :
    (∃ (s : State) (m : MbReq) (t : BitVec 2) (serial : BitVec 64) (j : MbJob) (b : Block), m.attr ≠ .m ∧ mailTaken m 0x0140 [.k, .d] s.b = some (j, b) ∧ lcyPermits b (lcOf t.toNat) m.attr serial = true ∧ b.trust.lcyReset = false ∧ mbBusy 0x0140 b = false) ∧
    (∃ (s : State) (m : MbReq) (layoutKey : Bool) (_hash : Digest) (j : MbJob) (b : Block), mailTaken m 0x0141 [.k, .d] s.b = some (j, b) ∧ (b.otp.lc = .test ∨ (b.otp.lc = .prod ∧ m.attr = .k)) ∧ doneBank b (if layoutKey then fLkey else fOpr) = none ∧ emptyBank b (if layoutKey then fLkey else fOpr) ≠ none ∧ mbBusy 0x0141 b = false) ∧
    (∃ s : State, s.b.trust.lcyReset = true) ∧
    (∃ (s : State) (m : MbReq) (j : MbJob) (b : Block), mailTaken m 0x0150 [.k, .m] s.b = some (j, b) ∧ b.otp.lc = .prod ∧ b.keys.mint.drbgOk = true) ∧
    (∃ (s : State) (m : MbReq) (_token : Bytes) (j : MbJob) (b : Block), mailTaken m 0x0151 [.k, .m] s.b = some (j, b) ∧ b.otp.lc = .prod) ∧
    (∃ (s : State) (m : MbReq) (_img : FwImg) (j : MbJob) (b : Block), mailTaken m 0x0160 [.k, .m] s.b = some (j, b) ∧ b.boot.aoFw.pending = false) ∧
    (∃ (s : State) (m : MbReq) (_reset : Bool) (j : MbJob) (b : Block), mailTaken m 0x0161 [.k, .m] s.b = some (j, b) ∧ b.boot.aoFw.staged = true) ∧
    (∃ (s : State) (d : SrqDesc) (rest : List SrqDesc) (h : Head) (a : Arb), srqNext s.b.keys.srq = some (d, rest) ∧ (primaryInst s.b).isSome = true ∧ arbPick (scuHeads s.b) s.b.cm.drr (Sparse.get {} s.b.cm.arb 1) = some (h, a) ∧ h.who = 400) ∧
    (∃ s : State, s.b.boot.hard = false ∧ 12 ≤ s.b.boot.step) :=
  ⟨⟨onLc .blank, mq0, 1, 5, ((mailTaken (mq0) 0x0140 [.k, .d] (onLc .blank).b).getD (mj0, (onLc .blank).b)).1, ((mailTaken (mq0) 0x0140 [.k, .d] (onLc .blank).b).getD (mj0, (onLc .blank).b)).2, by decide +kernel⟩,
   ⟨onLc .test, mq0, false, 9, ((mailTaken (mq0) 0x0141 [.k, .d] (onLc .test).b).getD (mj0, (onLc .test).b)).1, ((mailTaken (mq0) 0x0141 [.k, .d] (onLc .test).b).getD (mj0, (onLc .test).b)).2, by decide +kernel⟩,
   ⟨on (fun b => { b with trust := { b.trust with lcyReset := true } }), by decide +kernel⟩,
   ⟨onLc .prod, mq0, ((mailTaken (mq0) 0x0150 [.k, .m] (onLc .prod).b).getD (mj0, (onLc .prod).b)).1, ((mailTaken (mq0) 0x0150 [.k, .m] (onLc .prod).b).getD (mj0, (onLc .prod).b)).2, by decide +kernel⟩,
   ⟨st { (onLc .prod).b with boot := { base.boot with nonce := some 5 } }, mq0, [5], ((mailTaken (mq0) 0x0151 [.k, .m] (st { (onLc .prod).b with boot := { base.boot with nonce := some 5 } }).b).getD (mj0, (st { (onLc .prod).b with boot := { base.boot with nonce := some 5 } }).b)).1, ((mailTaken (mq0) 0x0151 [.k, .m] (st { (onLc .prod).b with boot := { base.boot with nonce := some 5 } }).b).getD (mj0, (st { (onLc .prod).b with boot := { base.boot with nonce := some 5 } }).b)).2, by decide +kernel⟩,
   ⟨s0, mq0, fw0, ((mailTaken (mq0) 0x0160 [.k, .m] (s0).b).getD (mj0, (s0).b)).1, ((mailTaken (mq0) 0x0160 [.k, .m] (s0).b).getD (mj0, (s0).b)).2, by decide +kernel⟩,
   ⟨on (fun b => { b with boot := { b.boot with aoFw := { staged := true } } }), mq0, true, ((mailTaken (mq0) 0x0161 [.k, .m] (on (fun b => { b with boot := { b.boot with aoFw := { staged := true } } })).b).getD (mj0, (on (fun b => { b with boot := { b.boot with aoFw := { staged := true } } })).b)).1, ((mailTaken (mq0) 0x0161 [.k, .m] (on (fun b => { b with boot := { b.boot with aoFw := { staged := true } } })).b).getD (mj0, (on (fun b => { b with boot := { b.boot with aoFw := { staged := true } } })).b)).2, by decide +kernel⟩,
   ⟨on (fun b => { b with keys := { b.keys with srq := [{ user := .store, op := .gcm [] [], prio := 0, key := 1, gen := 0, src := [], dst := 16 }] } }), { user := .store, op := .gcm [] [], prio := 0, key := 1, gen := 0, src := [], dst := 16 }, [], { who := 400, prio := 0, bound := 4000 }, { last := [400, 0, 0, 0] }, by decide +kernel, by decide +kernel, by decide +kernel, rfl⟩,
   ⟨s0, by decide +kernel⟩⟩

theorem wit_DomainMembership :
    (∃ (s : State) (m : MbReq) (_dka : Pkg) (_domain : BitVec 64) (j : MbJob) (b : Block), mailTaken m 0x0110 [.k] s.b = some (j, b) ∧ packageOos b = false ∧ b.trust.dom.state = .none) ∧
    (∃ (s : State) (h : DomHdr) (_nonce : Key) (b : Block), heard h (fun b => fromJoined b h || (b.trust.dom.state == .admitted && fromAuth b h)) s.b = some b) ∧
    (∃ (s : State) (h : DomHdr) (a : Admit) (b : Block), heard h (fun b => fromJoined b h && h.ident == a.dka) s.b = some b ∧ replicating b = false ∧ a.standby = none) ∧
    (∃ (s : State) (h : DomHdr) (_st : Status) (b : Block), heard h (fun b => fromJoined b h) s.b = some b) ∧
    (∃ s : State, s.b.trust.dom.state = .joining) ∧
    (∃ (s : State) (m : MbReq) (j : MbJob) (b : Block) (o : DomOut) (t : List DomOut), mailTaken m 0x0101 [.k] s.b = some (j, b) ∧ b.trust.dom.out = o :: t) ∧
    (∃ (s : State) (m : MbReq) (_x : DomMsg) (j : MbJob) (b : Block), mailTaken m 0x0102 [.k] s.b = some (j, b)) ∧
    (∃ (s : State) (h : DomHdr) (pkg : Pkg) (b : Block) (k : Nat) (e : Bind), heard h (fun b => fromAuth b h) s.b = some b ∧ pkg ≠ b.trust.dom.pkg ∧ bindOf b pkg = some (k, e)) ∧
    (∃ (s : State) (m : MbReq) (j : MbJob) (b : Block), mailTaken m 0x0111 [.k, .m] s.b = some (j, b) ∧ b.trust.dom.state = .admitted) :=
  ⟨⟨s0, mq0, 2, 7, ((mailTaken (mq0) 0x0110 [.k] (s0).b).getD (mj0, (s0).b)).1, ((mailTaken (mq0) 0x0110 [.k] (s0).b).getD (mj0, (s0).b)).2, by decide +kernel⟩,
   ⟨onJoin, hdr0, 3, heardB hdr0 onJoin, by decide +kernel⟩,
   ⟨onJoin, hdr0, { ct := 0, wrapped := [], epochN := 16, t0 := 0, grant := 5, polHash := 0, span := false, standby := none, dka := 22 }, heardB hdr0 onJoin, by decide +kernel⟩,
   ⟨onJoin, hdr0, .quota, heardB hdr0 onJoin, by decide +kernel⟩,
   ⟨onJoin, by decide +kernel⟩,
   ⟨onDom (fun d => { d with out := [{ dst := 2, body := .heartbeat, seq := 5 }] }), mq0, ((mailTaken (mq0) 0x0101 [.k] (onDom (fun d => { d with out := [{ dst := 2, body := .heartbeat, seq := 5 }] })).b).getD (mj0, (onDom (fun d => { d with out := [{ dst := 2, body := .heartbeat, seq := 5 }] })).b)).1, ((mailTaken (mq0) 0x0101 [.k] (onDom (fun d => { d with out := [{ dst := 2, body := .heartbeat, seq := 5 }] })).b).getD (mj0, (onDom (fun d => { d with out := [{ dst := 2, body := .heartbeat, seq := 5 }] })).b)).2, { dst := 2, body := .heartbeat, seq := 5 }, [], by decide +kernel⟩,
   ⟨onDom id, mq0, .heartbeat hdr0, ((mailTaken (mq0) 0x0102 [.k] (onDom id).b).getD (mj0, (onDom id).b)).1, ((mailTaken (mq0) 0x0102 [.k] (onDom id).b).getD (mj0, (onDom id).b)).2, by decide +kernel⟩,
   ⟨onDom id, hdr0, 3, heardB hdr0 (onDom id), 1, { state := .admitted, pkg := 3, ident := 33 }, by decide +kernel⟩,
   ⟨onDom id, mq0, ((mailTaken (mq0) 0x0111 [.k, .m] (onDom id).b).getD (mj0, (onDom id).b)).1, ((mailTaken (mq0) 0x0111 [.k, .m] (onDom id).b).getD (mj0, (onDom id).b)).2, by decide +kernel⟩⟩

theorem wit_DomainAuthority :
    (∃ (s : State) (h : DomHdr) (b : Block), heard h isDka s.b = some b ∧ b.trust.dom.binds.find? (fun e => e.2.ident == h.ident) = none ∧ bindOf b h.sender = none) ∧
    (∃ (s : State) (h : DomHdr) (b : Block), heard h isDka s.b = some b ∧ b.trust.dom.binds.find? (fun e => e.2.ident == h.ident) = none ∧ (bindOf b h.sender).isSome = true) ∧
    (∃ (s : State) (h : DomHdr) (e : Evidence) (b : Block) (c : Cand) (p : Policy), heard h (fun b => isDka b && (candOf b h.ident).isSome) s.b = some b ∧ candOf b h.ident = some c ∧ b.trust.dom.policy = some p ∧ c.again = false ∧ let b' := updDom (fun d => { d with cands := d.cands.filter (fun x => x.ident != h.ident) }) b; evidenceBad b' p h.sender c.ident c.nonce e = []) ∧
    (∃ (s : State) (pkg : Pkg) (k : Nat) (e : Bind), isDka s.b = true ∧ s.b.trust.dom.binds.filter (fun e => e.2.pkg == pkg && e.2.state == .quarantined && e.2.answered) = [(k, e)]) ∧
    (∃ (s : State) (h : DomHdr) (b : Block), heard h (fun b => isDka b && boundSender b h) s.b = some b) ∧
    (∃ (s : State) (h : DomHdr) (_pkg : Pkg) (_ident _ek : Digest) (_ok : Bool) (b : Block), heard h (fun b => fromAuth b h) s.b = some b ∧ replicating b = false) ∧
    (∃ (s : State) (ident : Digest), s.b.trust.dom.state ≠ .joining ∧ s.b.trust.dom.cands.any (fun c => c.ident == ident && !c.again) = true) ∧
    (∃ (s : State) (c : DomChg) (t : List DomChg), s.b.trust.dom.chg = c :: t) ∧
    (∃ s : State, s.b.trust.dom.role = .dka ∧ s.b.trust.dom.standby ≠ none) :=
  ⟨⟨onDka id, { hdr0 with sender := 4, ident := 44 }, heardB { hdr0 with sender := 4, ident := 44 } (onDka id), by decide +kernel⟩,
   ⟨onDka id, { hdr0 with sender := 3, ident := 44 }, heardB { hdr0 with sender := 3, ident := 44 } (onDka id), by decide +kernel⟩,
   ⟨onDka (fun d => { d with cands := [cand0], policy := some pol0 }), { hdr0 with sender := 4, ident := 44 }, evid0, heardB { hdr0 with sender := 4, ident := 44 } (onDka (fun d => { d with cands := [cand0], policy := some pol0 })), cand0, pol0, by dsimp only; decide +kernel⟩,
   ⟨onDka (fun d => { d with binds := d.binds ++ [(2, bindQ)] }), 4, 2, bindQ, by decide +kernel⟩,
   ⟨onDka id, hdr0, heardB hdr0 (onDka id), by decide +kernel⟩,
   ⟨onDom id, hdr0, 4, 44, 5, true, heardB hdr0 (onDom id), by decide +kernel⟩,
   ⟨onDka (fun d => { d with cands := [cand0], policy := some pol0 }), 44, by decide +kernel⟩,
   ⟨onDka (fun d => { d with chg := [.drop 3 33] }), .drop 3 33, [], by decide +kernel⟩,
   ⟨onDka (fun d => { d with standby := some (2, 22) }), by decide +kernel⟩⟩

theorem wit_DomainPairsAndEpochs :
    (∃ (s : State) (m : MbReq) (inst : Nat) (peer : Pkg) (j : MbJob) (b : Block) (k : Nat) (e : Bind), mailTaken m 0x0112 [.k] s.b = some (j, b) ∧ packageOos b = false ∧ b.trust.dom.state = .admitted ∧ peer ≠ b.trust.dom.pkg ∧ (instIn b inst).isEmpty = false ∧ bindOf b peer = some (k, e) ∧ e.state = .admitted) ∧
    (∃ (s : State) (peer : Pkg) (x : Hand), replicating s.b = false ∧ handOf s.b peer = some x ∧ x.done = false) ∧
    (∃ (s : State) (h : DomHdr) (ek : BitVec 12544) (_lcs : List Nat) (b : Block), (s.b.trust.dom.state == .admitted && !boundSender s.b h) = false ∧ heard h (fun b => helloKnown b h && ekMatches b h ek) s.b = some b ∧ replicating b = false ∧ handOf b h.sender = none) ∧
    (∃ (s : State) (h : DomHdr) (_ct : BitVec 12544) (_pairs : List (Nat × Nat × Bytes)) (b : Block) (x : Hand), heard h (fun b => helloKnown b h && ackAwaited b h.sender) s.b = some b ∧ replicating b = false ∧ handOf b h.sender = some x ∧ x.done = false ∧ x.pairs = []) ∧
    (∃ (s : State) (h : DomHdr) (_epoch : BitVec 24) (b : Block) (x : Hand), heard h (fun b => helloKnown b h && finAwaited b h.sender) s.b = some b ∧ replicating b = false ∧ handOf b h.sender = some x ∧ x.done = false ∧ x.pairs ≠ []) ∧
    (∃ (s : State) (h : DomHdr) (b : Block), heard h (fun b => boundSender b h || fromAuth b h) s.b = some b ∧ (b.trust.dom.role == .dka || b.trust.dom.role == .fenced) = true) ∧
    (∃ (s : State) (h : DomHdr) (b : Block), heard h (fun b => boundSender b h || fromAuth b h) s.b = some b ∧ (b.trust.dom.role == .dka || b.trust.dom.role == .fenced) = false ∧ fromAuth b h = true) ∧
    (∃ s : State, isDka s.b = true) ∧
    (∃ s : State, s.b.trust.dom.state = .admitted ∧ s.b.trust.dom.role = .standby ∧ beatLost s.b = true) ∧
    (∃ (s : State) (h : DomHdr) (b : Block), heard h (fun b => fromStandby b h) s.b = some b ∧ b.trust.dom.role = .member ∧ beatLost b = true) ∧
    (∃ (s : State) (h : DomHdr) (b : Block), heard h (fun b => b.trust.dom.role == .standby && boundSender b h) s.b = some b) ∧
    (∃ s : State, s.b.trust.dom.state = .admitted ∧ s.b.trust.dom.epoch < epochNow s.b) ∧
    (∃ (s : State) (h : DomHdr) (_mx : BitVec 24) (b : Block), heard h (fun b => fromAuth b h) s.b = some b) :=
  ⟨⟨onDom id, mq0, 0, 2, ((mailTaken (mq0) 0x0112 [.k] (onDom id).b).getD (mj0, (onDom id).b)).1, ((mailTaken (mq0) 0x0112 [.k] (onDom id).b).getD (mj0, (onDom id).b)).2, 0, { state := .admitted, pkg := 2, ident := 22 }, by decide +kernel⟩,
   ⟨onDom (fun d => { d with hands := [hand0] }), 2, hand0, by decide +kernel⟩,
   ⟨onDom id, hdr0, 5, [0], heardB hdr0 (onDom id), by decide +kernel⟩,
   ⟨onDom (fun d => { d with hands := [hand0] }), hdr0, 0, [(0, 5, [])], heardB hdr0 (onDom (fun d => { d with hands := [hand0] })), hand0, by decide +kernel⟩,
   ⟨onDom (fun d => { d with hands := [{ hand0 with pairs := [(0, 5, 3)] }] }), hdr0, 1, heardB hdr0 (onDom (fun d => { d with hands := [{ hand0 with pairs := [(0, 5, 3)] }] })), { hand0 with pairs := [(0, 5, 3)] }, by decide +kernel⟩,
   ⟨onDka id, hdr0, heardB hdr0 (onDka id), by decide +kernel⟩,
   ⟨onDom id, hdr0, heardB hdr0 (onDom id), by decide +kernel⟩,
   ⟨onDka id, by decide +kernel⟩,
   ⟨on (fun b => updDom (fun _ => { member with role := .standby }) { b with time := 60000000 }), by decide +kernel⟩,
   ⟨on (fun b => updDom (fun _ => { member with standby := some (3, 33) }) { b with time := 60000000 }), { hdr0 with sender := 3, ident := 33 }, heardB { hdr0 with sender := 3, ident := 33 } (on (fun b => updDom (fun _ => { member with standby := some (3, 33) }) { b with time := 60000000 })), by decide +kernel⟩,
   ⟨onDom (fun d => { d with role := .standby }), hdr0, heardB hdr0 (onDom (fun d => { d with role := .standby })), by decide +kernel⟩,
   ⟨on (fun b => updDom (fun _ => member) { b with time := 100000000000 }), by decide +kernel⟩,
   ⟨onDom id, hdr0, 9, heardB hdr0 (onDom id), by decide +kernel⟩⟩

theorem wit_SpdmResponder :
    (∃ (s : State) (_r : SpdmReq) (slot : Nat), answering s.b ∧ slot < 2) ∧
    (∃ (s : State) (_r : SpdmReq) (slot : Nat), answering s.b ∧ slot < 2) ∧
    (∃ (s : State) (_r : SpdmReq) (index : Nat), answering s.b ∧ (index ≤ 0x0A ∨ index = 0x20 ∨ index = 0xFF)) ∧
    (∃ (s : State) (r : SpdmReq) (mgmt : Bool) (exch : BitVec 768), answering s.b ∧ s.b.trust.att.sess.length < 8 ∧ ((mgmt = true → r.tr = .mctp)) ∧ s.b.keys.mint.drbgOk = true ∧ ecOn (ecOfXY (leBytes 96 exch.toNat)) = true) ∧
    (∃ (s : State) (r : SpdmReq) (root : Digest) (x : Sess), answering s.b ∧ r.sess.bind (fun n => s.b.trust.att.sess.find? (fun s => s.num == n && s.tr == r.tr && !s.done)) = some x ∧ ((x.mgmt = true → (doneBank s.b fOpr).isSome = true ∧ root = otpDigest s.b fOpr))) ∧
    (∃ (s : State) (r : SpdmReq) (x : Sess), answering s.b ∧ r.sess.bind (openSess s.b (some r.tr)) = some x) ∧
    (∃ (s : State) (_r : SpdmReq) (_last : Bool) (_data : Bytes), answering s.b) ∧
    (∃ (s : State) (_r : SpdmReq) (seq : Nat) (_last : Bool) (_data got : Bytes), answering s.b ∧ s.b.trust.att.chunk = some (seq + 1, got)) ∧
    (∃ (s : State) (_r : SpdmReq) (seq : Nat), answering s.b ∧ ((s.b.trust.att.big.drop (seq * Config.chunkBytes)).take Config.chunkBytes).isEmpty = false) :=
  ⟨⟨s0, sr0, 1, by decide +kernel⟩,
   ⟨s0, sr0, 0, by decide +kernel⟩,
   ⟨s0, sr0, 0x20, by decide +kernel⟩,
   ⟨s0, sr0, false, BitVec.ofNat 768 (leNat (ecXY ecBase)), by decide +kernel, by decide +kernel, by decide, by decide +kernel, by decide +kernel⟩,
   ⟨onSess { sessT with done := false }, sr1, 0, { sessT with done := false }, by decide +kernel⟩,
   ⟨onSess sessT, sr1, sessT, by decide +kernel⟩,
   ⟨s0, sr0, true, [1], by decide +kernel⟩,
   ⟨on (updAtt (fun a => { a with chunk := some (1, [2]) })), sr0, 0, true, [1], [2], by decide +kernel⟩,
   ⟨on (updAtt (fun a => { a with big := [1] })), sr0, 0, by decide +kernel, by simp [Config.chunkBytes, on, st, updAtt]⟩⟩

theorem wit_TenantsAndTdisp :
    (∃ (s : State) (r : SpdmReq) (x : Sess), speaksIn r x s.b) ∧
    (∃ (s : State) (r : SpdmReq) (x : Sess), speaksIn r x s.b ∧ ∃ pkg keep, isDka s.b = true ∧ s.b.trust.dom.binds.any (fun e => e.2.pkg == pkg && e.2.state == .quarantined && e.2.ident == keep) = true) ∧
    (∃ (s : State) (r : SpdmReq) (x : Sess), speaksIn r x s.b ∧ ∃ tag, inDomain s.b = true ∧ ctxsOf s.b tag ≠ [] ∧ (getTInst s.b tag.toNat).tdisp = true ∧ (getTInst s.b tag.toNat).state = .run ∧ (getTInst s.b tag.toNat).sess = some x.num) ∧
    (∃ (s : State) (r : SpdmReq) (x : Sess) (len : Nat), speaksIn r x s.b ∧ isDka s.b = true ∧ len ≤ 65536) ∧
    (∃ (s : State) (r : SpdmReq) (x : Sess), speaksIn r x s.b ∧ isDka s.b = true) ∧
    (∃ (s : State) (r : SpdmReq) (x : Sess) (tag : Tag), speaksIn r x s.b ∧ r.tr = .doe ∧ (getTInst s.b tag.toNat).state ≠ .free) ∧
    (∃ (s : State) (r : SpdmReq) (x : Sess) (tag : Tag), speaksIn r x s.b ∧ r.tr = .doe ∧ (getTInst s.b tag.toNat).tdisp = true ∧ (getTInst s.b tag.toNat).state = .config) ∧
    (∃ (s : State) (r : SpdmReq) (x : Sess) (tag : Tag), speaksIn r x s.b ∧ r.tr = .doe ∧ (getTInst s.b tag.toNat).tdisp = true ∧ (getTInst s.b tag.toNat).state = .locked ∧ streamActive s.b (getTInst s.b tag.toNat).stream = true) ∧
    (∃ (s : State) (r : SpdmReq) (x : Sess) (tag : Tag), speaksIn r x s.b ∧ r.tr = .doe ∧ (getTInst s.b tag.toNat).tdisp = true ∧ (getTInst s.b tag.toNat).state = .run) ∧
    (∃ (s : State) (m : MbReq) (j : MbJob) (b : Block), mailTaken m 0x0103 [.k] s.b = some (j, b)) ∧
    (∃ (s : State) (m : MbReq) (tag : Tag) (_pasid : BitVec 20) (_tdisp : Bool) (_ifid : BitVec 16) (j : MbJob) (b : Block), mailTaken m 0x0120 [.k] s.b = some (j, b) ∧ packageOos b = false ∧ (b.trust.tinst.filter (fun t => t.2.state != .free)).length < 64 ∧ (getTInst b tag.toNat).state = .free) ∧
    (∃ (s : State) (m : MbReq) (tag : Tag) (j : MbJob) (b : Block), mailTaken m 0x0121 [.k, .m] s.b = some (j, b) ∧ (getTInst b tag.toNat).state ≠ .free ∧ (getTInst b tag.toNat).dying = false) :=
  ⟨⟨st (tenantBase tinst0 ((updDom (fun _ => dka) base))), sr1, sessT, by decide +kernel⟩,
   ⟨st (tenantBase { state := .free } ((updDom (fun _ => { dka with binds := [(2, bindQ)] }) base))), sr1, sessT, by decide +kernel, 4, 44, by decide +kernel, by decide +kernel⟩,
   ⟨st (tenantBase tinst0 ((updDom (fun _ => dka) base))), sr1, sessT, by decide +kernel, 0, by decide +kernel, by decide +kernel, by decide +kernel, by decide +kernel, by decide +kernel⟩,
   ⟨st (tenantBase tinst0 ((updDom (fun _ => dka) base))), sr1, sessT, 65536, by decide +kernel⟩,
   ⟨st (tenantBase tinst0 ((updDom (fun _ => dka) base))), sr1, sessT, by decide +kernel⟩,
   ⟨st (tenantBase tinst0 (base)), sr1, sessT, 0, by decide +kernel⟩,
   ⟨st (tenantBase { state := .config, tdisp := true } (base)), sr1, sessT, 0, by decide +kernel⟩,
   ⟨st (tenantBase { state := .locked, tdisp := true } ((updIde (fun i => { i with streams := [{ num := 0, prog := [(0, false, false)], active := [(0, false, false)] }] }) base))), sr1, sessT, 0, by decide +kernel⟩,
   ⟨st (tenantBase tinst0 (base)), sr1, sessT, 0, by decide +kernel⟩,
   ⟨s0, mq0, ((mailTaken (mq0) 0x0103 [.k] (s0).b).getD (mj0, (s0).b)).1, ((mailTaken (mq0) 0x0103 [.k] (s0).b).getD (mj0, (s0).b)).2, by decide +kernel⟩,
   ⟨s0, mq0, 0, 3, true, 4, ((mailTaken (mq0) 0x0120 [.k] (s0).b).getD (mj0, (s0).b)).1, ((mailTaken (mq0) 0x0120 [.k] (s0).b).getD (mj0, (s0).b)).2, by decide +kernel⟩,
   ⟨st (tenantBase tinst0 (base)), mq0, 0, ((mailTaken (mq0) 0x0121 [.k, .m] (st (tenantBase tinst0 (base))).b).getD (mj0, (st (tenantBase tinst0 (base))).b)).1, ((mailTaken (mq0) 0x0121 [.k, .m] (st (tenantBase tinst0 (base))).b).getD (mj0, (st (tenantBase tinst0 (base))).b)).2, by decide +kernel⟩⟩

theorem wit_Migrations :
    (∃ (s : State) (m : MbReq) (tag : Tag) (peer : Pkg) (_kem : BitVec 12544) (_transcript : Bytes) (j : MbJob) (b : Block) (k : Nat), mailTaken m 0x0130 [.k] s.b = some (j, b) ∧ replicating b = false ∧ b.trust.dom.state = .admitted ∧ boundPeer b peer = true ∧ migOf b tag = none ∧ freeKey b = some k ∧ (getTInst b tag.toNat).state ≠ .free ∧ (getTInst b tag.toNat).state ≠ .error ∧ podOf peer = podOf b.trust.dom.pkg ∧ b.keys.mint.drbgOk = true) ∧
    (∃ (s : State) (m : MbReq) (tag : Tag) (peer : Pkg) (_kem : BitVec 12544) (_transcript : Bytes) (j : MbJob) (b : Block) (k : Nat), mailTaken m 0x0130 [.k] s.b = some (j, b) ∧ replicating b = false ∧ b.trust.dom.state = .admitted ∧ boundPeer b peer = true ∧ migOf b tag = none ∧ freeKey b = some k ∧ (getTInst b tag.toNat).state = .free) ∧
    (∃ (s : State) (m : MbReq) (tag : Tag) (j : MbJob) (b : Block), mailTaken m 0x0131 [.k] s.b = some (j, b) ∧ (migOf b tag).any (fun g => g.source && !g.aborted && !g.committed) = true ∧ (getTInst b tag.toNat).state = .run) ∧
    (∃ (s : State) (tag : Tag), (migOf s.b tag).any (fun g => g.source && !g.frozen) = true ∧ (getTInst s.b tag.toNat).state = .frozen) ∧
    (∃ (s : State) (m : MbReq) (tag : Tag) (j : MbJob) (b : Block) (g : Mig), mailTaken m 0x0132 [.k] s.b = some (j, b) ∧ migOf b tag = some g ∧ g.source = true ∧ g.frozen = true ∧ g.aborted = false ∧ g.committed = false ∧ blobBytes (blobOf b tag g.kek) ≤ 262144) ∧
    (∃ (s : State) (m : MbReq) (tag : Tag) (blob : MigBlob) (_data : Bytes) (j : MbJob) (b b' : Block) (g : Mig), mailTaken m 0x0133 [.k] s.b = some (j, b) ∧ replicating b = false ∧ migOf b tag = some g ∧ g.source = false ∧ g.restored = false ∧ restoreBlob tag g.kek blob b = .ok b') ∧
    (∃ (s : State) (m : MbReq) (tag : Tag) (j : MbJob) (b : Block) (g : Mig), mailTaken m 0x0134 [.k] s.b = some (j, b) ∧ migOf b tag = some g ∧ g.committed = false ∧ g.aborted = false) ∧
    (∃ (s : State) (h : DomHdr) (tag : Tag) (b : Block) (g : Mig), heard h (fun b => fromMigPeer b h tag true) s.b = some b ∧ migOf b tag = some g ∧ g.aborted = false ∧ g.committed = false) ∧
    (∃ (s : State) (h : DomHdr) (tag : Tag) (_go : Bool) (b : Block), heard h (fun b => fromMigPeer b h tag false) s.b = some b ∧ (migOf b tag).any (fun g => g.restored) = true) ∧
    (∃ (s : State) (tag : Tag) (_released : Bool) (g : Mig) (p : Pkg) (i : Digest), migOf s.b tag = some g ∧ g.source = false ∧ g.restored = true ∧ s.b.trust.dom.auth = some (p, i) ∧ p ≠ s.b.trust.dom.pkg) ∧
    (∃ (s : State) (h : DomHdr) (_pkg : Pkg) (b : Block), heard h (fun b => fromAuth b h) s.b = some b) ∧
    (∃ (s : State) (pkg : Pkg), isDka s.b = true ∧ boundPeer s.b pkg = true ∧ s.b.fo.witness.find? (fun e => e.1 == pkg.toNat) = none) :=
  ⟨⟨onMig [] tinst0, mq0, 0, 2, 0, [], ((mailTaken (mq0) 0x0130 [.k] (onMig [] tinst0).b).getD (mj0, (onMig [] tinst0).b)).1, ((mailTaken (mq0) 0x0130 [.k] (onMig [] tinst0).b).getD (mj0, (onMig [] tinst0).b)).2, 16, by decide +kernel⟩,
   ⟨onMig [] {}, mq0, 0, 2, 0, [], ((mailTaken (mq0) 0x0130 [.k] (onMig [] {}).b).getD (mj0, (onMig [] {}).b)).1, ((mailTaken (mq0) 0x0130 [.k] (onMig [] {}).b).getD (mj0, (onMig [] {}).b)).2, 16, by decide +kernel⟩,
   ⟨onMig [{ mig0 with frozen := false }] tinst0, mq0, 0, ((mailTaken (mq0) 0x0131 [.k] (onMig [{ mig0 with frozen := false }] tinst0).b).getD (mj0, (onMig [{ mig0 with frozen := false }] tinst0).b)).1, ((mailTaken (mq0) 0x0131 [.k] (onMig [{ mig0 with frozen := false }] tinst0).b).getD (mj0, (onMig [{ mig0 with frozen := false }] tinst0).b)).2, by decide +kernel⟩,
   ⟨onMig [{ mig0 with frozen := false }] { tinst0 with state := .frozen }, 0, by decide +kernel⟩,
   ⟨onMig [mig0] tinst0, mq0, 0, ((mailTaken (mq0) 0x0132 [.k] (onMig [mig0] tinst0).b).getD (mj0, (onMig [mig0] tinst0).b)).1, ((mailTaken (mq0) 0x0132 [.k] (onMig [mig0] tinst0).b).getD (mj0, (onMig [mig0] tinst0).b)).2, mig0, by decide +kernel⟩,
   ⟨onMig [{ mig0 with source := false }] tinst0, mq0, 0, blob0, [], ((mailTaken (mq0) 0x0133 [.k] (onMig [{ mig0 with source := false }] tinst0).b).getD (mj0, (onMig [{ mig0 with source := false }] tinst0).b)).1, ((mailTaken (mq0) 0x0133 [.k] (onMig [{ mig0 with source := false }] tinst0).b).getD (mj0, (onMig [{ mig0 with source := false }] tinst0).b)).2, (((mailTaken (mq0) 0x0133 [.k] (onMig [{ mig0 with source := false }] tinst0).b).getD (mj0, (onMig [{ mig0 with source := false }] tinst0).b)).2), { mig0 with source := false }, by decide +kernel⟩,
   ⟨onMig [mig0] tinst0, mq0, 0, ((mailTaken (mq0) 0x0134 [.k] (onMig [mig0] tinst0).b).getD (mj0, (onMig [mig0] tinst0).b)).1, ((mailTaken (mq0) 0x0134 [.k] (onMig [mig0] tinst0).b).getD (mj0, (onMig [mig0] tinst0).b)).2, mig0, by decide +kernel⟩,
   ⟨onMig [mig0] tinst0, hdr0, 0, heardB hdr0 (onMig [mig0] tinst0), mig0, by decide +kernel⟩,
   ⟨onMig [{ mig0 with source := false, restored := true }] tinst0, hdr0, 0, true, heardB hdr0 (onMig [{ mig0 with source := false, restored := true }] tinst0), by decide +kernel⟩,
   ⟨onMig [{ mig0 with source := false, restored := true }] tinst0, 0, true, { mig0 with source := false, restored := true }, 2, 22, by decide +kernel⟩,
   ⟨onDom id, hdr0, 3, heardB hdr0 (onDom id), by decide +kernel⟩,
   ⟨onDka id, 3, by decide +kernel⟩⟩

theorem wit_Failover :
    (∃ (s : State) (m : Mut) (t : List Mut), s.b.fo.repl = m :: t) ∧
    (∃ s : State, s.b.fo.copying = true ∧ s.b.fo.sp ≠ .acting ∧ (spInst s.b).isSome = true) ∧
    (∃ (s : State) (reached p : Nat) (w : Pkg), ppInst s.b = some p ∧ witnessOf s.b = some w ∧ isPrimary s.b p = true ∧ (s.b.inst.filter (fun e => e.2.built)).length < 2 * reached) ∧
    (∃ (s : State) (t : BitVec 64) (p : Nat), s.b.fo.leaseEnd = some t ∧ ppInst s.b = some p ∧ t.toNat ≤ s.b.time.toNat ∧ (witnessOf s.b).isSome = true ∧ s.b.fo.ppFenced = false ∧ s.b.fo.sp ≠ .acting) ∧
    (∃ s : State, (spInst s.b).isSome = true) ∧
    (∃ (s : State) (w : Pkg), s.b.fo.sp = .standby ∧ witnessOf s.b = some w) ∧
    (∃ (s : State) (pkg : Pkg) (late : Nat), (primaryInst s.b).isSome = true ∧ boundPeer s.b pkg = true ∧ 10000000 ≤ late) ∧
    (∃ s : State, s.b.fo.sp = .standby ∧ s.b.fo.asking = true) ∧
    (∃ (s : State) (p : Nat) (w : Pkg), ppInst s.b = some p ∧ isPrimary s.b p = true ∧ witnessOf s.b = some w ∧ s.b.fo.sp = .standby) :=
  ⟨⟨on (updFo (fun f => { f with repl := [.rueSweepVisit 3] })), .rueSweepVisit 3, [], by decide +kernel⟩,
   ⟨spBase (fun f => { f with copying := true }), by decide +kernel⟩,
   ⟨spBase id, 2, 0, 2, by decide +kernel⟩,
   ⟨spBase (fun f => { f with leaseEnd := some 0 }), 0, 0, by decide +kernel⟩,
   ⟨spBase id, by decide +kernel⟩,
   ⟨spBase (fun f => { f with sp := .standby }), 2, by decide +kernel⟩,
   ⟨spBase id, 2, 10000000, by decide +kernel⟩,
   ⟨spBase (fun f => { f with sp := .standby, asking := true }), by decide +kernel⟩,
   ⟨spBase (fun f => { f with sp := .standby }), 0, 2, by decide +kernel⟩⟩

theorem wit_ContextObjects :
    (∃ (s : State) (src : Src) (b : Block), takenLocal src 0x00 s.b = some b) ∧
    (∃ (s : State) (src : Src) (b : Block) (i : Nat), taken .none src 0x01 0 s.b = some b ∧ replicating b = false ∧ packageOos b = false ∧ let r := reqOf b src; let tag : Tag := BitVec.ofNat 6 (fieldNat (srcOp b src 40) 5 0); ((isDriver b r = true ∧ kClosed b tag = false) ∨ (isDriver b r = false ∧ tag = r.tag)) ∧ lowestFrom (fun k => (getCtx b k).state == .free) 65536 0 = some i) ∧
    (∃ (s : State) (src : Src) (b : Block) (i : Nat), taken .none src 0x02 0 s.b = some b ∧ replicating b = false ∧ nameObj b (reqOf b src) [tyCtx] (srcOp b src 40) = (.ok, tyCtx, i) ∧ (getRef b tyCtx i).creator = true) ∧
    (∃ (s : State) (src : Src) (b : Block) (i : Nat), taken .none src 0x11 0 s.b = some b ∧ replicating b = false ∧ nameObj b (reqOf b src) [tyQueue] (srcOp b src 40) = (.ok, tyQueue, i) ∧ (getRef b tyQueue i).creator = true) ∧
    (∃ (s : State) (src : Src) (b : Block) (c q ty : Nat), taken .none src 0x10 0 s.b = some b ∧ replicating b = false ∧ let prio := fieldNat (srcOp b src 48) 1 0; let log2 := fieldNat (srcOp b src 56) 4 0; nameObj b (reqOf b src) [tyCtx] (srcOp b src 40) = (.ok, ty, c) ∧ 3 ≤ log2 ∧ log2 ≤ 16 ∧ ((prio = 0 → isDriver b (reqOf b src) = true)) ∧ lowestFrom (fun k => (getQueue b k).state == .free) 256 0 = some q) ∧
    (∃ (s : State) (src : Src) (b : Block) (q ty : Nat), taken .none src 0x12 0 s.b = some b ∧ replicating b = false ∧ nameObj b (reqOf b src) [tyQueue] (srcOp b src 40) = (.ok, ty, q) ∧ partitionReset b (getQueue b q).ctx = false) ∧
    (∃ (s : State) (src : Src) (b : Block) (k : Nat), taken .none src 0x20 0 s.b = some b ∧ replicating b = false ∧ lowestFrom (fun k => !(getFence b k).live) (2 ^ 20) 0 = some k) ∧
    (∃ (s : State) (src : Src) (b : Block) (ty i : Nat), taken .none src 0x30 0 s.b = some b ∧ replicating b = false ∧ nameHeld b src = (.ok, ty, i) ∧ (getRef b ty i).ref < 2 ^ 32 - 1) ∧
    (∃ (s : State) (src : Src) (b : Block) (ty i : Nat), taken .none src 0x31 0 s.b = some b ∧ replicating b = false ∧ nameHeld b src = (.ok, ty, i)) ∧
    (∃ (s : State) (type : BitVec 4) (i : Nat), replicating s.b = false ∧ (getRef s.b type.toNat i).dying = true) ∧
    (∃ (s : State) (i : Nat), replicating s.b = false ∧ (getRef s.b tyCtx i).dying = true ∧ ctxEmpty s.b (BitVec.ofNat 16 i) = true) :=
  ⟨⟨objCmd 0 [], .kport, (takenLocal .kport 0 (objCmd 0 []).b).getD (objCmd 0 []).b, by decide +kernel⟩,
   ⟨objCmd 1 [0], .kport, (taken .none (.kport) 1 0 (objCmd 1 [0]).b).getD (objCmd 1 [0]).b, 0, by dsimp only; decide +kernel⟩,
   ⟨objCmd 2 [17], .kport, (taken .none (.kport) 2 0 (objCmd 2 [17]).b).getD (objCmd 2 [17]).b, 1, by decide +kernel⟩,
   ⟨objCmd 17 [82], .kport, (taken .none (.kport) 17 0 (objCmd 17 [82]).b).getD (objCmd 17 [82]).b, 5, by decide +kernel⟩,
   ⟨objCmd 16 [17, 1, 3], .kport, (taken .none (.kport) 16 0 (objCmd 16 [17, 1, 3]).b).getD (objCmd 16 [17, 1, 3]).b, 1, 0, 1, by dsimp only; decide +kernel⟩,
   ⟨objCmd 18 [82], .kport, (taken .none (.kport) 18 0 (objCmd 18 [82]).b).getD (objCmd 18 [82]).b, 5, 2, by decide +kernel⟩,
   ⟨objCmd 32 [], .kport, (taken .none (.kport) 32 0 (objCmd 32 []).b).getD (objCmd 32 []).b, 0, by decide +kernel⟩,
   ⟨objCmd 48 [17], .kport, (taken .none (.kport) 48 0 (objCmd 48 [17]).b).getD (objCmd 48 [17]).b, 1, 1, by decide +kernel⟩,
   ⟨objCmd 49 [17], .kport, (taken .none (.kport) 49 0 (objCmd 49 [17]).b).getD (objCmd 49 [17]).b, 1, 1, by decide +kernel⟩,
   ⟨on (fun b => updRef tyCtx 1 (fun r => { r with dying := true }) (updRef tyFence 4 (fun r => { r with dying := true }) b)), 6, 4, by decide +kernel⟩,
   ⟨on (fun b => updRef tyCtx 1 (fun r => { r with dying := true }) (updRef tyFence 4 (fun r => { r with dying := true }) b)), 1, by decide +kernel⟩⟩

theorem wit_ContextRegisters :
    (∃ (s : State) (z : ZReq) (w : Word), served s.b z .ctx ∧ z.attr = .k ∧ fieldBit w 0 = true ∧ let b := zcpRsp z.inst .ok s.b; let c := cmdOfSlots ((List.range 16).flatMap (fun k => leBytes 8 (wordOf b.cm.kport.slot.toNat k).toNat)) 0; let named : Option Ctx := if fieldBit w 1 then some (BitVec.ofNat 16 (fieldNat w 31 16)) else none; b.cm.kport.busy = false ∧ kportChecks b c named = [] ∧ headerBad b { c with flags := c.flags &&& ~~~ 1 } = false) ∧
    (∃ (s : State) (z : ZReq) (w : Word) (d : Block), served s.b z .ctx ∧ z.attr = .k ∧ let b := zcpRsp z.inst .ok s.b; b.cm.storeLock = false ∧ fieldBit w 0 = true ∧ lockStore (fieldNat w 38 8) b = .ok d) ∧
    (∃ (s : State) (z : ZReq) (w : Word) (d : Block), served s.b z .jnl ∧ z.attr = .k ∧ let b := zcpRsp z.inst .ok s.b; b.jnl.lock = false ∧ fieldBit w 0 = true ∧ lockJournal (fieldNat w 38 8) b = .ok d) ∧
    (∃ (s : State) (z : ZReq) (_w : Word), served s.b z .ctx ∧ z.attr = .k ∧ (zcpRsp z.inst .ok s.b).cm.storeLock = true) ∧
    (∃ (s : State) (z : ZReq) (_w : Word), served s.b z .jnl ∧ z.attr = .k ∧ (zcpRsp z.inst .ok s.b).jnl.lock = true) :=
  ⟨⟨on (fun b => { b with cm := { b.cm with kport := { slot := 2 ^ 16 } } }), kz, 1, by dsimp only; decide +kernel⟩,
   ⟨st { roomy with jnl := {} }, kz, 1 + 100 * 2 ^ 8, _, by decide +kernel, by decide, by decide +kernel, by decide +kernel, except_ok base (by decide +kernel)⟩,
   ⟨st { roomy with jnl := {} }, kz, 1 + 100 * 2 ^ 8, _, by decide +kernel, by decide, by decide +kernel, by decide +kernel, except_ok base (by decide +kernel)⟩,
   ⟨s0, kz, 1, by decide +kernel⟩,
   ⟨s0, kz, 1, by decide +kernel⟩⟩

theorem wit_ContextSeal :
    (∃ (s : State) (src : Src) (b : Block) (c : Ctx), taken .none src 0x03 0 s.b = some b ∧ replicating b = false ∧ let k := fieldNat (srcOp b src 40) 5 0; let base := (srcOp b src 48).toNat; let sram := (srcOp b src 56).toNat; let states := min 512 (Config.stateLines b.freeCtr).toNat; let total := states + sram; let d := (fresh b).2; (getSlot d k).ctx = some c ∧ (getSlot d k).wr = none ∧ sram ≤ 268435456 ∧ base % 128 = 0 ∧ base + 128 * total ≤ 2 ^ 52 ∧ imageServed d (base / 128) total = true ∧ (getRef d tyCtx c.toNat).dying = false ∧ mayUse d (reqOf d src) tyCtx c.toNat = true ∧ streamsBusy d false (base / 128) total = false) ∧
    (∃ (s : State) (src : Src) (b : Block) (c ty : Nat), taken .none src 0x04 0 s.b = some b ∧ replicating b = false ∧ packageOos b = false ∧ let k := fieldNat (srcOp b src 48) 5 0; nameObj b (reqOf b src) [tyCtx] (srcOp b src 40) = (.ok, ty, c) ∧ (srcOp b src 48).toNat < 64 ∧ (getSlot b k).rd = none ∧ (getSlot b k).ctx = none ∧ ctxMoving b (BitVec.ofNat 16 c) = false ∧ (getCtx b c).state = .defined) ∧
    (∃ (s : State) (src : Src) (b : Block) (c ty : Nat), taken .none src 0x04 0 s.b = some b ∧ replicating b = false ∧ packageOos b = false ∧ let k := fieldNat (srcOp b src 48) 5 0; nameObj b (reqOf b src) [tyCtx] (srcOp b src 40) = (.ok, ty, c) ∧ (srcOp b src 48).toNat < 64 ∧ (getSlot b k).rd = none ∧ (getSlot b k).ctx = none ∧ ctxMoving b (BitVec.ofNat 16 c) = false ∧ (getCtx b c).state = .sealed ∧ streamsBusy b true ((getCtx b c).base / 128) (getCtx b c).lines = false) ∧
    (∃ (s : State) (n : Nat) (write : Bool) (rq : MnReq) (_data : Line) (_sb : Sideband) (k : Nat) (j : SealJob), streamOf s.b (!write) rq.addr.toNat = some (k, j) ∧ (mapLine s.b rq.addr.toNat).map (·.1) = some n ∧ rq.ctx = j.ctx ∧ rq.tag = (getCtx s.b j.ctx.toNat).tag ∧ streamTakes s.b j n rq.addr.toNat = true) ∧
    (∃ (b : Block) (_n _k : Nat) (j : SealJob) (rq : MnReq) (data : Line) (sb : Sideband), let l := rq.addr.toNat; let chk := imageCheck b j l data sb; let st := statusWorst (chk.early ++ chk.late); st = .ok) ∧
    (∃ (b : Block) (_n _k : Nat) (j : SealJob) (rq : MnReq) (data : Line) (sb : Sideband), let l := rq.addr.toNat; let chk := imageCheck b j l data sb; let st := statusWorst (chk.early ++ chk.late); statusFailing st = true) ∧
    (∃ (s : State) (k : Nat) (j : SealJob), replicating s.b = false ∧ (getSlot s.b k).wr = some j ∧ j.started = true ∧ j.lines ≤ j.got) ∧
    (∃ (s : State) (k : Nat) (j : SealJob), replicating s.b = false ∧ (getSlot s.b k).rd = some j ∧ (getSlot s.b k).wr = none ∧ j.lines ≤ j.got ∧ j.digest = (getCtx s.b j.ctx.toNat).digest) ∧
    (∃ (s : State) (k : Nat) (j : SealJob), replicating s.b = false ∧ (getSlot s.b k).rd = some j ∧ (getSlot s.b k).wr = none ∧ j.lines ≤ j.got ∧ j.digest ≠ (getCtx s.b j.ctx.toNat).digest) ∧
    (∃ (s : State) (k : Nat), replicating s.b = false ∧ (getSlot s.b k).wr ≠ none) ∧
    (∃ (s : State) (k : Nat), replicating s.b = false ∧ (getSlot s.b k).rd ≠ none) :=
  ⟨(by
    refine ⟨sealCmd, .kport, sealBlock, 1, by decide +kernel, by decide +kernel, ?_⟩
    have h48 : (srcOp sealBlock .kport 48).toNat = 0 := by decide +kernel
    have h56 : (srcOp sealBlock .kport 56).toNat = 0 := by decide +kernel
    have hs : (fresh sealBlock).2.cm.slots = [(0, { ctx := some 1 })] := by decide +kernel
    dsimp only
    rw [h48, h56]
    exact ⟨by decide +kernel, by decide +kernel, by decide, by decide, by omega, seal_room (by omega), by decide +kernel, by decide +kernel,
      by simp [streamsBusy, streamsOn, hs]⟩),
   ⟨objCmd 4 [17, 0, 0], .kport, (taken .none (.kport) 4 0 (objCmd 4 [17, 0, 0]).b).getD (objCmd 4 [17, 0, 0]).b, 1, 1, by dsimp only; decide +kernel⟩,
   ⟨st (updCtx 1 (fun c => { c with state := .sealed }) (objCmd 4 [17, 0, 0]).b), .kport, (taken .none (.kport) 4 0 (st (updCtx 1 (fun c => { c with state := .sealed }) (objCmd 4 [17, 0, 0]).b)).b).getD (st (updCtx 1 (fun c => { c with state := .sealed }) (objCmd 4 [17, 0, 0]).b)).b, 1, 1, by dsimp only; decide +kernel⟩,
   ⟨st (slotBase (some { seal0 with got := 0, states := 0 }) none), 0, true, { rq0 with ctx := 1 }, 0, 0, 0, { seal0 with got := 0, states := 0 }, by decide +kernel⟩,
   ⟨slotBase none (some seal0), 0, 0, seal0, { rq0 with ctx := 1 }, 0, image0 0, by
      have h := image_statuses (g := 0) (by decide)
      show statusWorst ((imageCheck (slotBase none (some seal0)) seal0 0 0 (image0 0)).early ++ (imageCheck (slotBase none (some seal0)) seal0 0 0 (image0 0)).late) = .ok
      rw [h.1, h.2]
      rfl⟩,
   ⟨slotBase none (some seal0), 0, 0, seal0, { rq0 with ctx := 1 }, 0, image0 1, by
      have h := image_statuses (g := 1) (by decide)
      show statusFailing (statusWorst ((imageCheck (slotBase none (some seal0)) seal0 0 0 (image0 1)).early ++ (imageCheck (slotBase none (some seal0)) seal0 0 0 (image0 1)).late)) = true
      rw [h.1, h.2]
      rfl⟩,
   ⟨st (slotBase (some seal0) none), 0, seal0, by decide +kernel⟩,
   ⟨st (slotBase none (some seal0)), 0, seal0, by decide +kernel⟩,
   ⟨st (slotBase none (some { seal0 with digest := 9 })), 0, { seal0 with digest := 9 }, by decide +kernel⟩,
   ⟨st (slotBase (some seal0) none), 0, by decide +kernel⟩,
   ⟨st (slotBase none (some seal0)), 0, by decide +kernel⟩⟩

theorem wit_CommandQueues :
    (∃ (s : State) (z : ZReq) (q : Nat) (w : Word), served s.b z .ctx ∧ let b := zcpRsp z.inst .ok s.b; let x := getQueue b q; let t : BitVec 32 := BitVec.ofNat 32 (fieldNat w 31 0); replicating b = false ∧ (z.attr = .k ∨ z.tag = x.tag) ∧ x.state ≠ .free ∧ x.state ≠ .dying ∧ (t - x.head).toNat ≤ 2 ^ x.log2 ∧ (x.tail - x.head).toNat ≤ (t - x.head).toNat) ∧
    (∃ (s : State) (q : Nat) (_slots : Line) (_rd : Status), replicating s.b = false ∧ queueMayStart s.b q = true) ∧
    (∃ (b : Block) (q : Nat) (slots : Line) (rd : Status), queueMayStart b q = true ∧ let x := getQueue b q; let c := cmdOfSlots (lineBytes slots) x.head; let r := linesAccess (srcReq b (.queue q)) false (slotLines x c.long) rd b; statusFailing r.1 = true) ∧
    (∃ (b : Block) (q : Nat) (slots : Line) (rd : Status), queueMayStart b q = true ∧ let x := getQueue b q; let c := cmdOfSlots (lineBytes slots) x.head; let r := linesAccess (srcReq b (.queue q)) false (slotLines x c.long) rd b; let b1 := updQueue q (fun x => { x with part := none }) r.2; statusFailing r.1 = false ∧ headerBad b1 c = true) ∧
    (∃ (b : Block) (q : Nat) (slots : Line) (rd : Status), queueMayStart b q = true ∧ let x := getQueue b q; let c := cmdOfSlots (lineBytes slots) x.head; let r := linesAccess (srcReq b (.queue q)) false (slotLines x c.long) rd b; let b1 := updQueue q (fun x => { x with part := none }) r.2; statusFailing r.1 = false ∧ headerBad b1 c = false ∧ c.long = true ∧ (x.tail - x.head).toNat < 2) ∧
    (∃ (b : Block) (q : Nat) (slots : Line) (rd : Status), queueMayStart b q = true ∧ let x := getQueue b q; let c := cmdOfSlots (lineBytes slots) x.head; let r := linesAccess (srcReq b (.queue q)) false (slotLines x c.long) rd b; let b1 := updQueue q (fun x => { x with part := none }) r.2; statusFailing r.1 = false ∧ headerBad b1 c = false ∧ ((c.long = true → 2 ≤ (x.tail - x.head).toNat)) ∧ x.drain = none ∧ cmdSig c = false ∧ let b2 := updQueue q (fun x => { x with head := x.head + (if c.long then 2 else 1), cmd := some c }) b1; (getTInst b2 (reqOf b1 (.queue q)).tag.toNat).state ≠ .frozen) ∧
    (∃ (s : State) (q : Nat) (wr : Status) (c : Cmd), let x := getQueue s.b q; let at' := x.comp + 16 * (x.cdone.toNat % 2 ^ x.log2); let r := lineAccess (srcReq s.b (.queue q) (at' / 128)) true wr s.b; replicating s.b = false ∧ x.cmd = some c ∧ c.phase = .record ∧ statusFailing r.1 = false) :=
  ⟨⟨st (queueBase id), kz, 5, 8, by dsimp only; decide +kernel⟩,
   ⟨st (queueBase id), 5, 2 ^ 16, .ok, by decide +kernel⟩,
   ⟨queueBase id, 5, 2 ^ 16, .poison, by dsimp only; decide +kernel⟩,
   ⟨queueBase id, 5, 0, .ok, by dsimp only; decide +kernel⟩,
   ⟨queueBase (fun q => { q with tail := 1 }), 5, 2 * 2 ^ 16, .ok, by dsimp only; decide +kernel⟩,
   ⟨queueBase id, 5, 2 * 2 ^ 16, .ok, by dsimp only; decide +kernel⟩,
   ⟨st (queueBase (fun q => { q with cmd := some { cmd0 with phase := .record } })), 5, .ok, { cmd0 with phase := .record }, by dsimp only; decide +kernel⟩⟩

theorem wit_Fences :
    (∃ (s : State) (q : Nat) (st : Status), replicating s.b = false ∧ waitMet s.b q = some st) ∧
    (∃ (b : Block) (q : Nat) (st : Status) (c : Cmd), (getQueue b q).cmd = some c ∧ statusFailing st = true ∧ cmdAny c = false) ∧
    (∃ (b : Block) (q : Nat) (st : Status) (c : Cmd), (getQueue b q).cmd = some c ∧ (statusFailing st = false ∨ cmdAny c = true)) ∧
    (∃ (s : State) (src : Src) (c : Cmd), srcCmd s.b src = some c ∧ c.phase = .signal ∧ (openWrites s.b (reqOf s.b src).ctx).any c.before.contains = false ∧ let r := takeSignal s.b (reqOf s.b src).ctx c.status; let b := updCmd src (fun c => { c with phase := .remote }) r.2; handleRemote b (sigHandle c) = false ∧ replicating b = false) ∧
    (∃ (s : State) (src : Src) (c : Cmd), srcCmd s.b src = some c ∧ c.phase = .signal ∧ (openWrites s.b (reqOf s.b src).ctx).any c.before.contains = false ∧ let r := takeSignal s.b (reqOf s.b src).ctx c.status; let b := updCmd src (fun c => { c with phase := .remote }) r.2; handleRemote b (sigHandle c) = true ∧ b.fab.dead.contains (handlePkg (sigHandle c)) = false) ∧
    (∃ (b : Block) (src : Src) (_st : Status) (c : Cmd) (k : Nat), srcCmd b src = some c ∧ liveIndex b tyFence (sigHandle c) = some k) ∧
    (∃ (s : State) (src : Src) (c : Cmd), srcCmd s.b src = some c ∧ c.phase = .remote ∧ c.sends ≠ 0 ∧ c.sends < 3) ∧
    (∃ (s : State) (src : Src) (c : Cmd), srcCmd s.b src = some c ∧ c.phase = .remote ∧ c.sends ≠ 0 ∧ 3 ≤ c.sends) ∧
    (∃ (s : State) (f : FenceLine) (k : Nat), homeFence s.b f = some k ∧ replicating s.b = false ∧ sharerRight (getFence s.b k) f.src f.tag true = true) ∧
    (∃ (s : State) (f : FenceLine) (k : Nat), homeFence s.b f = some k ∧ sharerRight (getFence s.b k) f.src f.tag true = false) ∧
    (∃ (s : State) (f : FenceLine), handlePkg f.handle = f.src ∧ let l := (Src.kport :: (s.b.cm.queues.map (fun q => Src.queue q.1))).filter (awaitsAck s.b f); l ≠ []) ∧
    (∃ (s : State) (f : FenceLine) (k : Nat), homeFence s.b f = some k ∧ sharerRight (getFence s.b k) f.src f.tag false = true ∧ slotsUsed s.b < 4096) ∧
    (∃ (s : State) (f : FenceLine) (k : Nat), homeFence s.b f = some k ∧ sharerRight (getFence s.b k) f.src f.tag false = false) ∧
    (∃ (s : State) (f : FenceLine) (k : Nat), homeFence s.b f = some k ∧ (getFence s.b k).subs.contains (f.src, f.tag) = true) ∧
    (∃ (s : State) (f : FenceLine) (m : Mirror), findMirror s.b f.handle f.tag = some m ∧ handlePkg f.handle = f.src ∧ (f.fails = 0 ∧ (f.status = .notOwner ∨ f.status = .aborted))) ∧
    (∃ (s : State) (f : FenceLine) (m : Mirror), findMirror s.b f.handle f.tag = some m ∧ handlePkg f.handle = f.src ∧ ¬ (f.fails = 0 ∧ (f.status = .notOwner ∨ f.status = .aborted))) ∧
    (∃ (s : State) (k : Nat) (m : Mirror), s.b.cm.mirrors[k]? = some m ∧ mirrorWanted s.b m = true) ∧
    (∃ (s : State) (k : Nat) (m : Mirror), s.b.cm.mirrors[k]? = some m ∧ mirrorWanted s.b m = false) :=
  ⟨⟨st (queueBase (fun q => { q with cmd := some { cmd0 with phase := .wait, flags := 1 } })), 5, .ok, by decide +kernel⟩,
   ⟨(queueBase (fun q => { q with cmd := some { cmd0 with phase := .wait, flags := 1 } })), 5, .poison, { cmd0 with phase := .wait, flags := 1 }, by decide +kernel⟩,
   ⟨(queueBase (fun q => { q with cmd := some { cmd0 with phase := .wait, flags := 1 } })), 5, .ok, { cmd0 with phase := .wait, flags := 1 }, by decide +kernel⟩,
   ⟨st (withCmd (sigCmd .signal h4 0) (base)), .kport, sigCmd .signal h4 0, by dsimp only; decide +kernel⟩,
   ⟨st (withCmd (sigCmd .signal h2 0) (base)), .kport, sigCmd .signal h2 0, by dsimp only; decide +kernel⟩,
   ⟨(withCmd (sigCmd .signal h4 0) (fenceBase id base)), .kport, .ok, sigCmd .signal h4 0, 4, by decide +kernel⟩,
   ⟨st (withCmd (sigCmd .remote h2 1) (base)), .kport, sigCmd .remote h2 1, by decide +kernel⟩,
   ⟨st (withCmd (sigCmd .remote h2 3) (base)), .kport, sigCmd .remote h2 3, by decide +kernel⟩,
   ⟨st (fenceBase id base), fence0 h4, 4, by decide +kernel⟩,
   ⟨st (fenceBase (fun f => { f with sharers := [] }) base), fence0 h4, 4, by decide +kernel⟩,
   ⟨st (withCmd (sigCmd .remote h2 1) (base)), fence0 h2, by dsimp only; decide +kernel⟩,
   ⟨st (fenceBase id base), fence0 h4, 4, by decide +kernel⟩,
   ⟨st (fenceBase (fun f => { f with sharers := [] }) base), fence0 h4, 4, by decide +kernel⟩,
   ⟨st (fenceBase (fun f => { f with subs := [(2, 0)] }) base), fence0 h4, 4, by decide +kernel⟩,
   ⟨st (withMirror base), { fence0 h2 with status := .notOwner }, mirror0, by decide +kernel⟩,
   ⟨st (withMirror base), fence0 h2, mirror0, by decide +kernel⟩,
   ⟨st (withMirror (updDump 0 (fun _ => dump0) base)), 0, mirror0, by decide +kernel⟩,
   ⟨st (withMirror base), 0, mirror0, by decide +kernel⟩⟩

theorem wit_Telemetry :
    (∃ (s : State) (z : ZReq) (k : Nat) (w : Word), served s.b z .tel ∧ let b := zcpRsp z.inst .ok s.b; let v := w &&& 0x00FFFFFFFFFF7FFF; k < telCount' b z.inst ∧ telMayWrite b z k v = true ∧ telCfg b z.inst k = v) ∧
    (∃ (s : State) (z : ZReq) (k : Nat) (w : Word), served s.b z .tel ∧ let b := zcpRsp z.inst .ok s.b; let v := w &&& 0x00FFFFFFFFFF7FFF; k < telCount' b z.inst ∧ telMayWrite b z k v = true ∧ telCfg b z.inst k ≠ v) ∧
    (∃ (s : State) (z : ZReq) (k : Nat) (w : Word), served s.b z .tel ∧ z.attr = .k ∧ let b := zcpRsp z.inst .ok s.b; k < telCount' b z.inst ∧ fieldNat w 47 0 = 0) ∧
    (∃ (s : State) (z : ZReq) (w : Word), served s.b z .tel ∧ z.attr = .k ∧ fieldBit w 0 = true ∧ let b := zcpRsp z.inst .ok s.b; let t := (getUnits b z.inst).tel; t.pending = false ∧ (thyme b z.inst).toNat + 10000 ≤ t.snapT.toNat) ∧
    (∃ (s : State) (i : Nat), (getUnits s.b i).tel.pending = true ∧ (getUnits s.b i).tel.armT.toNat ≤ (thyme s.b i).toNat) ∧
    (∃ (s : State) (r : RingIn) (e : RingPkt) (rest : List RingPkt) (t : BitVec 64), headOn s r e rest ∧ e.msg = .snapArm t ∧ (getUnits s.b r.inst).tel.pending = false ∧ t.toNat ≤ (thyme (updInst r.inst (fun s => { s with prRx := r.data, ringRx := ringSeen s.ringRx r.data }) { s.b with ring := rest }) r.inst).toNat) ∧
    (∃ (s : State) (r : RingIn) (e : RingPkt) (rest : List RingPkt) (t : BitVec 64), headOn s r e rest ∧ e.msg = .snapArm t ∧ (getUnits s.b r.inst).tel.pending = false ∧ (thyme (updInst r.inst (fun s => { s with prRx := r.data, ringRx := ringSeen s.ringRx r.data }) { s.b with ring := rest }) r.inst).toNat < t.toNat) ∧
    (∃ (s : State) (z : ZReq) (n : Nat) (w : Word), served s.b z .tel ∧ (z.attr = .k ∨ z.attr = .t) ∧ n < 4 ∧ let b := zcpRsp z.inst .ok s.b; let r := getRgn b (fieldNat w 27 16); ((z.attr = .t → trcOther b z n = false)) ∧ ((fieldBit w 0 = true → r.state = .active ∧ r.mode = .rw ∧ allServed b r = true ∧ (z.attr = .t → r.tag = z.tag)))) ∧
    (∃ (s : State) (i _n : Nat), (getInst s.b i).released = true) ∧
    (∃ (s : State) (z : ZReq) (w : Word), served s.b z .tst ∧ ((fieldNat w 1 0 = 3 → fieldBit w 8 = true))) :=
  ⟨⟨s0, kz, 0, telCfgReset, by dsimp only; decide +kernel⟩,
   ⟨s0, kz, 0, 5, by dsimp only; decide +kernel⟩,
   ⟨s0, kz, 0, 0, by dsimp only; decide +kernel⟩,
   ⟨on (updTel 0 (fun t => { t with snapT := 20000 })), kz, 1, by dsimp only; decide +kernel⟩,
   ⟨on (updTel 0 (fun t => { t with pending := true })), 0, by decide +kernel⟩,
   ⟨onRing (.snapArm 0), in0 (.snapArm 0), pk0 (.snapArm 0), [], 0, head_on _ key0, rfl, rfl, by decide +kernel⟩,
   ⟨onRing (.snapArm 9), in0 (.snapArm 9), pk0 (.snapArm 9), [], 9, head_on _ key0, rfl, rfl, by decide +kernel⟩,
   ⟨on (setRgn 0 { rgn0 with mode := .rw }), kz, 3, 1, by dsimp only; decide +kernel⟩,
   ⟨s0, 0, 2, by decide +kernel⟩,
   ⟨onLc .test, { inst := 0, attr := .d, tag := 0 }, 3 + 2 ^ 8, by decide +kernel⟩⟩

theorem wit_TensorDumps :
    (∃ (s : State) (z : ZReq) (d : Nat) (w : Word), served s.b z .tel ∧ d < 4 ∧ let b := zcpRsp z.inst .ok s.b; let x := getDump b d; isPrimary b z.inst = true ∧ (z.attr = .k ∨ z.attr = .t) ∧ x.state ≠ 1 ∧ x.state ≠ 2 ∧ let e := updDump d (fun x => { dumpWord0 z w x with state := 0, status := .ok, out := [], sub := false }) b; dumpChecks e (getDump e d) = []) ∧
    (∃ (s : State) (z : ZReq) (d : Nat) (_w : Word), served s.b z .tel ∧ d < 4 ∧ let b := zcpRsp z.inst .ok s.b; let x := getDump b d; isPrimary b z.inst = true ∧ (z.attr = .k ∨ (z.attr = .t ∧ x.tag = z.tag)) ∧ (x.state = 1 ∨ x.state = 2)) ∧
    (∃ (s : State) (d i : Nat) (v : Word) (st : Status), let x := getDump s.b d; fenceKnown s.b x.fence x.tag = some (v, st) ∧ primaryInst s.b = some i ∧ x.state = 1 ∧ x.value.toNat ≤ v.toNat ∧ keyUsable (getKey s.b x.key) = true) ∧
    (∃ (s : State) (d i : Nat) (v : Word) (st : Status), let x := getDump s.b d; fenceKnown s.b x.fence x.tag = some (v, st) ∧ primaryInst s.b = some i ∧ x.state = 1 ∧ x.value.toNat ≤ v.toNat ∧ keyUsable (getKey s.b x.key) = false) ∧
    (∃ (s : State) (d : Nat) (lines : List (Line × Status)), let x := getDump s.b d; x.state = 2 ∧ lines.length = x.len / 128) :=
  ⟨⟨st (dumpBase { dump0 with state := 0 } keyC), kz, 0, 2 ^ 32, by dsimp only; decide +kernel⟩,
   ⟨st (dumpBase dump0 keyC), kz, 0, 0, by dsimp only; decide +kernel⟩,
   ⟨st (dumpBase dump0 keyC), 0, 0, 3, .ok, by dsimp only; decide +kernel⟩,
   ⟨st (dumpBase dump0 { keyC with cv := false }), 0, 0, 3, .ok, by dsimp only; decide +kernel⟩,
   ⟨st (dumpBase { dump0 with state := 2 } keyC), 0, [(5, .ok)], by dsimp only; decide +kernel⟩⟩

theorem wit_RegisterWrites :
    (∃ (s : State) (z : ZReq) (off : Nat) (_w : Word), served s.b z (windowOf (zcpOff off))) ∧
    (∃ (s : State) (z : ZReq) (off : Nat) (_w : Word) (st : Status), (getInst s.b z.inst).released = true ∧ zcpRefusal s.b z true (windowOf (zcpOff off)) = some st) ∧
    (∃ (s : State) (z : ZReq) (off : Nat) (v : Word), (getInst s.b z.inst).released = true ∧ zcpRefusal s.b z false (windowOf (zcpOff off)) = none ∧ readWindow s.b z (zcpOff off) = .ok v) ∧
    (∃ (s : State) (z : ZReq) (off : Nat) (st : Status), (getInst s.b z.inst).released = true ∧ st ≠ .ok ∧ zcpRefusal s.b z false (windowOf (zcpOff off)) = some st) ∧
    (∃ (s : State) (z : ZReq) (off : Nat) (_w : Word), (getInst s.b z.inst).released = false ∧ safeReadable s.b z (windowOf (zcpOff off)) = false) ∧
    (∃ (s : State) (z : ZReq) (off : Nat) (v : Word), (getInst s.b z.inst).released = false ∧ safeReadable s.b z (windowOf (zcpOff off)) = true ∧ readWindow s.b z (zcpOff off) = .ok v) ∧
    (∃ (_b : Block) (_z : ZReq) (off : Nat) (_w : Word), windowOf off ∈ [Window.ident, .ao, .thy, .bst, .hole]) :=
  ⟨⟨s0, kz, 0x700000, 1, by decide +kernel⟩,
   ⟨s0, { kz with attr := .t }, 0x700000, 1, .notOwner, by decide +kernel⟩,
   ⟨s0, kz, 0, _, by decide +kernel, by decide +kernel, rfl⟩,
   ⟨s0, { kz with attr := .t }, 0x90000, .notOwner, by decide +kernel⟩,
   ⟨State.reset, kz, 0x700000, 1, by decide +kernel⟩,
   ⟨onBoot (fun o => { o with halted := true }), kz, 0, _, by decide +kernel, by decide +kernel, rfl⟩,
   ⟨base, kz, 0xC00000, 1, by decide +kernel⟩⟩

theorem wit_NoAbortWaits :
    (∃ s t : State, noAbortWaits s ∧ step s = .next t) :=
  ⟨{ s0 with pending := [.ringHopBroken 0 true] }, { b := raise 0 15 (updInst 0 (fun s => { s with eastBroken := true }) base), pending := [] }, rfl, rfl⟩

theorem wit_AbortStarts :
    (∃ (b : Block) (_cause : Status) (_origin : Pkg), b.bay.state ≠ 1) ∧
    (∃ (b : Block) (_cause : Status) (_origin : Pkg), b.bay.state = 1) :=
  ⟨⟨base, .poison, 2, by decide +kernel⟩,
   ⟨{ base with bay := { base.bay with state := 1 } }, .poison, 2, by decide +kernel⟩⟩

theorem wit_StepRunsFront :
    (∃ s : State, s.pending = []) :=
  ⟨s0, by decide +kernel⟩

theorem wit_CommandsRunToTheEnd :
    (∃ s : State, (∀ c ∈ s.pending, wellFormed c = true)) ∧
    (∃ (s t : State) (c : Instr) (rest : List Instr), s.pending = c :: rest ∧ step s = .next t) :=
  ⟨⟨{ s0 with pending := [.ringHopBroken 0 true] }, by decide +kernel⟩,
   ⟨{ s0 with pending := [.ringHopBroken 0 true] }, { b := raise 0 15 (updInst 0 (fun s => { s with eastBroken := true }) base), pending := [] }, .ringHopBroken 0 true, [], rfl, rfl⟩⟩

theorem wit_MalformedCommands :
    (∃ (_s : State) (_off : Nat) (data : Bytes), 4096 < data.length) ∧
    (∃ (_s : State) (_inst _port : Nat) (xfers : List LtOr), (xfers.length = 0 ∨ 4 < xfers.length)) ∧
    (∃ (s : State) (c : Instr) (f : Fault), exec c s = .fault f) :=
  ⟨⟨s0, 0, List.replicate 4097 0, by decide +kernel⟩,
   ⟨s0, 0, 0, List.replicate 5 or0, by decide +kernel⟩,
   ⟨s0, .ltOrRequest 0 0 [], .illFormed, rfl⟩⟩

theorem wit_TableLaws :
    (∃ (d : Nat) (t : Sparse Nat), Sparse.wf d t = true) ∧
    (∃ (d : Nat) (t : Sparse Nat), Sparse.wf d t = true) ∧
    (∃ (d : Nat) (t : Sparse Nat), Sparse.wf d t = true) ∧
    (∃ (d : Nat) (t : Sparse Nat) (f : Nat → Nat → Nat) (j : Nat), Sparse.wf d t = true ∧ f j d = d) ∧
    (∃ (d : Nat) (t u : Sparse Nat), Sparse.wf d t = true ∧ Sparse.wf d u = true ∧ (∀ j, Sparse.get d t j = Sparse.get d u j)) :=
  ⟨⟨0, [(3, 5)], by decide +kernel⟩,
   ⟨0, [(3, 5)], by decide +kernel⟩,
   ⟨0, [(3, 5)], by decide +kernel⟩,
   ⟨0, [(3, 5)], fun _ x => 2 * x, 4, by decide +kernel⟩,
   ⟨0, [(3, 5)], [(3, 5)], by decide, by decide, fun _ => rfl⟩⟩

theorem wit_WalkShareRules :
    (∃ (s : State) (z : ZReq) (n c : Nat) (w : Word), served s.b z (.mcs n) ∧ c < 8 ∧ let least := fieldNat w 5 0; let most := fieldNat w 14 8; let walk := (getMcs s.b n).walk.set c (least, most); let bad := 64 < (walk.map (·.1)).foldl (· + ·) 0 ∨ most < least ∨ 64 < most; bad) ∧
    (∃ (s : State) (z : ZReq) (n c : Nat) (w : Word), served s.b z (.mcs n) ∧ c < 8 ∧ let least := fieldNat w 5 0; let most := fieldNat w 14 8; let walk := (getMcs s.b n).walk.set c (least, most); let bad := 64 < (walk.map (·.1)).foldl (· + ·) 0 ∨ most < least ∨ 64 < most; ¬ bad) :=
  ⟨⟨s0, kz, 0, 3, 63 + 64 * 2 ^ 8, by dsimp only; decide +kernel⟩,
   ⟨s0, kz, 0, 7, 4 + 64 * 2 ^ 8, by dsimp only; decide +kernel⟩⟩

theorem wit_SpecialSums :
    (∃ x y : Xp, xpSpecial x = true ∨ xpSpecial y = true) ∧
    (∃ x y z : Xp, (xpSpecial x = true ∨ xpSpecial y = true ∨ xpSpecial z = true) ∧ (xpSpecial x = false → xpSpecial y = false → xpSpecial (xpAdd x y).1 = false) ∧ (xpSpecial y = false → xpSpecial z = false → xpSpecial (xpAdd y z).1 = false)) ∧
    (∃ x y : Xp, xpSpecial (xpAdd x y).1 = true) :=
  ⟨⟨.pinf, .fin 1 0, by decide +kernel⟩,
   ⟨.fin 1 0, .fin 2 0, .ninf, by decide +kernel⟩,
   ⟨.pinf, .ninf, by decide +kernel⟩⟩

theorem wit_ReportedStatus :
    (∃ (l : List Status) (x : Status), l ≠ [] ∧ x ∈ l) :=
  ⟨[.poison, .ok], .poison, by decide +kernel⟩

theorem wit_OrderedResets :
    (∃ (b : Block) (_i : Nat), b.keys.store.phase ≠ .idle) ∧
    (∃ (b : Block) (i : Nat), b.keys.store.phase = .idle ∧ (getInst b i).released = true ∧ b.bay.softDue.contains (i, false) = false) ∧
    (∃ b : Block, b.keys.store.phase ≠ .idle) ∧
    (∃ b : Block, b.bay.hardDue = true ∧ b.keys.store.phase = .idle ∧ ideIdle b.trust.ide = true ∧ b.boot.hard = false) :=
  ⟨⟨updStore (fun s => { s with phase := .erasing 1 }) base, 0, by decide +kernel⟩,
   ⟨base, 0, by decide +kernel⟩,
   ⟨updStore (fun s => { s with phase := .erasing 1 }) base, by decide +kernel⟩,
   ⟨{ base with bay := { base.bay with hardDue := true } }, by decide +kernel⟩⟩

theorem wit_FenceSignalRules :
    (∃ (s : State) (src : Src) (c : Cmd), srcCmd s.b src = some c ∧ c.phase = .signal ∧ (openWrites s.b (reqOf s.b src).ctx).any c.before.contains = true) ∧
    (∃ (_b : Block) (_ctx : Ctx) (st : Status), statusFailing st = true) ∧
    (∃ (b : Block) (k : Nat) (v : Word) (_st : Status), (getFence b k).live = true ∧ let f := getFence b k; f.value.toNat < v.toNat) ∧
    (∃ (b : Block) (k : Nat) (v : Word) (_st : Status), (getFence b k).live = true ∧ let f := getFence b k; ¬ f.value.toNat < v.toNat) ∧
    (∃ (b : Block) (src : Src) (_st : Status) (c : Cmd) (k : Nat), srcCmd b src = some c ∧ liveIndex b tyFence (sigHandle c) = some k) :=
  ⟨⟨st (withCmd { sigCmd .signal h4 0 with before := [(0, 0)] } (updOut 0 3 (fun _ => { out0 with op := 1 }) base)), .kport, { sigCmd .signal h4 0 with before := [(0, 0)] }, by decide +kernel⟩,
   ⟨base, 1, .poison, by decide +kernel⟩,
   ⟨fenceBase id base, 4, 9, .ok, by dsimp only; decide +kernel⟩,
   ⟨fenceBase id base, 4, 0, .ok, by dsimp only; decide +kernel⟩,
   ⟨(withCmd (sigCmd .signal h4 0) (fenceBase id base)), .kport, .ok, sigCmd .signal h4 0, 4, by decide +kernel⟩⟩

theorem wit_ExactSumsStored :
    (∃ (m e s x : Int) (d : Bool), -32767 ≤ e ∧ xpNorm m e = (.fin s x, d)) ∧
    (∃ m e : Int, -32767 ≤ e ∧ xpSpecial (xpNorm m e).1 = true) ∧
    (∃ m e m' e' : Int, -32767 ≤ e ∧ -32767 ≤ e' ∧ m * 2 ^ (e - min e e').toNat = m' * 2 ^ (e' - min e e').toNat) :=
  ⟨⟨5, 0, 5 * 2 ^ 140, -140, false, by decide +kernel⟩,
   ⟨1, 40000, by decide +kernel⟩,
   ⟨2, 0, 1, 1, by decide +kernel⟩⟩

theorem wit_SealedLines :
    (∃ (r : Rgn) (_key : Key) (gens : List Nat) (kgen _line _host : Nat) (_c : Counters) (_l : Line) (_origin _inexact : Bool), r.mode ≠ .xts ∧ kgen < 256 ∧ gens.contains kgen = true) ∧
    (∃ (r : Rgn) (_key : Key) (gens : List Nat) (kgen _line _host : Nat) (_c : Counters) (_l : Line) (_origin _inexact : Bool), r.mode ≠ .xts ∧ kgen < 256 ∧ gens.contains kgen = true) ∧
    (∃ (r : Rgn) (key : Key) (_gens : List Nat) (line _host : Nat) (c : Counters) (l : Line) (s : Sideband), (r.mode = .ro ∨ r.mode = .rw) ∧ sbPoison s = false ∧ sbMac s ≠ lineMac (workKeys key).mac (tupleOf r line c) l) :=
  ⟨⟨{ rgn0 with mode := .rw }, 1, [0], 0, 0, 0, { major := 0, minor := 0 }, 5, false, false, by decide +kernel⟩,
   ⟨{ rgn0 with mode := .rw }, 1, [0], 0, 0, 0, { major := 0, minor := 0 }, 5, false, false, by decide +kernel⟩,
   (by
    by_cases h : sbMac 0 = lineMac (workKeys 1).mac (tupleOf { rgn0 with mode := .rw } 0 { major := 0, minor := 0 }) 5
    · exact ⟨{ rgn0 with mode := .rw }, 1, [0], 0, 0, { major := 0, minor := 0 }, 5, 1, .inr rfl, by decide +kernel, by rw [← h]; decide +kernel⟩
    · exact ⟨{ rgn0 with mode := .rw }, 1, [0], 0, 0, { major := 0, minor := 0 }, 5, 0, .inr rfl, by decide +kernel, h⟩)⟩

/-! Checks of the operands that a command may have (R167 and file 13, Boot). -/

theorem test_bootData_length : wellFormed (.bootData 0 (List.replicate 4096 0)) = true ∧ wellFormed (.bootData 0 (List.replicate 4097 0)) = false := by
  decide +kernel
theorem test_ltOrRequest_length : wellFormed (.ltOrRequest 0 0 [or0]) = true ∧ wellFormed (.ltOrRequest 0 0 [or0, or0, or0, or0]) = true
    ∧ wellFormed (.ltOrRequest 0 0 []) = false ∧ wellFormed (.ltOrRequest 0 0 (List.replicate 5 or0)) = false := by
  decide +kernel

/-! The worked examples of the spec. -/

/-- Files 03 and 09: "Its standard check value over the ASCII string 123456789 is 0xE306_9283" (R81). -/
theorem test_crc_check_value : crc32c [0x31, 0x32, 0x33, 0x34, 0x35, 0x36, 0x37, 0x38, 0x39] = 0xE3069283 := by decide +kernel
/-- File 03, the encryption of one RW-AUTH line: T(0), T(5) and the mask block (R80, R81). -/
theorem test_tuple_example :
    let t := tupleOf { rgn0 with mode := .rw, tri := 42, base := 0x100, keyGen := 5 } 0x2469 { major := 3, minor := 0x13 }
    let low : Bytes := [0x2A, 0x90, 0x46, 0x02, 0, 0, 3, 0, 0, 0, 0, 0, 0, 0x13]
    tupleBytes t 0 0 = low ++ [0, 0] ∧ tupleBytes t 5 0 = low ++ [0x40, 1] ∧ tupleBytes t 0 1 = low ++ [0, 2] := by
  decide +kernel
/-- The same example: bits [127:96] of the sideband read 0x0000_0E05 (R84). -/
theorem test_sideband_example : fieldNat (sideband 0x1122334455667788 0xAABBCCDD 5 false true .rw false) 127 96 = 0x0E05 := by decide +kernel
/-- File 03, the overhead example: a region of 64 GiB on MCSs 8 to 11 has roof level 3, 2,048 nodes and 2,236,416 lines in each share (R96, R97). -/
theorem test_roof_example :
    let b : Block := { base with rgn := { base.rgn with map := [{ base := 0, pages := 2 ^ 23, w := 4, f := 8, b := 0 }] } }
    let r : Rgn := { rgn0 with mode := .rw, size := 32768 }
    chooseLevel b r = some 3 ∧ roofNeed b r 3 = 2048 ∧ roofNeed b r 2 = 32768 ∧ shareSize b r 8 = 2097152 ∧ metaLines 2097152 3 = 2236416 := by
  decide +kernel
/-- File 01: an instance with MCSs 12 to 15 decodes 0x001C_0000 to 0x001F_FFFF, and 0x0020_0000 is MCS 16's (R20). -/
theorem test_window_example : windowOf 0x1C0000 = .mcs 12 ∧ windowOf 0x1FFFFF = .mcs 15 ∧ windowOf 0x200000 = .mcs 16 := by decide +kernel
/-- File 05: eight LCSs at the smallest guarantees leave a pool of 16,024 cells, and MIN = 8 is refused (R148, R156). -/
theorem test_pool_example :
    let e : Esb := { cls := [{ vc := 0, min := 9 }, { vc := 1, min := 9 }, { vc := 2, min := 9 }, { vc := 3, min := 9 }, { vc := 4, min := 9 }] }
    poolFree (updEsb 0 (fun _ => e) (updInst 0 (fun s => { s with nLcs := 8 }) base)) 0 = 16024
      ∧ classesOk 8 e.cls 4096 = true ∧ classesOk 8 (e.cls.set 0 { vc := 0, min := 8 }) 4096 = false := by
  decide +kernel
/-- The base point of P-384 lies on the curve (FIPS 186-5, R263). -/
theorem test_curve_base : ecOn ecBase = true := by decide +kernel
/-- File 05: at avg = 1,280 cells the default profiles give 0.013, 0.125 and 1 for green, yellow and red (R150). -/
theorem test_wred_example : ({} : Esb).wred.map (fun r => wredProb r 1280) = [3, 32, 256] := by decide +kernel
/-- File 13: copies of the life cycle at PROD, TEST and TEST are TEST, whatever bits a broken write left (R366). -/
theorem test_lifecycle_example : (lcFloor 0xFFFF, lcFloor 0x0FFF, lcFloor 0x00FF) = (2, 1, 1) ∧ median 2 1 1 = 1 := by decide +kernel
/-- File 14: a dump of 96 MiB writes 100,860,032 bytes (R391). -/
theorem test_dump_example : dumpBytes { len := 100663296 } = 100860032 := by decide +kernel
/-- R25: a failing tag during a Bay abort reports ABORTED. -/
theorem test_status_rank : statusWorst [.tagFail, .aborted] = .aborted ∧ statusWorst [.aborted, .tagFail] = .aborted := by decide +kernel

/-! Single steps. -/

/-- What a step shows of its next state. -/
def shows {α : Type} (o : Host.Outcome State Fault Refusal) (f : Block → α) : Option α :=
  match o with
  | .next t => some (f t.b)
  | _ => none
/-- Credits of two bits per VC are added to the VC's own (R43). -/
theorem test_credit_return : shows (exec (.llTxCreditReturn 0 0x000D) (onLport id)) (fun b => (getLport b 0).txCrd) = some [65, 67, 64, 64, 64, 64, 64, 64] := by
  decide +kernel
/-- A doorbell moves TAIL forward; one that would pass HEAD plus the ring's size does not (R318). -/
theorem test_doorbell : shows (exec (.ctxQtailWrite kz 5 8) (st (queueBase id))) (fun b => (getQueue b 5).tail) = some 8
    ∧ shows (exec (.ctxQtailWrite kz 5 9) (st (queueBase id))) (fun b => (getQueue b 5).tail) = some 2 := by
  decide +kernel
/-- A tamper source at an armed die sets its own latch (R363). -/
theorem test_tamper_latch : shows (exec (.tamperInEvent 0 3) s0) (fun b => (getInst b 0).ao.latch) = some 8 := by decide +kernel
/-- ESB is K's alone (Table 1.10): another attribute is answered NOT_OWNER and writes nothing. -/
theorem test_esb_attribute : shows (exec (.esbMeterWrite { kz with attr := .t } 0 false (1 + 2 ^ 32)) s0)
    (fun b => ((getInst b 0).rsp, (Sparse.get {} (getEsb b 0).meters 0).cir)) = some (.notOwner, 200000) := by
  decide +kernel
/-- A broken hop shows in its own direction only (R56). -/
theorem test_ring_hop : shows (exec (.ringHopBroken 0 true) s0) (fun b => ((getInst b 0).eastBroken, (getInst b 0).westBroken)) = some (true, false) := by
  decide +kernel
/-- The queue is first in, first out. -/
theorem test_queue_order : (match step { b := base, pending := [.ringHopBroken 0 true, .ringHopRestored 0 true] } with
    | .next t => t.pending
    | _ => []) = [.ringHopRestored 0 true] := by
  decide +kernel
/-- A CREATE that succeeds fills the lowest free entry, ACTIVE for a PLAIN region (R76). -/
theorem test_create : shows (exec (.create (.reg kz 0)) (st { base with rgn := { base.rgn with
      stage := 40 * 2 ^ 64 + 2 ^ 96, map := [{ base := 0, pages := 65536, w := 2, f := 0, b := 0 }] } }))
    (fun b => ((getRgn b 1).state, (getRgn b 1).base, (getRgn b 1).size, b.rgn.sts.status)) = some (.active, 40, 1, .ok) := by
  decide +kernel
/-- A CREATE on a range that another region holds is refused and fills nothing (R75). -/
theorem test_create_overlap : shows (exec (.create (.reg kz 0)) (st { base with rgn := { base.rgn with stage := 2 ^ 96 } }))
    (fun b => ((getRgn b 1).state, b.rgn.sts.status)) = some (.free, .badConfig) := by
  decide +kernel

end Sys2Proof.Tests
end

section
/-! PROOFS. The memory path's operation (R109 to R125). First what a write of an entry leaves in a table of any form, then the ZCP
answer, then MCS_WALK. -/

namespace Sys2Proof.Proofs
open Sys2Proof Sys2Proof.Machine Sys2Proof.Laws

/-! An updated entry reads back, and the other tables read as before. `State` may hold a table that is not in canonical form; there an
entry that becomes the default may uncover an older one, so the entry must differ from the default. -/

theorem getInst_updInst_self {i : Nat} {f : Inst → Inst} {b : Block} (h : f (getInst b i) ≠ {}) :
    getInst (updInst i f b) i = f (getInst b i) := get_set_self h _

theorem getMcs_updMcs_self {n : Nat} {f : Mcs → Mcs} {b : Block} (h : f (getMcs b n) ≠ {}) :
    getMcs (updMcs n f b) n = f (getMcs b n) := get_set_self h _

@[simp] theorem getInst_updMcs (i n : Nat) (f : Mcs → Mcs) (b : Block) : getInst (updMcs n f b) i = getInst b i := rfl

@[simp] theorem getMcs_updInst (n i : Nat) (f : Inst → Inst) (b : Block) : getMcs (updInst i f b) n = getMcs b n := rfl

/-- A slice that is present is not what an unlisted slice reads as. -/
theorem ne_default_of_present {m : Mcs} (h : m.present = true) : m ≠ {} := by
  rintro rfl
  cases h

/-- An instance that is released is not what an unlisted instance reads as. -/
theorem ne_default_of_released {x : Inst} (h : x.released = true) : x ≠ {} := by
  rintro rfl
  cases h

/-- An instance that shows a status other than OK is not what an unlisted instance reads as. -/
theorem ne_default_of_rsp_ne_ok {x : Inst} (h : x.rsp ≠ .ok) : x ≠ {} := by
  rintro rfl
  exact h rfl

/-! The ZCP answer (R21, R69). -/

@[simp] theorem zcpRsp_mcs (i : Nat) (st : Status) (b : Block) : (zcpRsp i st b).mcs = b.mcs := rfl

@[simp] theorem getMcs_zcpRsp (n i : Nat) (st : Status) (b : Block) : getMcs (zcpRsp i st b) n = getMcs b n := rfl

@[simp] theorem count_mcs (w : Who) (ev : Nat) (b : Block) : (count w ev b).mcs = b.mcs := by
  unfold count
  dsimp only
  split <;> rfl

@[simp] theorem portError_mcs (w : Who) (k : Nat) (b : Block) : (portError w k b).mcs = b.mcs := count_mcs w (evPort k) b

/-- A refusal touches no slice. -/
@[simp] theorem zcpRefuse_mcs (z : ZReq) (st : Status) (b : Block) : (zcpRefuse z st b).mcs = b.mcs := portError_mcs _ _ b

/-- A released instance shows the answer given. -/
theorem zcpRsp_rsp_of_released {i : Nat} {b : Block} (st : Status) (h : (getInst b i).released = true) :
    (getInst (zcpRsp i st b) i).rsp = st := by
  unfold zcpRsp
  rw [getInst_updInst_self (ne_default_of_released h)]

/-- An answer other than OK shows, whatever the instance. -/
theorem zcpRsp_rsp_of_ne_ok {st : Status} (i : Nat) (b : Block) (h : st ≠ .ok) : (getInst (zcpRsp i st b) i).rsp = st := by
  unfold zcpRsp
  rw [getInst_updInst_self (ne_default_of_rsp_ne_ok h)]

/-- A refusal with a status other than OK is answered with it. -/
theorem zcpRefuse_rsp {st : Status} (z : ZReq) (b : Block) (h : st ≠ .ok) : (getInst (zcpRefuse z st b) z.inst).rsp = st :=
  zcpRsp_rsp_of_ne_ok z.inst _ h

/-- An access whose window is absent is refused. -/
theorem windowPresent_of_zcpRefusal_none {b : Block} {z : ZReq} {wr : Bool} {w : Window} (h : zcpRefusal b z wr w = none) :
    windowPresent b z.inst w = true := by
  by_contra hw
  simp [zcpRefusal, hw] at h

/-- A write that a slice's window serves finds the slice present. -/
theorem present_of_served {b : Block} {z : ZReq} {n : Nat} (h : served b z (.mcs n)) : (getMcs b n).present = true := by
  have hw : windowPresent b z.inst (.mcs n) = true := windowPresent_of_zcpRefusal_none h.2
  simp only [windowPresent, Bool.and_eq_true] at hw
  exact hw.1

/-! MCS_WALK (R117). -/

/-- The pairs that a write of MCS_WALK[c] asks for: MIN and MAX of class c from the word, the other classes as they are. -/
def walkAsked (b : Block) (n c : Nat) (w : Word) : List (Nat × Nat) := (getMcs b n).walk.set c (fieldNat w 5 0, fieldNat w 14 8)

/-- R117's three conditions: the sum of MIN above 64, MAX below MIN, MAX above 64. -/
abbrev walkBad (b : Block) (n c : Nat) (w : Word) : Prop :=
  64 < ((walkAsked b n c w).map (·.1)).foldl (· + ·) 0 ∨ fieldNat w 14 8 < fieldNat w 5 0 ∨ 64 < fieldNat w 14 8

/-- A served write of one of the eight registers: its answer OK is given first, and the three conditions alone decide what follows. -/
theorem effMcsWalkWrite_eq {b : Block} {z : ZReq} {n c : Nat} (w : Word) (h : served b z (.mcs n)) (hc : c < 8) :
    effMcsWalkWrite z n c w b =
      if walkBad b n c w then zcpRefuse z .badConfig (zcpRsp z.inst .ok b)
      else updMcs n (fun m => { m with walk := walkAsked b n c w }) (zcpRsp z.inst .ok b) := by
  unfold effMcsWalkWrite
  rw [zcpDo_eq h]
  exact if_congr (or_iff_right (Nat.not_le.mpr hc)) rfl rfl

theorem exec_mcsWalkWrite (z : ZReq) (n c : Nat) (w : Word) (s : State) :
    exec (.mcsWalkWrite z n c w) s = .next (s.settled (effMcsWalkWrite z n c w s.b)) := rfl

/-- A bad write is answered BAD_CONFIG and leaves every slice as it is. -/
theorem exec_mcsWalkWrite_of_bad {s : State} {z : ZReq} {n c : Nat} {w : Word} (h : served s.b z (.mcs n)) (hc : c < 8)
    (hbad : walkBad s.b n c w) :
    ∃ d, exec (.mcsWalkWrite z n c w) s = .next (s.settled d) ∧ d.mcs = s.b.mcs ∧ (getInst d z.inst).rsp = .badConfig := by
  refine ⟨zcpRefuse z .badConfig (zcpRsp z.inst .ok s.b), ?_, ?_, ?_⟩
  · rw [exec_mcsWalkWrite, effMcsWalkWrite_eq w h hc, if_pos hbad]
  · rw [zcpRefuse_mcs, zcpRsp_mcs]
  · exact zcpRefuse_rsp z _ (by decide)

/-- A good write sets the pair and is answered OK. -/
theorem exec_mcsWalkWrite_of_good {s : State} {z : ZReq} {n c : Nat} {w : Word} (h : served s.b z (.mcs n)) (hc : c < 8)
    (hgood : ¬ walkBad s.b n c w) :
    ∃ d, exec (.mcsWalkWrite z n c w) s = .next (s.settled d) ∧ (getMcs d n).walk = walkAsked s.b n c w
      ∧ (getInst d z.inst).rsp = .ok := by
  refine ⟨updMcs n (fun m => { m with walk := walkAsked s.b n c w }) (zcpRsp z.inst .ok s.b), ?_, ?_, ?_⟩
  · rw [exec_mcsWalkWrite, effMcsWalkWrite_eq w h hc, if_neg hgood]
  · have hp : (getMcs s.b n).present = true := present_of_served h
    rw [getMcs_updMcs_self (ne_default_of_present hp)]
  · rw [getInst_updMcs]
    exact zcpRsp_rsp_of_released .ok h.1

/-- Settles O53: MCS_WALK[c] (R117). The three conditions decide the write; the slice and the instance that answers are both listed
entries, present and released, so what is written to them reads back in a table of any form. -/
theorem walkShareRules : Obligations.WalkShareRules :=
  fun _ _ _ _ _ hs hc => ⟨exec_mcsWalkWrite_of_bad hs hc, exec_mcsWalkWrite_of_good hs hc⟩

end Sys2Proof.Proofs
end

section
/-! PROOFS. Sums of XP-160 values with a special among them (R202). A value stands for a set of infinities: a finite one for none, an
infinity for itself, NaN for both. The sum stands for the union, and a special is known by its set; so neither the order nor the grouping
of the inputs matters. -/

namespace Sys2Proof.Proofs
open Sys2Proof Sys2Proof.Machine

/-- The infinities that a value stands for: +∞ first, −∞ second. -/
def xpInfs : Xp → Bool × Bool
  | .fin _ _ => (false, false)
  | .pinf => (true, false)
  | .ninf => (false, true)
  | .nan => (true, true)

theorem xpSpecial_iff_xpInfs_ne_bot (x : Xp) : xpSpecial x = true ↔ xpInfs x ≠ ⊥ := by
  cases x with
  | fin s e => exact ⟨nofun, fun h => absurd rfl h⟩
  | pinf | ninf | nan => decide

theorem xpInfs_eq_bot {x : Xp} (h : xpSpecial x = false) : xpInfs x = ⊥ := by
  simpa [h] using (xpSpecial_iff_xpInfs_ne_bot x).not

/-- A special is known by the infinities it stands for. -/
theorem eq_of_xpInfs_eq {x y : Xp} (hx : xpSpecial x = true) (h : xpInfs x = xpInfs y) : x = y := by
  cases x with
  | fin s e => cases hx
  | pinf | ninf | nan => cases y <;> simp_all [xpInfs]

theorem xpSpecial_of_xpInfs_eq_sup {x y z : Xp} (hz : xpInfs z = xpInfs x ⊔ xpInfs y)
    (h : xpSpecial x = true ∨ xpSpecial y = true) : xpSpecial z = true := by
  rw [xpSpecial_iff_xpInfs_ne_bot, hz, Ne, sup_eq_bot_iff, not_and_or]
  exact h.imp (xpSpecial_iff_xpInfs_ne_bot x).mp (xpSpecial_iff_xpInfs_ne_bot y).mp

/-- The sum stands for the infinities of both inputs, unless two finite values overflow. -/
theorem xpInfs_xpAdd {x y : Xp}
    (h : xpSpecial x = false → xpSpecial y = false → xpSpecial (xpAdd x y).1 = false) :
    xpInfs (xpAdd x y).1 = xpInfs x ⊔ xpInfs y := by
  cases x with
  | fin s e =>
    cases y with
    | fin s' e' => exact xpInfs_eq_bot (h rfl rfl)
    | pinf | ninf | nan => rfl
  | pinf | ninf | nan => cases y <;> rfl

/-- An exact sum that overflows to an infinity drops no bits (R200). -/
theorem xpNorm_exact_of_special {m e : Int} (h : xpSpecial (xpNorm m e).1 = true) : (xpNorm m e).2 = false := by
  revert h
  fun_cases xpNorm m e with
  | case1 => exact nofun
  | case2 => exact fun _ => rfl
  | case3 => exact nofun

theorem xpAdd_exact_of_special {x y : Xp} (h : xpSpecial (xpAdd x y).1 = true) : (xpAdd x y).2 = false := by
  cases x with
  | fin s e =>
    cases y with
    | fin s' e' => exact xpNorm_exact_of_special h
    | pinf | ninf | nan => rfl
  | pinf | ninf | nan => cases y <;> rfl

/-- A sum with a special input stands for the infinities of both: no finite overflow is in question. -/
theorem xpInfs_xpAdd_of_special {x y : Xp} (h : xpSpecial x = true ∨ xpSpecial y = true) :
    xpInfs (xpAdd x y).1 = xpInfs x ⊔ xpInfs y :=
  xpInfs_xpAdd fun hx hy => by simp [hx, hy] at h

theorem xpSpecial_xpAdd_of_special {x y : Xp} (h : xpSpecial x = true ∨ xpSpecial y = true) :
    xpSpecial (xpAdd x y).1 = true :=
  xpSpecial_of_xpInfs_eq_sup (xpInfs_xpAdd_of_special h) h

theorem xpAdd_comm_of_special {x y : Xp} (h : xpSpecial x = true ∨ xpSpecial y = true) : xpAdd x y = xpAdd y x := by
  have hxy : xpSpecial (xpAdd x y).1 = true := xpSpecial_xpAdd_of_special h
  have hyx : xpSpecial (xpAdd y x).1 = true := xpSpecial_xpAdd_of_special h.symm
  refine Prod.ext (eq_of_xpInfs_eq hxy ?_) ?_
  · rw [xpInfs_xpAdd_of_special h, xpInfs_xpAdd_of_special h.symm, sup_comm]
  · rw [xpAdd_exact_of_special hxy, xpAdd_exact_of_special hyx]

/-- The result of either grouping stands for the infinities of all three inputs, and each is special because one of them is. -/
theorem xpAdd_assoc_of_special {x y z : Xp} (h : xpSpecial x = true ∨ xpSpecial y = true ∨ xpSpecial z = true)
    (hxy : xpSpecial x = false → xpSpecial y = false → xpSpecial (xpAdd x y).1 = false)
    (hyz : xpSpecial y = false → xpSpecial z = false → xpSpecial (xpAdd y z).1 = false) :
    (xpAdd (xpAdd x y).1 z).1 = (xpAdd x (xpAdd y z).1).1 := by
  have hleft : xpSpecial (xpAdd x y).1 = true ∨ xpSpecial z = true :=
    (or_assoc.mpr h).imp_left xpSpecial_xpAdd_of_special
  have hright : xpSpecial x = true ∨ xpSpecial (xpAdd y z).1 = true := h.imp_right xpSpecial_xpAdd_of_special
  refine eq_of_xpInfs_eq (xpSpecial_xpAdd_of_special hleft) ?_
  calc xpInfs (xpAdd (xpAdd x y).1 z).1
      = xpInfs x ⊔ xpInfs y ⊔ xpInfs z := by rw [xpInfs_xpAdd_of_special hleft, xpInfs_xpAdd hxy]
    _ = xpInfs x ⊔ (xpInfs y ⊔ xpInfs z) := sup_assoc _ _ _
    _ = xpInfs (xpAdd x (xpAdd y z).1).1 := by rw [xpInfs_xpAdd_of_special hright, xpInfs_xpAdd hyz]

theorem xpAdd_nan_left (x : Xp) : (xpAdd .nan x).1 = .nan := by cases x <;> rfl

/-- Settles O54: sums with special values (R202). The result stands for the union of the inputs' infinities; NaN and the infinities are
the three sets that are not empty. -/
theorem specialSums : Obligations.SpecialSums :=
  ⟨fun x => ⟨xpAdd_nan_left x, by rw [xpAdd_comm_of_special (.inr rfl), xpAdd_nan_left]⟩,
   rfl, rfl, fun _ _ => ⟨rfl, rfl, rfl, rfl⟩,
   fun _ _ => xpAdd_comm_of_special,
   fun _ _ _ => xpAdd_assoc_of_special,
   fun _ _ => xpAdd_exact_of_special⟩

end Sys2Proof.Proofs
end

section
/-! PROOFS. Resets ordered through BAY_CMD (R345). A turn does nothing while a Sealed Store update is in progress,
and afterwards what the pin does. -/

namespace Sys2Proof.Proofs
open Sys2Proof Sys2Proof.Machine

/-! A soft reset that BAY_CMD ordered. -/

/-- An order for a soft reset waits while a Sealed Store update is in progress. -/
theorem softTurn_ordered_of_storeBusy {b : Block} (i : Nat) (h : b.keys.store.phase ≠ .idle) : softTurn (i, true) b = b :=
  if_neg h

/-- Without an update in progress the order is taken out, and one soft reset of the instance is under way. -/
theorem softTurn_ordered_of_storeIdle {b : Block} (i : Nat) (h : b.keys.store.phase = .idle) :
    softTurn (i, true) b = softBegin i { b with bay := { b.bay with
      softDue := (b.bay.softDue.filter (· != (i, true))).filter (· != (i, false)) ++ [(i, false)] } } :=
  if_pos h

/-- RST_SOFT at a released instance with no soft reset under way begins one. -/
theorem effRstSoft_of_released {b : Block} {i : Nat} (hrel : (getInst b i).released = true)
    (hnone : b.bay.softDue.contains (i, false) = false) :
    effRstSoft i b = softBegin i { b with bay := { b.bay with
      softDue := b.bay.softDue.filter (· != (i, true)) ++ [(i, false)] } } := by
  simp only [effRstSoft, hrel, hnone, Bool.not_true, Bool.or_self, Bool.false_eq_true, if_false]

/-- The order and the pin record the same resets: where none is under way at the instance, there is none to take out. -/
theorem softTurn_ordered_eq_effRstSoft {b : Block} {i : Nat} (hidle : b.keys.store.phase = .idle)
    (hrel : (getInst b i).released = true) (hnone : b.bay.softDue.contains (i, false) = false) :
    softTurn (i, true) b = effRstSoft i b := by
  have hkeep : (b.bay.softDue.filter (· != (i, true))).filter (· != (i, false)) = b.bay.softDue.filter (· != (i, true)) := by
    refine List.filter_eq_self.mpr fun e he => bne_iff_ne.mpr ?_
    rintro rfl
    have hmem : (i, false) ∈ b.bay.softDue := List.mem_of_mem_filter he
    rw [List.contains_iff_mem.mpr hmem] at hnone
    cases hnone
  rw [softTurn_ordered_of_storeIdle i hidle, effRstSoft_of_released hrel hnone, hkeep]

/-! A hard reset that BAY_CMD ordered, and RST_HARD_N. -/

/-- A hard reset that is owed waits while a Sealed Store update is in progress. -/
theorem hardTurn_of_storeBusy {b : Block} (h : b.keys.store.phase ≠ .idle) : hardTurn b = b := by
  simp [hardTurn, h]

/-- A hard reset that is owed happens once the Sealed Store and the host link keys have nothing left to do, and a boot begins. -/
theorem hardTurn_of_due {b : Block} (hdue : b.bay.hardDue = true) (hidle : b.keys.store.phase = .idle)
    (hide : ideIdle b.trust.ide = true) : hardTurn b = startBoot (hardReset b) := by
  simp [hardTurn, hdue, hidle, hide]

/-- RST_HARD_N going low and high again is a hard reset, with the pin high, and a boot. -/
theorem effRstHardNRelease_effRstHardNAssert (b : Block) :
    effRstHardNRelease (effRstHardNAssert b) = startBoot (updBoot (fun x => { x with hard := false }) (hardReset b)) := rfl

/-- A hard reset keeps the level of RST_HARD_N: a pin that was high need not be set high. -/
theorem updBoot_hard_false_hardReset {b : Block} (h : b.boot.hard = false) :
    updBoot (fun x => { x with hard := false }) (hardReset b) = hardReset b := by
  simp only [updBoot, hardReset, h]

theorem hardTurn_eq_assert_release {b : Block} (hdue : b.bay.hardDue = true) (hidle : b.keys.store.phase = .idle)
    (hide : ideIdle b.trust.ide = true) (hpin : b.boot.hard = false) :
    hardTurn b = effRstHardNRelease (effRstHardNAssert b) := by
  rw [hardTurn_of_due hdue hidle hide, effRstHardNRelease_effRstHardNAssert, updBoot_hard_false_hardReset hpin]

/-- RST_HARD_N going low is a hard reset at once: nothing of the Sealed Store is asked. -/
theorem exec_rstHardNAssert (s : State) :
    exec .rstHardNAssert s = .next (after (fun b => updBoot (fun x => { x with hard := true }) (hardReset b)) s) := rfl

/-- A hard reset forgets the Sealed Store, an update in progress included. -/
theorem hardReset_store (b : Block) : (hardReset b).keys.store = {} := rfl

/-- A hard reset keeps the firmware slot state. -/
theorem hardReset_aoFw (b : Block) : (hardReset b).boot.aoFw = b.boot.aoFw := rfl

/-- Settles O56: resets through BAY_CMD and RST_HARD_N (R345). An order waits for the Sealed Store and is then the pin's own reset:
for the soft one no reset is under way that the order would take out, for the hard one the pin is high already. -/
theorem orderedResets : Obligations.OrderedResets :=
  ⟨fun _ i => softTurn_ordered_of_storeBusy i,
   fun _ _ => softTurn_ordered_eq_effRstSoft,
   fun _ => hardTurn_of_storeBusy,
   fun _ => hardTurn_eq_assert_release,
   exec_rstHardNAssert,
   fun b => ⟨hardReset_store b, hardReset_aoFw b⟩⟩

end Sys2Proof.Proofs
end

section
/-! PROOFS. A command as a run of its effect: which commands run, what the step leaves of the queue, and that no Bay abort stays due
behind one (R347, R351). -/

namespace Sys2Proof.Proofs
open Sys2Proof Sys2Proof.Machine Sys2Proof.Laws

/-! The outcome of a run, for the completion statements: an effect that is known on the state's block gives the next state. -/

theorem run_eq_after {f g : Block → Block} {s : State} (h : f s.b = g s.b) : run f s = .next (after g s) := by
  rw [run, h]
  rfl

theorem run_eq_settled {f : Block → Block} {s : State} {d : Block} (h : f s.b = d) : run f s = .next (s.settled d) := by
  rw [run, h]
  rfl

/-- The same where the effect is already settled. -/
theorem run_eq_of_settled {f : Block → Block} {s : State} (h : settle (f s.b) = f s.b) : run f s = .next { s with b := f s.b } := by
  rw [run, h]

/-! Which commands run. -/

/-- A well-formed command is a run of an effect on the block: of the 314 only two look at their operands first. -/
theorem exec_eq_run_of_wellFormed {c : Instr} (h : wellFormed c = true) (s : State) : ∃ f, exec c s = run f s := by
  cases c with
  | bootData off data => exact ⟨effBootData off data, if_pos (of_decide_eq_true h)⟩
  | ltOrRequest inst port xfers => exact ⟨effLtOrRequest inst port xfers, if_pos (of_decide_eq_true h)⟩
  | _ => exact ⟨_, rfl⟩

/-- A command that is not well-formed stops with the one fault there is. -/
theorem exec_eq_fault_of_not_wellFormed {c : Instr} (h : wellFormed c = false) (s : State) : exec c s = .fault .illFormed := by
  cases c with
  | bootData off data => exact if_neg (of_decide_eq_false h)
  | ltOrRequest inst port xfers => exact if_neg (of_decide_eq_false h)
  | _ => cases h

/-- What a command does: it runs an effect, or it stops with the fault. -/
theorem exec_cases (c : Instr) (s : State) :
    (wellFormed c = true ∧ ∃ f, exec c s = run f s) ∨ (wellFormed c = false ∧ exec c s = .fault .illFormed) := by
  cases h : wellFormed c with
  | true => exact .inl ⟨rfl, exec_eq_run_of_wellFormed h s⟩
  | false => exact .inr ⟨rfl, exec_eq_fault_of_not_wellFormed h s⟩

/-- What a command gives, where it gives a state, is an effect on its block, settled; the queue is as it was. -/
theorem exec_next {c : Instr} {s t : State} (h : exec c s = .next t) : ∃ f : Block → Block, t = s.settled (f s.b) := by
  rcases exec_cases c s with ⟨-, f, hf⟩ | ⟨-, hf⟩
  · rw [hf] at h
    cases h
    exact ⟨f, rfl⟩
  · rw [hf] at h
    cases h

theorem wellFormed_eq_false_of_fault {c : Instr} {s : State} {f : Fault} (h : exec c s = .fault f) : wellFormed c = false := by
  rcases exec_cases c s with ⟨-, g, hg⟩ | ⟨hw, -⟩
  · rw [hg] at h
    cases h
  · exact hw

theorem exec_ne_refused (c : Instr) (s : State) (r : Refusal) : exec c s ≠ .refused r := by
  rcases exec_cases c s with ⟨-, f, hf⟩ | ⟨-, hf⟩
  · rw [hf]
    exact nofun
  · rw [hf]
    exact nofun

/-- Settles O51: the two malformed commands. -/
theorem malformedCommands : Obligations.MalformedCommands :=
  ⟨fun s off data h => exec_eq_fault_of_not_wellFormed (c := .bootData off data) (decide_eq_false (by omega)) s,
   fun s inst port xfers h => exec_eq_fault_of_not_wellFormed (c := .ltOrRequest inst port xfers) (decide_eq_false (by omega)) s,
   fun _ _ _ => wellFormed_eq_false_of_fault,
   fun s c => exec_ne_refused c s⟩

/-! The queue. -/

theorem step_of_pending {s : State} {c : Instr} {rest : List Instr} (h : s.pending = c :: rest) :
    step s = exec c { s with pending := rest } := by
  simp only [step, h]

theorem step_of_pending_nil {s : State} (h : s.pending = []) : step s = .next s := by
  simp only [step, h]

/-- Settles O49: a step runs the front of the queue; an empty queue idles. -/
theorem stepRunsFront : Obligations.StepRunsFront :=
  ⟨fun _ _ => rfl, fun _ => step_of_pending_nil⟩

/-- A step that has a command at the front leaves the rest of the queue. -/
theorem step_leaves_rest {s t : State} {c : Instr} {rest : List Instr} (hp : s.pending = c :: rest) (h : step s = .next t) :
    t.pending = rest := by
  rw [step_of_pending hp] at h
  obtain ⟨f, rfl⟩ := exec_next h
  rfl

/-- A step at a well-formed command neither faults nor refuses. -/
theorem step_next_of_wellFormed {s : State} {c : Instr} {rest : List Instr} (hp : s.pending = c :: rest) (hc : wellFormed c = true) :
    ∃ t, step s = .next t := by
  obtain ⟨f, hf⟩ := exec_eq_run_of_wellFormed hc { s with pending := rest }
  exact ⟨_, (step_of_pending hp).trans hf⟩

/-- A queue of well-formed commands is empty after as many steps as it has commands. -/
theorem steps_to_the_end : ∀ (l : List Instr) (s : State), s.pending = l → (∀ c ∈ l, wellFormed c = true) →
    ∃ t, steps l.length s = some t ∧ t.pending = []
  | [], s, hp, _ => ⟨s, rfl, hp⟩
  | c :: rest, s, hp, hw => by
    obtain ⟨t, ht⟩ := step_next_of_wellFormed hp (hw c List.mem_cons_self)
    obtain ⟨u, hu, hend⟩ := steps_to_the_end rest t (step_leaves_rest hp ht) fun x hx => hw x (List.mem_cons_of_mem _ hx)
    refine ⟨u, ?_, hend⟩
    simp only [List.length_cons, steps, ht, hu]

/-- Settles O50: a queue of well-formed commands runs to its end, by induction on the queue; each step takes one command. -/
theorem commandsRunToTheEnd : Obligations.CommandsRunToTheEnd :=
  ⟨fun s hw => steps_to_the_end s.pending s rfl hw, fun _ _ _ _ => step_leaves_rest⟩

/-! Bay aborts (R347, R351). -/

/-- An abort that starts marks the package; stopping the work touches Bay no further. -/
theorem startAbort_bay_of_unfrozen {b : Block} (cause : Status) (origin : Pkg) (h : b.bay.state ≠ 1) :
    (startAbort cause origin b).bay = { b.bay with due := none, state := 1, cause := cause, origin := origin } := by
  rw [startAbort, if_neg h]
  simp [abortMark]

/-- A frozen package ignores an abort (R347). -/
theorem startAbort_of_frozen {b : Block} (cause : Status) (origin : Pkg) (h : b.bay.state = 1) :
    startAbort cause origin b = { b with bay := { b.bay with due := none } } := if_pos h

/-- Settles O48: a due abort starts, or a frozen package ignores it. -/
theorem abortStarts : Obligations.AbortStarts :=
  ⟨fun _ => startAbort_bay_of_unfrozen, fun _ => startAbort_of_frozen⟩

theorem startAbort_due (cause : Status) (origin : Pkg) (b : Block) : (startAbort cause origin b).bay.due = none := by
  by_cases h : b.bay.state = 1
  · rw [startAbort_of_frozen cause origin h]
  · rw [startAbort_bay_of_unfrozen cause origin h]

/-- Nothing is due once what was due has started. -/
theorem abortDue_due (b : Block) : (abortDue b).bay.due = none := by
  unfold abortDue
  split
  · exact startAbort_due _ _ b
  · assumption

theorem due_of_calm {b : Block} (h : calm b = true) : b.bay.due = none := by
  simp only [calm, Bool.and_eq_true, Option.isNone_iff_eq_none] at h
  tauto

/-- What follows a command leaves no abort due: a calm block has none, and any other is settled with the abort last. -/
theorem settle_due (b : Block) : (settle b).bay.due = none := by
  unfold settle
  split
  · next h => exact due_of_calm h
  · rw [settleAll]
    exact abortDue_due _

/-- Settles O47: no Bay abort waits between commands. Every command's effect is settled; an empty queue idles. -/
theorem noAbortWaits : Obligations.NoAbortWaits := by
  intro s t hs h
  cases hp : s.pending with
  | nil =>
    rw [step_of_pending_nil hp] at h
    cases h
    exact hs
  | cons c rest =>
    rw [step_of_pending hp] at h
    obtain ⟨f, rfl⟩ := exec_next h
    exact settle_due _

end Sys2Proof.Proofs
end

section
/-! PROOFS. The tables' one canonical form (pairs of index and entry, indices rising), and status codes by rank (R25). -/

namespace Sys2Proof.Proofs
open Sys2Proof Sys2Proof.Machine Sys2Proof.Laws

/-- Settles O52: read after write and the canonical form, for tables from index 0 on. -/
theorem tableLaws : Obligations.TableLaws :=
  fun _ _ _ _ _ _ => ⟨fun _ => get_set, set_wf (Nat.zero_le _), fun _ => mapAll_wf, fun _ _ h hd => get_mapAll hd h,
    fun _ => sparse_ext⟩

/-- OK has the highest rank, so it is the worst only where it stands alone. -/
theorem eq_ok_of_rank_le {x : Status} (h : statusRank .ok ≤ statusRank x) : x = .ok :=
  rank_inj _ _ (Nat.le_antisymm (rank_ok x) h)

theorem statusWorst_le {l : List Status} {x : Status} (hx : x ∈ l) : statusRank (statusWorst l) ≤ statusRank x :=
  (fold_spec l .ok).2.2 x hx

theorem statusWorst_mem {l : List Status} (hl : l ≠ []) : statusWorst l ∈ l := by
  rcases (fold_spec l .ok).1 with hok | hmem
  · obtain ⟨x, hx⟩ := List.exists_mem_of_ne_nil l hl
    have hle : statusRank .ok ≤ statusRank x := hok ▸ statusWorst_le hx
    rw [statusWorst, hok, ← eq_ok_of_rank_le hle]
    exact hx
  · exact hmem

/-- Settles O55: the reported status (R25), by what a fold of `statusMin` gives. -/
theorem reportedStatus : Obligations.ReportedStatus :=
  fun _ hl => ⟨statusWorst_mem hl, fun _ => statusWorst_le⟩

end Sys2Proof.Proofs
end

section
/-! PROOFS. Exact sums as they are stored (R199, R200). Two facts carry everything: how many bits a significand takes, as the least
power of two that bounds it on both sides, and the stored SIG as the greatest integer below the sum, so that every bound on the one is a
bound on the other. -/

namespace Sys2Proof.Proofs
open Sys2Proof Sys2Proof.Machine

/-! The bits of a significand. -/

/-- The bits of a number in two's complement, without its sign. -/
def sigBits (m : Int) : Nat := if 0 < m then Nat.size m.toNat else Nat.size (m.natAbs - 1)

theorem sigBits_le_iff (m : Int) (n : Nat) : sigBits m ≤ n ↔ -(2 ^ n) ≤ m ∧ m < 2 ^ n := by
  have hcast : ((2 ^ n : Nat) : Int) = 2 ^ n := by push_cast; rfl
  have hpos : 0 < 2 ^ n := Nat.two_pow_pos n
  unfold sigBits
  split <;> rw [Nat.size_le] <;> omega

theorem sigBits_bounds (m : Int) : -(2 ^ sigBits m) ≤ m ∧ m < 2 ^ sigBits m := (sigBits_le_iff m _).mp le_rfl

/-- No smaller power of two bounds the number. -/
theorem two_pow_sigBits_le (m : Int) : (0 < m → 2 ^ sigBits m ≤ 2 * m) ∧ (m < 0 → 2 * m < -(2 ^ sigBits m)) := by
  cases hb : sigBits m with
  | zero => constructor <;> intro h <;> norm_num <;> omega
  | succ n =>
    have hn : ¬ (-(2 ^ n) ≤ m ∧ m < 2 ^ n) := fun h => by
      have := (sigBits_le_iff m n).mpr h
      omega
    have hpos : (0 : Int) < 2 ^ n := by positivity
    rw [pow_succ]
    constructor <;> intro h <;> omega

/-- A shift to the left by `j` adds `j` bits. -/
theorem sigBits_shift {m : Int} (hm : m ≠ 0) (j : Nat) : sigBits (m * 2 ^ j) = sigBits m + j := by
  have hj : (0 : Int) < 2 ^ j := by positivity
  apply le_antisymm
  · obtain ⟨hlo, hhi⟩ := sigBits_bounds m
    rw [sigBits_le_iff, pow_add]
    constructor <;> nlinarith
  · obtain ⟨hlo, hhi⟩ := sigBits_bounds (m * 2 ^ j)
    have hle : j ≤ sigBits (m * 2 ^ j) := by
      by_contra hlt
      have hpow : (2 : Int) ^ sigBits (m * 2 ^ j) < 2 ^ j := pow_lt_pow_right₀ (by norm_num) (by omega)
      rcases lt_or_gt_of_ne hm with h | h <;> nlinarith
    obtain ⟨i, hi⟩ := Nat.exists_eq_add_of_le' hle
    rw [hi, pow_add] at hlo hhi
    rw [hi, Nat.add_le_add_iff_right, sigBits_le_iff]
    exact ⟨le_of_mul_le_mul_right (by linarith) hj, lt_of_mul_lt_mul_right hhi hj.le⟩

/-! SIG as a floor. -/

/-- What is stored is the greatest integer below m ÷ 2^k, for whatever powers `p` and `q` the scale is written with. -/
theorem le_scaleDown_iff {m k a : Int} {p q : Nat} (hk : (p : Int) - q = k) :
    a ≤ scaleDown m k ↔ a * 2 ^ p ≤ m * 2 ^ q := by
  unfold scaleDown
  split
  · next h =>
    obtain ⟨n, rfl⟩ := Int.eq_ofNat_of_zero_le h
    have hp : p = n + q := by omega
    rw [Int.toNat_natCast, Int.le_ediv_iff_mul_le (by positivity), hp, pow_add, ← mul_assoc]
    exact (mul_le_mul_iff_of_pos_right (by positivity)).symm
  · next h =>
    obtain ⟨n, hn⟩ := Int.eq_ofNat_of_zero_le (show 0 ≤ -k by omega)
    have hq : q = n + p := by omega
    rw [hn, Int.toNat_natCast, hq, pow_add, ← mul_assoc]
    exact (mul_le_mul_iff_of_pos_right (by positivity)).symm

theorem scaleDown_lt_iff {m k a : Int} {p q : Nat} (hk : (p : Int) - q = k) :
    scaleDown m k < a ↔ m * 2 ^ q < a * 2 ^ p := by
  rw [← not_le, ← not_le, le_scaleDown_iff hk]

/-- A shift of the number is a shift of the scale. -/
theorem scaleDown_shift (m k : Int) (j : Nat) : scaleDown (m * 2 ^ j) k = scaleDown m (k - j) := by
  have hk : ((k.toNat : Nat) : Int) - ((-k).toNat : Nat) = k := by omega
  have hiff (a : Int) : a ≤ scaleDown (m * 2 ^ j) k ↔ a ≤ scaleDown m (k - j) := by
    rw [le_scaleDown_iff hk, le_scaleDown_iff (p := k.toNat) (q := j + (-k).toNat) (by omega), pow_add, mul_assoc]
  exact le_antisymm ((hiff _).mp le_rfl) ((hiff _).mpr le_rfl)

/-! The stored form. -/

/-- The EXP under which `m × 2^e` is normalised, or the least one. -/
def expOf (m e : Int) : Int := max (e + ((sigBits m : Int) - 143)) (-32767)

theorem xpNorm_zero (e : Int) : xpNorm 0 e = (.fin 0 0, false) := if_pos rfl

theorem xpNorm_of_ne_zero {m : Int} (e : Int) (hm : m ≠ 0) :
    xpNorm m e =
      if 32767 < expOf m e then (if 0 < m then .pinf else .ninf, false)
      else (.fin (scaleDown m (expOf m e - e)) (expOf m e),
        decide (scaleDown m (expOf m e - e) * 2 ^ (expOf m e - e).toNat ≠ m * 2 ^ (e - expOf m e).toNat)) := by
  have hbits : (if 0 < m then (Nat.size m.toNat : Int) else Nat.size (m.natAbs - 1)) = sigBits m := by
    unfold sigBits
    split <;> rfl
  rw [xpNorm, if_neg hm]
  simp only [hbits]
  rfl

/-- Where a sum that is not zero is stored as a number, its EXP is in range and its SIG is the floor under it. -/
theorem xpNorm_eq_fin {m e s x : Int} {d : Bool} (hm : m ≠ 0) (h : xpNorm m e = (.fin s x, d)) :
    x = expOf m e ∧ x ≤ 32767 ∧ s = scaleDown m (x - e) ∧ d = decide (s * 2 ^ (x - e).toNat ≠ m * 2 ^ (e - x).toNat) := by
  rw [xpNorm_of_ne_zero e hm] at h
  split at h
  · split at h <;> cases h
  · next hle =>
    cases h
    exact ⟨rfl, not_lt.mp hle, rfl, rfl⟩

/-- The scale from EXP of the sum to EXP as stored, as a difference of two powers. -/
theorem scale_eq (x e : Int) : ((x - min x e).toNat : Int) - ((e - min x e).toNat : Nat) = x - e := by omega

/-- SIG is normalised (R199), unless EXP is already the least there is: then SIG takes fewer bits. -/
theorem xpStored_scaleDown {m e : Int} (hm : m ≠ 0) (he : -32767 ≤ e) (hx : expOf m e ≤ 32767) :
    xpStored (.fin (scaleDown m (expOf m e - e)) (expOf m e)) := by
  obtain ⟨hlo, hhi⟩ := sigBits_bounds m
  obtain ⟨hpos, hneg⟩ := two_pow_sigBits_le m
  have hk := scale_eq (expOf m e) e
  have hcases : expOf m e = e + ((sigBits m : Int) - 143) ∧ -32767 ≤ expOf m e
      ∨ expOf m e = -32767 ∧ e + ((sigBits m : Int) - 143) < -32767 := by
    unfold expOf
    omega
  set p := (expOf m e - min (expOf m e) e).toNat
  set q := (e - min (expOf m e) e).toNat
  have hp2 : (0 : Int) < 2 ^ p := by positivity
  have hq2 : (0 : Int) < 2 ^ q := by positivity
  rcases hcases with ⟨hnorm, hleast⟩ | ⟨hleast, hsmall⟩
  · have hpow : (2 : Int) ^ sigBits m * 2 ^ q = 2 ^ 143 * 2 ^ p := by
      rw [← pow_add, ← pow_add]
      congr 1
      omega
    refine .inr (.inl ⟨hleast, hx, ?_⟩)
    rcases lt_or_gt_of_ne hm with h | h
    · exact .inr ⟨(le_scaleDown_iff hk).mpr (by nlinarith), (scaleDown_lt_iff hk).mpr (by nlinarith [hneg h])⟩
    · exact .inl ⟨(le_scaleDown_iff hk).mpr (by nlinarith [hpos h]), (scaleDown_lt_iff hk).mpr (by nlinarith)⟩
  · have hp0 : p = 0 := by omega
    have hpow : (2 : Int) ^ sigBits m * 2 ^ q ≤ 2 ^ 142 := by
      rw [← pow_add]
      exact pow_le_pow_right₀ (by norm_num) (by omega)
    rw [hp0] at hk
    refine .inr (.inr ⟨hleast, (le_scaleDown_iff hk).mpr (by nlinarith), (scaleDown_lt_iff hk).mpr (by nlinarith)⟩)

/-- R199, R200: a finite result is stored as it should be, is the floor of the sum, and is marked inexact where bits drop. -/
theorem xpNorm_fin_spec {m e s x : Int} {d : Bool} (he : -32767 ≤ e) (h : xpNorm m e = (.fin s x, d)) :
    xpStored (.fin s x)
      ∧ s * 2 ^ (x - min x e).toNat ≤ m * 2 ^ (e - min x e).toNat
      ∧ m * 2 ^ (e - min x e).toNat < (s + 1) * 2 ^ (x - min x e).toNat
      ∧ (d = true ↔ s * 2 ^ (x - min x e).toNat ≠ m * 2 ^ (e - min x e).toNat) := by
  by_cases hm : m = 0
  · subst hm
    rw [xpNorm_zero] at h
    cases h
    exact ⟨.inl ⟨rfl, rfl⟩, by simp, by simp, by simp⟩
  · obtain ⟨hx, hmax, hs, hd⟩ := xpNorm_eq_fin hm h
    have hxe : (x - e).toNat = (x - min x e).toNat := by omega
    have hex : (e - x).toNat = (e - min x e).toNat := by omega
    refine ⟨?_, (le_scaleDown_iff (scale_eq x e)).mp hs.le, (scaleDown_lt_iff (scale_eq x e)).mp (by omega), ?_⟩
    · rw [hs, hx]
      exact xpStored_scaleDown hm he (hx ▸ hmax)
    · rw [hd, hxe, hex, decide_eq_true_eq]

/-- Only a sum whose normalised EXP is above 32,767 is stored as an infinity, by its sign. -/
theorem xpNorm_special_spec {m e : Int} (h : xpSpecial (xpNorm m e).1 = true) :
    2 ^ 142 * 2 ^ (32768 - min e 32768).toNat ≤ m.natAbs * 2 ^ (e - min e 32768).toNat
      ∧ (xpNorm m e).1 = if 0 < m then .pinf else .ninf := by
  have hm : m ≠ 0 := by
    rintro rfl
    rw [xpNorm_zero] at h
    cases h
  rw [xpNorm_of_ne_zero e hm] at h ⊢
  split at h
  · next hx =>
    refine ⟨?_, by rw [if_pos hx]⟩
    obtain ⟨hpos, hneg⟩ := two_pow_sigBits_le m
    have hbits : 2 ^ sigBits m ≤ 2 * m.natAbs := by
      zify
      rcases lt_or_gt_of_ne hm with h | h
      · rw [abs_of_neg h]
        linarith [hneg h]
      · rw [abs_of_pos h]
        exact hpos h
    have hexp : 143 + (32768 - min e 32768).toNat ≤ sigBits m + (e - min e 32768).toNat := by
      unfold expOf at hx
      omega
    have hpow : 2 ^ 143 * 2 ^ (32768 - min e 32768).toNat ≤ 2 ^ sigBits m * 2 ^ (e - min e 32768).toNat := by
      rw [← pow_add, ← pow_add]
      exact Nat.pow_le_pow_right (by norm_num) hexp
    have hmul := Nat.mul_le_mul_right (2 ^ (e - min e 32768).toNat) hbits
    rw [mul_assoc] at hmul
    omega
  · cases h

/-- The number shifted is the exponent raised: both are stored alike. -/
theorem xpNorm_shift (m e : Int) (j : Nat) : (xpNorm (m * 2 ^ j) e).1 = (xpNorm m (e + j)).1 := by
  by_cases hm : m = 0
  · subst hm
    rw [zero_mul, xpNorm_zero, xpNorm_zero]
  · have hj : (0 : Int) < 2 ^ j := by positivity
    have hx : expOf (m * 2 ^ j) e = expOf m (e + j) := by
      unfold expOf
      rw [sigBits_shift hm]
      congr 1
      push_cast
      ring
    rw [xpNorm_of_ne_zero e (mul_ne_zero hm hj.ne'), xpNorm_of_ne_zero _ hm, hx, scaleDown_shift,
      show expOf m (e + j) - e - j = expOf m (e + j) - (e + j) by ring]
    simp only [mul_pos_iff_of_pos_right hj]
    split <;> rfl

/-- Equal sums are stored with the same bits. -/
theorem xpNorm_eq_of_eq {m e m' e' : Int} (h : m * 2 ^ (e - min e e').toNat = m' * 2 ^ (e' - min e e').toNat) :
    (xpNorm m e).1 = (xpNorm m' e').1 := by
  have hl := xpNorm_shift m (min e e') (e - min e e').toNat
  have hr := xpNorm_shift m' (min e e') (e' - min e e').toNat
  rw [show min e e' + ((e - min e e').toNat : Int) = e by omega] at hl
  rw [show min e e' + ((e' - min e e').toNat : Int) = e' by omega] at hr
  rw [← hl, ← hr, h]

/-- Settles O59: exact sums as they are stored (R199, R200), by the floor and the bits of a significand. -/
theorem exactSumsStored : Obligations.ExactSumsStored :=
  ⟨fun _ _ _ _ => rfl, fun _ _ _ _ _ => xpNorm_fin_spec, fun _ _ _ => xpNorm_special_spec, fun _ _ _ _ _ _ => xpNorm_eq_of_eq⟩

end Sys2Proof.Proofs
end

section
/-! PROOFS. Sealed lines (R80, R84 to R86). Counter-mode encryption undoes itself, since the pads cover a line; the sideband reads back
field by field; so what a read finds in a line that the MCS has sealed is what was sealed. -/

namespace Sys2Proof.Proofs
open Sys2Proof Sys2Proof.Machine Sys2Proof.Laws

/-- Bytes are read back from the number they spell. -/
theorem leBytes_leNat : ∀ b : Bytes, leBytes b.length (leNat b) = b
  | [] => rfl
  | x :: b => by
    have hx : x.toNat < 256 := x.isLt
    have hhead : BitVec.ofNat 8 (x.toNat + 256 * leNat b) = x := by
      apply BitVec.eq_of_toNat_eq
      rw [BitVec.toNat_ofNat]
      omega
    have htail : (x.toNat + 256 * leNat b) / 256 = leNat b := by omega
    rw [List.length_cons, leNat, leBytes, hhead, htail, leBytes_leNat b]

theorem leNat_lt : ∀ b : Bytes, leNat b < 256 ^ b.length
  | [] => by simp [leNat]
  | x :: b => by
    have hx : x.toNat < 256 := x.isLt
    have hb := leNat_lt b
    rw [leNat, List.length_cons, pow_succ]
    omega

/-- `n` bytes hold what a vector of their bits holds. -/
theorem pow_256 (n : Nat) : 256 ^ n = 2 ^ (8 * n) := by
  rw [show (256 : Nat) = 2 ^ 8 from rfl, ← pow_mul]

theorem leBytes_ofNat_leNat (b : Bytes) : leBytes b.length (BitVec.ofNat (8 * b.length) (leNat b)).toNat = b := by
  rw [BitVec.toNat_ofNat, ← pow_256, Nat.mod_eq_of_lt (leNat_lt b), leBytes_leNat]

theorem ofNat_leNat_leBytes {n : Nat} (v : BitVec (8 * n)) : BitVec.ofNat (8 * n) (leNat (leBytes n v.toNat)) = v := by
  apply BitVec.eq_of_toNat_eq
  rw [leNat_leBytes, pow_256, BitVec.toNat_ofNat, Nat.mod_mod, Nat.mod_eq_of_lt v.isLt]

theorem lineBytes_length (l : Line) : (lineBytes l).length = 128 := leBytes_length 128 _

theorem lineBytes_lineOf {b : Bytes} (h : b.length = 128) : lineBytes (lineOf b) = b := by
  have hback := leBytes_ofNat_leNat b
  rw [h] at hback
  exact hback

theorem lineOf_lineBytes (l : Line) : lineOf (lineBytes l) = l := ofNat_leNat_leBytes (n := 128) l

/-- Pads that cover a string and are laid over it twice leave it. -/
theorem xorBytes_cancel : ∀ {a p : Bytes}, a.length ≤ p.length → xorBytes (xorBytes a p) p = a
  | [], p, _ => by simp [xorBytes]
  | x :: a, [], h => by simp at h
  | x :: a, y :: p, h => by
    have htail : xorBytes (xorBytes a p) p = a := xorBytes_cancel (Nat.le_of_succ_le_succ h)
    simp only [xorBytes, List.zipWith_cons_cons] at htail ⊢
    rw [htail, BitVec.xor_assoc, BitVec.xor_self, BitVec.xor_zero]

/-- Counter-mode encryption under a region's key undoes itself (R80). -/
theorem ctrLine_ctrLine (key : Key) (t : Tuple) (l : Line) : ctrLine (kEnc key) t (ctrLine (kEnc key) t l) = l := by
  have hp : (padBytes (kEnc key) t).length = 128 := pads_length (kEnc_length key) t
  have hx : (xorBytes (lineBytes l) (padBytes (kEnc key) t)).length = 128 := by
    rw [xorBytes_length, lineBytes_length, hp, min_self]
  rw [ctrLine, ctrLine, lineBytes_lineOf hx, xorBytes_cancel (by rw [lineBytes_length, hp]), lineOf_lineBytes]

/-- The MAC of a ciphertext as the sideband carries it: inverted where the line is poisoned (R85). -/
def storedMac (r : Rgn) (key : Key) (line : Nat) (c : Counters) (ct : Line) (poison : Bool) : Word :=
  if poison then ~~~ lineMac (kMac key) (tupleOf r line c) ct else lineMac (kMac key) (tupleOf r line c) ct

/-! What a line is sealed as, and what is found in it (Table 3.6). -/

section
variable {r : Rgn} (key : Key) (gens : List Nat) (kgen line host : Nat) (c : Counters) (l : Line) (origin poison inexact : Bool)

theorem sealLine_plain (hm : r.mode = .plain) :
    sealLine r (workKeys key) kgen line host c l (sorrelOf l) origin poison inexact =
      (l, sideband 0 (if r.spol = 2 then 0 else sorrelOf l) 0 poison origin .plain inexact) := by
  simp only [sealLine, hm]

theorem sealLine_auth (hm : r.mode = .ro ∨ r.mode = .rw) :
    sealLine r (workKeys key) kgen line host c l (sorrelOf l) origin poison inexact =
      (ctrLine (kEnc key) (tupleOf r line c) l,
        sideband (storedMac r key line c (ctrLine (kEnc key) (tupleOf r line c) l) poison)
          (sorrelOf l ^^^ sorrelMask (kEnc key) (tupleOf r line c)) kgen poison (origin && r.mode == .rw) r.mode (inexact && r.mode == .rw)) := by
  rcases hm with hm | hm <;> simp only [sealLine, hm, workKeys, storedMac]

/-- R86, PLAIN: where the sideband echoes the mode and its check value agrees, unless the region checks none, only poison is told. -/
theorem checkLine_plain {s : Sideband} (hm : r.mode = .plain) (hmode : sbMode s = modeNum .plain)
    (hsor : r.spol ≠ 2 → sbSorrel s = sorrelOf l) :
    let chk := checkLine r (workKeys key) gens line host c l (some s) false
    chk.early = (if sbPoison s then [.poison] else []) ∧ chk.late = [] ∧ chk.data = l ∧ chk.sorrel = sorrelOf l := by
  by_cases hs : r.spol = 2
  · simp [checkLine, hm, hmode, hs]
  · simp [checkLine, hm, hmode, hs, hsor hs]

/-- R86, RO-AUTH and RW-AUTH: where mode, generation, MAC and check value agree, only poison is told. -/
theorem checkLine_auth {s : Sideband} {ct : Line} (hm : r.mode = .ro ∨ r.mode = .rw) (hmode : sbMode s = modeNum r.mode)
    (hgen : sbGen s ∈ gens) (hmac : sbMac s = storedMac r key line c ct (sbPoison s))
    (hdata : ctrLine (kEnc key) (tupleOf r line c) ct = l) (hsor : sbSorrel s ^^^ sorrelMask (kEnc key) (tupleOf r line c) = sorrelOf l) :
    let chk := checkLine r (workKeys key) gens line host c ct (some s) false
    chk.early = (if sbPoison s then [.poison] else []) ∧ chk.late = [] ∧ chk.data = l ∧ chk.sorrel = sorrelOf l := by
  have hauth : (r.mode == .ro || r.mode == .rw) = true := by simpa using hm
  have hmacOk : (sbMac s != if sbPoison s then ~~~ lineMac (kMac key) (tupleOf r line c) ct
      else lineMac (kMac key) (tupleOf r line c) ct) = false := by
    rw [hmac, storedMac, bne_self_eq_false]
  rcases hm with hm | hm <;> simp [checkLine, workKeys, hm, hmode, hgen, hmacOk, hdata, hsor]

/-- What is sealed in the PLAIN format reads back. -/
theorem checkLine_sealed_plain (hm : r.mode = .plain) :
    let sealed := sealLine r (workKeys key) kgen line host c l (sorrelOf l) origin poison inexact
    let chk := checkLine r (workKeys key) gens line host c sealed.1 (some sealed.2) false
    chk.early = (if poison then [.poison] else []) ∧ chk.late = [] ∧ chk.data = l ∧ chk.sorrel = sorrelOf l := by
  obtain ⟨-, hsor, -, hpoi, hmode⟩ := sb_fields 0 (if r.spol = 2 then 0 else sorrelOf l) 0 poison origin .plain inexact (by decide)
  have hread := checkLine_plain key gens line host c l hm hmode fun hs => by rw [hsor, if_neg hs]
  rw [hpoi] at hread
  rw [sealLine_plain key kgen line host c l origin poison inexact hm]
  exact hread

/-- What is sealed in an authenticated format reads back: it decrypts to what it was. -/
theorem checkLine_sealed_auth (hm : r.mode = .ro ∨ r.mode = .rw) (hk : kgen < 256) (hg : gens.contains kgen = true) :
    let sealed := sealLine r (workKeys key) kgen line host c l (sorrelOf l) origin poison inexact
    let chk := checkLine r (workKeys key) gens line host c sealed.1 (some sealed.2) false
    chk.early = (if poison then [.poison] else []) ∧ chk.late = [] ∧ chk.data = l ∧ chk.sorrel = sorrelOf l := by
  obtain ⟨hmac, hsor, hgen, hpoi, hmode⟩ := sb_fields
    (storedMac r key line c (ctrLine (kEnc key) (tupleOf r line c) l) poison)
    (sorrelOf l ^^^ sorrelMask (kEnc key) (tupleOf r line c)) kgen poison (origin && r.mode == .rw) r.mode (inexact && r.mode == .rw) hk
  have hmask : (sorrelOf l ^^^ sorrelMask (kEnc key) (tupleOf r line c)) ^^^ sorrelMask (kEnc key) (tupleOf r line c) = sorrelOf l := by
    rw [BitVec.xor_assoc, BitVec.xor_self, BitVec.xor_zero]
  have hread := checkLine_auth key gens line host c l hm hmode (by rw [hgen]; exact List.contains_iff_mem.mp hg)
    (by rw [hpoi, hmac]) (ctrLine_ctrLine key (tupleOf r line c) l) (by rw [hsor, hmask])
  rw [hpoi] at hread
  rw [sealLine_auth key kgen line host c l origin poison inexact hm]
  exact hread

theorem checkLine_sealed (hm : r.mode ≠ .xts) (hk : kgen < 256) (hg : gens.contains kgen = true) :
    let sealed := sealLine r (workKeys key) kgen line host c l (sorrelOf l) origin poison inexact
    let chk := checkLine r (workKeys key) gens line host c sealed.1 (some sealed.2) false
    chk.early = (if poison then [.poison] else []) ∧ chk.late = [] ∧ chk.data = l ∧ chk.sorrel = sorrelOf l := by
  cases h : r.mode with
  | plain => exact checkLine_sealed_plain key gens kgen line host c l origin poison inexact h
  | xts => exact absurd h hm
  | ro => exact checkLine_sealed_auth key gens kgen line host c l origin poison inexact (.inl h) hk hg
  | rw => exact checkLine_sealed_auth key gens kgen line host c l origin poison inexact (.inr h) hk hg

/-- R86: under an authenticated format a MAC that is not the line's is found, after delivery. -/
theorem tagFail_mem_checkLine {s : Sideband} (hm : r.mode = .ro ∨ r.mode = .rw) (hp : sbPoison s = false)
    (hs : sbMac s ≠ lineMac (workKeys key).mac (tupleOf r line c) l) :
    Status.tagFail ∈ (checkLine r (workKeys key) gens line host c l (some s) false).late := by
  have hauth : (r.mode == .ro || r.mode == .rw) = true := by simpa using hm
  have hbad : (sbMac s != lineMac (workKeys key).mac (tupleOf r line c) l) = true := bne_iff_ne.mpr hs
  simp [checkLine, hauth, hp, hbad]

end

/-- Settles O60: sealed lines (R80, R84 to R86), format by format. -/
theorem sealedLines : Obligations.SealedLines :=
  ⟨fun _ key gens kgen line host c l origin inexact hm hk hg => checkLine_sealed key gens kgen line host c l origin false inexact hm hk hg,
   fun _ key gens kgen line host c l origin inexact hm hk hg =>
    have hread := checkLine_sealed key gens kgen line host c l origin true inexact hm hk hg
    ⟨hread.1, hread.2.1⟩,
   fun _ key gens line host c l _ hm hp hs => tagFail_mem_checkLine key gens line host c l hm hp hs⟩

end Sys2Proof.Proofs
end

section
/-! PROOFS. Resets, tamper, scan and Bay (R68, R343 to R363): what each event does at a die in the state that the statement names. -/

namespace Sys2Proof.Proofs
open Sys2Proof Sys2Proof.Machine Sys2Proof.Laws

/-! Hard reset and the AO island (R17, R343, R363, R374). -/

/-- After a hard reset nothing waits: all that could is at reset. -/
theorem settle_effRstHardNAssert (b : Block) : settle (effRstHardNAssert b) = effRstHardNAssert b := if_pos rfl

/-- The boot begins at step 2 of a package whose pin is high, where no die sleeps and a primary-capable die has VAO. -/
theorem startBoot_of_up {b : Block} (hpin : b.boot.hard = false) (hstep : b.boot.step = 0)
    (hawake : b.inst.all (fun e => !e.2.ao.asleep) = true) (hvao : b.inst.any (fun e => e.2.built && e.2.primary && e.2.ao.good) = true) :
    startBoot b = updOtp (fun o => { o with own := true }) (updBoot (fun x => { x with step := 2 }) b) := by
  simp only [startBoot, hpin, hstep, hawake, hvao, Bool.not_false, beq_self_eq_true, Bool.and_self, if_true]

theorem effRstHardNRelease_of_up {b : Block} (hpin : b.boot.hard = true) (hstep : b.boot.step = 0)
    (hawake : b.inst.all (fun e => !e.2.ao.asleep) = true) (hvao : b.inst.any (fun e => e.2.built && e.2.primary && e.2.ao.good) = true) :
    effRstHardNRelease b = { b with boot := { b.boot with hard := false, step := 2 }, otp := { b.otp with own := true } } := by
  rw [effRstHardNRelease, if_pos hpin]
  exact startBoot_of_up (b := updBoot (fun x => { x with hard := false }) b) rfl hstep hawake hvao

/-- The power cycle of a die that no primary can be: the firmware slot state is not its own. -/
theorem effAoPowerCycle_of_secondary {b : Block} {i : Nat} (hb : (getInst b i).built = true) (hp : (getInst b i).primary = false) :
    effAoPowerCycle i b = startBoot (updAo i (fun _ => { cold := true }) (hardReset b)) := by
  simp only [effAoPowerCycle, hb, hp, Bool.false_and, Bool.false_eq_true, if_true, if_false]

theorem effVaoGoodAssert_of_built {b : Block} {i : Nat} (hb : (getInst b i).built = true) :
    effVaoGoodAssert i b = startBoot (updAo i (fun a => { a with good := true }) b) := if_pos hb

theorem effVddFailSleep_of_awake {b : Block} {i : Nat} (hb : (getInst b i).built = true) (hg : (getInst b i).ao.good = true)
    (ha : (getInst b i).ao.asleep = false) :
    effVddFailSleep i b = updAo i (fun a => { a with asleep := true }) (hardReset b) := by
  simp only [effVddFailSleep, hb, hg, ha, Bool.not_false, Bool.and_self, if_true]

theorem effWakeFromSleep_of_asleep {b : Block} {i : Nat} (ha : (getInst b i).ao.asleep = true) :
    effWakeFromSleep i b =
      startBoot (updAo i (fun a => { a with asleep := false, oos := a.oos || (a.sleep && a.latch != 0) }) b) := if_pos ha

/-- Settles O1: hard reset and the AO island. -/
theorem hardResetEvents : Obligations.HardResetEvents :=
  ⟨fun s => run_eq_of_settled (settle_effRstHardNAssert s.b),
   fun _ hpin hstep hawake hvao => run_eq_after (effRstHardNRelease_of_up hpin hstep hawake hvao),
   fun _ _ hb hp => run_eq_after (effAoPowerCycle_of_secondary hb hp),
   fun _ _ hb => run_eq_after (effVaoGoodAssert_of_built hb),
   fun _ _ hb hg ha => run_eq_after (effVddFailSleep_of_awake hb hg ha),
   fun _ _ ha => run_eq_after (effWakeFromSleep_of_asleep ha)⟩

/-! Soft and compute resets (R66, R343 to R346). -/

/-- A BAY_CMD bit or a BAY_ register written by a requester that may write it acts. -/
theorem bayDo_eq {b : Block} {z : ZReq} {who : List Attr} (f : Block → Block) (h : served b z .bay) (hw : who.contains z.attr = true) :
    bayDo z who f b = f (zcpRsp z.inst .ok b) := by
  rw [bayDo, zcpDo_eq h, if_pos hw]

/-- An access that is not the management controller's is not journalled. -/
theorem journalZ_of_ne_m {z : ZReq} (op : Nat) (b : Block) (h : z.attr ≠ .m) : journalZ z op b = b := if_neg h

theorem effRstSoft_of_none {b : Block} {i : Nat} (hrel : (getInst b i).released = true) (hnone : b.bay.softDue = []) :
    effRstSoft i b = softBegin i { b with bay := { b.bay with softDue := [(i, false)] } } := by
  rw [effRstSoft_of_released hrel (by rw [hnone]; rfl), hnone]
  rfl

theorem effSoft_of_k {b : Block} {z : ZReq} (h : served b z .bay) (hk : z.attr = .k) :
    effSoft z b = { zcpRsp z.inst .ok b with bay := { (zcpRsp z.inst .ok b).bay with
      softDue := (zcpRsp z.inst .ok b).bay.softDue ++ [(z.inst, true)] } } := by
  rw [effSoft, bayDo_eq _ h (by rw [hk]; rfl), journalZ_of_ne_m 1 _ (by rw [hk]; decide)]

theorem effHard_of_k {b : Block} {z : ZReq} (h : served b z .bay) (hk : z.attr = .k) :
    effHard z b = ideStopAll { zcpRsp z.inst .ok b with bay := { (zcpRsp z.inst .ok b).bay with hardDue := true } } := by
  rw [effHard, bayDo_eq _ h (by rw [hk]; rfl), journalZ_of_ne_m 2 _ (by rw [hk]; decide)]

/-- A rise at a released die that was low is not ignored. -/
theorem computeRst_taken {b : Block} {i : Nat} (hrel : (getInst b i).released = true) (hlow : (getInst b i).crst = false) :
    ¬ (!(getInst b i).released || (getInst b i).crst) = true := by
  simp [hrel, hlow]

/-- Settles O2: soft resets begin or are owed; a compute reset's rise, fall and window. -/
theorem softAndComputeResets : Obligations.SoftAndComputeResets :=
  ⟨fun _ _ hrel hnone => run_eq_after (effRstSoft_of_none hrel hnone),
   fun _ _ h hk => run_eq_after (effSoft_of_k h hk),
   fun _ _ h hk => run_eq_after (effHard_of_k h hk),
   fun _ _ hrel hlow => run_eq_after (if_neg (computeRst_taken hrel hlow)),
   fun _ _ => rfl,
   fun _ => rfl⟩

/-! Tamper (R67, R362, R363). -/

/-- At an armed die after release and awake, tamper latches, counts, tells, zeroizes and owes the abort. -/
theorem tamper_of_armed {b : Block} {i : Nat} (bit : Nat) (harmed : (getInst b i).ao.armed = true) (hawake : (getInst b i).ao.asleep = false)
    (hrel : (getInst b i).released = true) (hpin : b.boot.hard = false) :
    tamper i bit b =
      (let b := updAo i (fun a => { a with latch := a.latch ||| BitVec.ofNat 9 (2 ^ bit), count := min 65535 (a.count + 1), sleep := a.sleep || a.asleep }) b
       let b := count { inst := i } (evBay 4) (raise i 8 b)
       let b := if b.bay.state != 1 && inDomain b then floodAbort .tamper b else b
       let b := enterOos .tamper (zeroize i b)
       { b with bay := { b.bay with due := some (.tamper, b.trust.dom.pkg) } }) := by
  have hpin' (f : Ao → Ao) : (updAo i f b).boot.hard = false := hpin
  simp only [tamper, harmed, hawake, hrel, hpin', Bool.not_true, Bool.or_self, Bool.false_eq_true, if_false]

theorem tamper_of_unarmed {b : Block} {i : Nat} (bit : Nat) (h : (getInst b i).ao.armed = false) : tamper i bit b = b := by
  simp only [tamper, h, Bool.not_false, if_true]

/-- A sample that differs from the level driven: the third in a row is the event. -/
theorem effMeshTamperEvent_of_miss (i : Nat) (b : Block) :
    effMeshTamperEvent i (!Config.meshDrive i (getInst b i).ao.meshN) b =
      if (getInst b i).ao.meshMiss < 2 then updAo i (fun a => { a with meshN := a.meshN + 1, meshMiss := (getInst b i).ao.meshMiss + 1 }) b
      else tamper i 5 (updAo i (fun a => { a with meshN := a.meshN + 1, meshMiss := 0 }) b) := by
  have hmiss : ¬ (!Config.meshDrive i (getInst b i).ao.meshN) = Config.meshDrive i (getInst b i).ao.meshN := by simp
  by_cases h : (getInst b i).ao.meshMiss < 2
  · simp only [effMeshTamperEvent, if_neg hmiss, if_pos h, if_neg (show ¬ 3 ≤ (getInst b i).ao.meshMiss + 1 by omega)]
  · simp only [effMeshTamperEvent, if_neg hmiss, if_neg h, if_pos (show 3 ≤ (getInst b i).ao.meshMiss + 1 by omega)]

/-- A sample that equals the level driven starts the count afresh. -/
theorem effMeshTamperEvent_of_match (i : Nat) (b : Block) :
    effMeshTamperEvent i (Config.meshDrive i (getInst b i).ao.meshN) b =
      updAo i (fun a => { a with meshN := a.meshN + 1, meshMiss := 0 }) b := by
  simp [effMeshTamperEvent]

/-- Settles O3: the tamper sources. -/
theorem tamperEvents : Obligations.TamperEvents :=
  ⟨fun _ _ bit => tamper_of_armed bit,
   fun _ _ bit => tamper_of_unarmed bit,
   fun s i _ => ⟨rfl, rfl, run_eq_after (effMeshTamperEvent_of_miss i s.b), run_eq_after (effMeshTamperEvent_of_match i s.b), rfl, rfl, rfl⟩⟩

/-! Scan (R68). -/

/-- A scan request at a built die of a package that has sensed its fuses is judged. -/
theorem scan_judged {b : Block} {i : Nat} (hb : (getInst b i).built = true) (hpin : b.boot.hard = false) (hstep : 3 ≤ b.boot.step) :
    ¬ (!(getInst b i).built || b.boot.hard || decide (b.boot.step < 3)) = true := by
  simp [hb, hpin, hstep]

theorem effScanRequest_of_test {b : Block} {i : Nat} (hb : (getInst b i).built = true) (hpin : b.boot.hard = false) (hstep : 3 ≤ b.boot.step)
    (ht : b.otp.lc = .test) : effScanRequest i b = updUnits i (fun u => { u with scan := some .ok }) b := by
  rw [effScanRequest]
  simp only [if_neg (scan_judged hb hpin hstep), if_pos ht]

theorem effScanRequest_of_armed {b : Block} {i : Nat} (hb : (getInst b i).built = true) (hpin : b.boot.hard = false) (hstep : 3 ≤ b.boot.step)
    (ht : b.otp.lc ≠ .test) (harmed : (getInst b i).ao.armed = true) (hrel : (getInst b i).released = true)
    (hroom : ∀ d, d = enterOos .tamper (zeroize i (count { inst := i } (evBay 4) (raise i 8
      (updAo i (fun a => { a with count := min 65535 (a.count + 1) }) b)))) → scanCount d + scanWaiting d < 64) :
    effScanRequest i b = otpQueue (.scan i) (updUnits i (fun u => { u with scan := none }) (enterOos .tamper (zeroize i
      (count { inst := i } (evBay 4) (raise i 8 (updAo i (fun a => { a with count := min 65535 (a.count + 1) }) b)))))) := by
  rw [effScanRequest]
  simp only [if_neg (scan_judged hb hpin hstep), if_neg ht, harmed, hrel, if_true, Bool.not_true, Bool.false_eq_true, if_false,
    if_neg (Nat.not_le.mpr (hroom _ rfl))]

/-- Settles O4: a scan request in TEST and outside it. -/
theorem scanRequest : Obligations.ScanRequest :=
  ⟨fun _ _ hb hpin hstep ht => run_eq_after (effScanRequest_of_test hb hpin hstep ht),
   fun _ _ hb hpin hstep ht harmed hrel hroom =>
    run_eq_settled (effScanRequest_of_armed hb hpin hstep ht harmed hrel fun _ hd => hd ▸ hroom)⟩

/-! Bay (R346, R347, R351). -/

theorem effAbort_of_k {b : Block} {z : ZReq} (h : served b z .bay) (hk : z.attr = .k) :
    effAbort z b = { zcpRsp z.inst .ok b with bay := { (zcpRsp z.inst .ok b).bay with
      due := (zcpRsp z.inst .ok b).bay.due.or (some (.aborted, (zcpRsp z.inst .ok b).trust.dom.pkg)) } } := by
  rw [effAbort, bayDo_eq _ h (by rw [hk]; rfl)]

theorem effBayCtrlWrite_of_k {b : Block} {z : ZReq} (w : Word) (h : served b z .bay) (hk : z.attr = .k) :
    effBayCtrlWrite z w b = copyEsc { zcpRsp z.inst .ok b with bay := { (zcpRsp z.inst .ok b).bay with
      tagTh := fieldNat w 7 0, sorTh := fieldNat w 15 8, resTh := fieldNat w 23 16, winMs := max 1 (fieldNat w 31 24),
      escN := max 1 (fieldNat w 35 32), escWin := max 1 (fieldNat w 63 48) } } := by
  rw [effBayCtrlWrite, bayDo_eq _ h (by rw [hk]; rfl)]

/-- An answer on ZCP leaves the sessions as they are. -/
theorem mgmtSess_zcpRsp (i : Nat) (st : Status) (b : Block) (n : Option Nat) : mgmtSess (zcpRsp i st b) n = mgmtSess b n := rfl

theorem effOosClear_of_mgmt {b : Block} {z : ZReq} {n : Nat} (h : served b z .bay) (hm : z.attr = .m) (hs : mgmtSess b (some n) = true) :
    effOosClear z (some n) b =
      (let b := updArmed (fun a => { a with oos := false, latch := 0, sleep := false, crst := 0 }) (jnlWhole 3 0 3 0 0 0 .ok 0 (zcpRsp z.inst .ok b))
       { b with bay := { b.bay with state := if b.bay.state = 2 then 0 else b.bay.state, crst := 0 } }) := by
  rw [effOosClear, bayDo_eq _ h (by rw [hm]; rfl), mgmtSess_zcpRsp, if_pos hs, journalZ, if_pos hm]

/-- The end of a freeze outside a domain, after a cause other than tamper and with no armed die out: the package is normal again. -/
theorem effBayFreezeRelease_of_normal {b : Block} (hst : b.bay.state = 1) (hrest : domRest b = true) (hdom : inDomain b = false)
    (hcause : b.bay.cause ≠ .tamper) (hao : b.inst.any (fun e => e.2.ao.armed && e.2.ao.oos) = false) :
    effBayFreezeRelease b =
      (let b := { b with bay := { b.bay with state := 0, lastRel := b.time }, inst := Sparse.mapAll {} b.inst (fun _ d => { d with freeze := false }) }
       b.esb.foldl (fun b e => stageWaiting e.1 b) b) := by
  have hc : (b.bay.cause == .tamper) = false := beq_eq_false_iff_ne.mpr hcause
  rw [effBayFreezeRelease, if_pos ⟨hst, hrest⟩]
  simp only [hdom, hc, hao, Bool.false_eq_true, if_false, Bool.or_self]

/-- A flit that is a packet of its own and carries the abort marker is an abort flit. -/
theorem rxPacket_of_abortMarker {n vc : Nat} {f : Flit} {hw : HwFault} {b : Block} (h : (bytesOfFlits [f]).take 8 = abortMarker) :
    rxPacket n vc [f] hw b = rxAbortFlit n f (giveFlits n vc 1 b) := if_pos ⟨h, rfl⟩

/-- R350: an abort flit with the marker, the domain, a tag under K_BAY and a time in its window owes the abort that it carries. -/
theorem rxAbortFlit_of_good {n : Nat} {f : Flit} {b : Block} {key : Key} :
    let l := leBytes 64 f.toNat
    let t := leNat ((l.drop 20).take 8)
    let now := (thyme b (getLcs b n).inst).toNat
    l.take 8 = abortMarker → leNat ((l.drop 8).take 8) = b.trust.dom.id.toNat → b.trust.dom.state = .admitted → (getLport b n).kBay = some key →
    gcmTag (keyBytes key) ((l.drop 20).take 8 ++ (l.drop 16).take 2 ++ [0, 0]) (l.take 48) [] = l.drop 48 →
    t ≤ now + 1000000 → now ≤ t + 1000000 → b.bay.lastRel.toNat < t → b.bay.state ≠ 1 → b.bay.due = none →
    rxAbortFlit n f b = { b with bay := { b.bay with
      due := some (statusOf ((l[18]?).getD 0).toNat, BitVec.ofNat 14 (leNat ((l.drop 16).take 2))) } } := by
  intro l t now hmark hid hdom hkey htag hlate hearly hrel hst hdue
  have hok : (l.take 8 == abortMarker && leNat ((l.drop 8).take 8) == b.trust.dom.id.toNat && b.trust.dom.state == .admitted
      && (gcmTag (keyBytes key) ((l.drop 20).take 8 ++ (l.drop 16).take 2 ++ [0, 0]) (l.take 48) [] == l.drop 48)
      && decide (t ≤ now + 1000000 ∧ now ≤ t + 1000000) && decide (b.bay.lastRel.toNat < t)) = true := by
    simp only [hmark, hid, hdom, htag, hlate, hearly, hrel, beq_self_eq_true, Bool.and_self, and_self, decide_true]
  have hidle : ¬ (b.bay.state = 1 ∨ b.bay.due.isSome = true) := by simp [hst, hdue]
  simp only [rxAbortFlit, hkey]
  rw [hok]
  simp only [Bool.not_true, Bool.false_eq_true, if_false, if_neg hidle]
  rfl

/-- Settles O5: BAY_CMD, BAY_CTRL, OOS_CLEAR, the end of a freeze and an accepted abort flit. -/
theorem bayControl : Obligations.BayControl :=
  ⟨fun _ _ h hk => run_eq_after (effAbort_of_k h hk),
   fun _ _ w h hk => run_eq_after (effBayCtrlWrite_of_k w h hk),
   fun _ _ _ h hm hs => run_eq_after (effOosClear_of_mgmt h hm hs),
   fun _ hst hrest hdom hcause hao => run_eq_after (effBayFreezeRelease_of_normal hst hrest hdom hcause hao),
   fun _ _ _ _ hp hr hu hm ho hn hv hc hmark hmark' hid hdom hkey htag hlate hearly hrel hst hdue =>
    run_eq_settled ((rxAny_one hp hr hu hm ho hn hv hc).trans ((rxPacket_of_abortMarker hmark).trans
      (rxAbortFlit_of_good hmark' hid hdom hkey htag hlate hearly hrel hst hdue)))⟩

end Sys2Proof.Proofs
end

section
/-! PROOFS. The memory path (R31 to R37, R91, R106 to R126): requests on MN_, transfers on MS_, verification, metadata, and MCS pairs. -/

namespace Sys2Proof.Proofs
open Sys2Proof Sys2Proof.Machine Sys2Proof.Laws

/-! A mutation that waits for no standby takes effect at once (R355). -/

theorem mutate_of_alone {b : Block} (c : Mut) (f : Block → Block) (h : replicating b = false) : mutate c f b = f b := by
  rw [mutate, h]
  rfl

/-! Requests on MN_ (R32 to R34, R69, R118). -/

theorem meetSram_none (n : Nat) (i : Item) (rw : Bool) (b : Block) : meetSram n i .none rw b = (false, b) := by
  cases rw <;> rfl

section
variable {n : Nat} {rq : MnReq} {b : Block}

/-- What a port's state must be for a read to be judged: a slice in service that is released, not draining, with room for a notice. -/
theorem effMnReadRequest_judged (hw : HwFault) (hp : (getMcs b n).present = true) (hr : (getInst b (getMcs b n).inst).released = true)
    (hst : (getMcs b n).state ≠ .down) (hd : (getPort b n).drain = false) (hs : (getPort b n).soft = false)
    (hpnt : (getPort b n).pnt.length < 64) (hid : rdIdBusy (getPort b n) rq.id = false) (hheld : mnHeld b n false = false) :
    effMnReadRequest n rq hw b =
      match judge b n rq none with
      | .bad l port => mnRefuse n rq l port (rdataNow n (rdOut rq.id (statusWorst l) 0 0 false)) b
      | .ok k r =>
        if (meetSram n (cbItem b n k r rq.addr.toNat) hw (r.mode == .rw) b).1 then
          mnRefuse n rq [.outOfService] false (rdataNow n (rdOut rq.id (statusWorst [.outOfService]) 0 0 false))
            (meetSram n (cbItem b n k r rq.addr.toNat) hw (r.mode == .rw) b).2
        else acceptRead n rq k r false (meetSram n (cbItem b n k r rq.addr.toNat) hw (r.mode == .rw) b).2 := by
  rw [effMnReadRequest]
  simp only [hp, hr, hst, hd, hs, hid, hheld, Nat.not_le.mpr hpnt, Bool.not_true, Bool.or_self, decide_false,
    Bool.false_eq_true, if_false] <;> rfl

theorem effMnReadRequest_of_ok {k : Nat} {r : Rgn} (hp : (getMcs b n).present = true) (hr : (getInst b (getMcs b n).inst).released = true)
    (hst : (getMcs b n).state ≠ .down) (hd : (getPort b n).drain = false) (hs : (getPort b n).soft = false)
    (hpnt : (getPort b n).pnt.length < 64) (hid : rdIdBusy (getPort b n) rq.id = false) (hj : judge b n rq none = .ok k r)
    (hheld : mnHeld b n false = false) : effMnReadRequest n rq .none b = acceptRead n rq k r false b := by
  rw [effMnReadRequest_judged .none hp hr hst hd hs hpnt hid hheld, hj]
  simp only [meetSram_none, Bool.false_eq_true, if_false]

theorem effMnReadRequest_of_bad {l : List Status} (hw : HwFault) (hp : (getMcs b n).present = true)
    (hr : (getInst b (getMcs b n).inst).released = true) (hst : (getMcs b n).state ≠ .down) (hd : (getPort b n).drain = false)
    (hs : (getPort b n).soft = false) (hpnt : (getPort b n).pnt.length < 64) (hid : rdIdBusy (getPort b n) rq.id = false)
    (hj : judge b n rq none = .bad l false) (hheld : mnHeld b n false = false) :
    effMnReadRequest n rq hw b = memFailures n rq l (rdataNow n (rdOut rq.id (statusWorst l) 0 0 false) b) := by
  rw [effMnReadRequest_judged hw hp hr hst hd hs hpnt hid hheld, hj]
  rfl

/-- A write without a check value and without a hardware fault is accepted as it is. -/
theorem acceptWrite_unchecked {w : MnWr} (k : Nat) (r : Rgn) (hv : w.svalid = false) :
    acceptWrite n rq w .none k r false b =
      (let h : Haz := { seq := (getPort b n).seq, rq := rq, wr := w, ridx := k, rgn := r, gline := groupLine b rq.addr.toNat,
                        poison := w.poison, inexact := laneInexact b rq w, ack := .ok }
       let b := updPort n (fun p => { p with haz := p.haz ++ [h], seq := p.seq + 1 }) b
       progress n (count (whoMn b n rq) (evMcs (4 + modeNum r.mode)) b)) := by
  have hdual (x : Bool) : (x && (HwFault.none == .dualData || HwFault.none == .dualMac)) = false := Bool.and_false x
  simp only [acceptWrite, hv, hdual, Bool.false_and, Bool.false_eq_true, if_false, Bool.or_false]

theorem effMnWriteRequest_of_ok {w : MnWr} {k : Nat} {r : Rgn} (hp : (getMcs b n).present = true)
    (hr : (getInst b (getMcs b n).inst).released = true) (hst : (getMcs b n).state ≠ .down) (hd : (getPort b n).drain = false)
    (hs : (getPort b n).soft = false) (hroom : openHaz b n < 256) (hid : wrIdBusy (getPort b n) rq.id = false)
    (hj : judge b n rq (some w) = .ok k r) (hheld : mnHeld b n true = false) :
    effMnWriteRequest n rq w .none b = acceptWrite n rq w .none k r false b := by
  rw [effMnWriteRequest]
  simp only [hp, hr, hst, hd, hs, hid, hj, hheld, Nat.not_le.mpr hroom, meetSram_none, Bool.not_true, Bool.or_self, decide_false,
    Bool.false_eq_true, if_false]

end

/-! The oldest answers leave (R32, R34). -/

theorem effMnRdataTransfer_of_cons {n seq : Nat} {out : RdOut} {rest : List (Nat × RdOut)} {b : Block}
    (h : (getPort b n).rdata = (seq, out) :: rest) :
    effMnRdataTransfer n b = updPort n (fun p => { p with
      rdata := rest, lastRd := some out,
      reads := (p.reads.filter (fun r => !(r.seq == seq && !r.verify))).map (fun r => if r.seq = seq then { r with delivered := true } else r) }) b := by
  simp only [effMnRdataTransfer, h]

theorem effMnWackTransfer_of_cons {n : Nat} {x : WackOut} {rest : List WackOut} {b : Block} (h : (getPort b n).wack = x :: rest) :
    effMnWackTransfer n b = updPort n (fun p => { p with wack := rest, lastWk := some x }) b := by
  simp only [effMnWackTransfer, h]

theorem effMnPntTransfer_of_cons {n : Nat} {x : PntOut} {rest : List PntOut} {b : Block} (h : (getPort b n).pnt = x :: rest) :
    effMnPntTransfer n b = updPort n (fun p => fillNotices { p with pnt := rest, lastPnt := some x }) b := by
  simp only [effMnPntTransfer, h]

/-- Settles O7: what MN_ takes and gives. -/
theorem memoryRequests : Obligations.MemoryRequests :=
  ⟨fun _ _ _ _ _ hp hr hst hd hs hpnt hid hj hheld => run_eq_after (effMnReadRequest_of_ok hp hr hst hd hs hpnt hid hj hheld),
   fun _ _ _ hw _ hp hr hst hd hs hpnt hid hj hheld => run_eq_after (effMnReadRequest_of_bad hw hp hr hst hd hs hpnt hid hj hheld),
   fun _ _ _ _ k r hp hr hst hd hs hroom hid hj hheld hv =>
    run_eq_after ((effMnWriteRequest_of_ok hp hr hst hd hs hroom hid hj hheld).trans (acceptWrite_unchecked k r hv)),
   fun _ _ _ _ _ h => run_eq_after (effMnRdataTransfer_of_cons h),
   fun _ _ _ _ h => run_eq_after (effMnWackTransfer_of_cons h),
   fun _ _ _ _ h => run_eq_after (effMnPntTransfer_of_cons h)⟩

/-! Transfers on MS_ (R36, R37, R106, R119). -/

/-- A port with one transfer more on MS_: a credit of its kind gone, the transfer under its identifier, its content on the port. -/
def putOnMs (n g : Nat) (wr : Bool) (what : MsWhat) (seq : Nat) (data : Line) (sb : Sideband) (id : BitVec 10) (b : Block) (p : MPort) : MPort :=
  { p with
    rdCrd := if wr then p.rdCrd else listMod p.rdCrd (chanOf b n g).1 (· - 1),
    wrCrd := if wr then listMod p.wrCrd (chanOf b n g).1 (· - 1) else p.wrCrd,
    out := p.out ++ [{ id := id, wr := wr, ch := (chanOf b n g).1, g := g, what := what, seq := seq, drop := false }],
    lastMs := some { wr := wr, ch := (chanOf b n g).1, addr := BitVec.ofNat 40 (chanOf b n g).2, id := id, data := data, sb := sb } }

/-- A transfer of a line can go: an identifier and a credit are free, and no transfer that it must wait for is open. -/
abbrev canPut (b : Block) (n g : Nat) (wr : Bool) (id : BitVec 10) : Prop :=
  freeMsId (getPort b n) = some id ∧ (if wr then (getPort b n).wrCrd else (getPort b n).rdCrd).getD (chanOf b n g).1 0 ≠ 0
    ∧ lineFree (getPort b n) g wr = true

section
variable {n g : Nat} {wr : Bool} {id : BitVec 10} {b : Block}

theorem msIssue_of_can (what : MsWhat) (seq : Nat) (data : Line) (sb : Sideband) (then' : MPort → MPort) (h : canPut b n g wr id) :
    msIssue n g wr what seq data sb then' b = updPort n (fun p => then' (putOnMs n g wr what seq data sb id b p)) b := by
  obtain ⟨hid, hcrd, hline⟩ := h
  rw [msIssue]
  simp only [hid, hline, hcrd, decide_false, Bool.not_true, Bool.or_self, Bool.false_eq_true, if_false]
  rfl

theorem msReady_of_can (h : canPut b n g wr id) : msReady b n g wr = true := by
  obtain ⟨hid, hcrd, hline⟩ := h
  simp only [msReady, hid, hline, bne_iff_ne.mpr hcrd, Option.isSome_some, Bool.and_self]

end

section
variable {n : Nat} {b : Block}

theorem effMsReadIssue_data {rid id : BitVec 10} {rd : Rd}
    (hrd : (getPort b n).reads.find? (fun r => r.rq.id == rid && r.mem == .toIssue && r.ready.isNone) = some rd)
    (hold : (getPort b n).haz.any (fun h => h.rq.addr == rd.rq.addr && decide (h.seq < rd.seq)) = false)
    (hspace : linesHeld (getPort b n) < Config.lineSpace) (hcan : canPut b n rd.gline false id) :
    effMsReadIssue n (.data rid) b =
      updPort n (fun p => mapRd rd.seq (fun r => { r with mem := .onMs }) (putOnMs n rd.gline false (.data rid) rd.seq 0 0 id b p)) b := by
  simp only [effMsReadIssue, hrd, hold, Nat.not_le.mpr hspace, decide_false, Bool.or_self, Bool.false_eq_true, if_false]
  exact msIssue_of_can _ _ _ _ _ hcan

theorem effMsReadIssue_item {i : Item} {id : BitVec 10} (hslot : (getPort b n).fetch.any (fun f => f.item == i && f.phase == .slot) = true)
    (hback : (getPort b n).back.any (fun x => x.item == i) = false) (hout : (getPort b n).out.any (fun o => o.what == .item i) = false)
    (hcan : canPut b n (itemLine b (getRgn b i.region) i) false id) :
    effMsReadIssue n (.item i) b = updPort n (fun p =>
      (fun p => { p with fetch := updateWhere (fun f => f.item == i) (fun f => { f with phase := .onMs }) p.fetch })
        (putOnMs n (itemLine b (getRgn b i.region) i) false (.item i) 0 0 0 id b p)) b := by
  simp only [effMsReadIssue, hslot, hback, hout, Bool.not_false, Bool.and_self, if_true]
  exact msIssue_of_can _ _ _ _ _ hcan

theorem effMsReadIssue_line {host : Nat} {w : PageWork} {j : LineJob} {id : BitVec 10}
    (hjob : pageJobOf (getPort b n) host .toRead .reading = some (w, j)) (hcan : canPut b n j.g false id) :
    effMsReadIssue n (.line host) b =
      updPort n (fun p => setLine w host .onRd (putOnMs n j.g false (.line host) w.seq 0 0 id b p)) b := by
  simp only [effMsReadIssue, hjob]
  exact msIssue_of_can _ _ _ _ _ hcan

/-- A committed write goes out once no older access of its line is open; its acknowledgement goes with it. -/
theorem effMsWriteIssue_entry {seq : Nat} {h : Haz} {id : BitVec 10}
    (hh : (getPort b n).haz.find? (fun h => h.seq == seq && h.phase == .committed) = some h)
    (hwr : (getPort b n).haz.any (fun x => x.rq.addr == h.rq.addr && decide (x.seq < h.seq)) = false)
    (hrd : (getPort b n).reads.any (fun r => r.rq.addr == h.rq.addr && decide (r.seq < h.seq) && r.ready.isNone) = false)
    (hcan : canPut b n h.gline true id) :
    effMsWriteIssue n (.entry seq) b =
      (let b := updPort n (fun p => mapHaz h.seq (fun x => { x with phase := .issued, acked := true })
          (putOnMs n h.gline true (.entry h.seq) h.seq h.data h.sb id b p)) b
       progress n (covMcs n (covWrite h.rgn.spol h.origin) (if h.acked then b else wackNow n h.rq.id h.ack b))) := by
  simp only [effMsWriteIssue, hh, hwr, hrd, msReady_of_can hcan, Bool.not_true, Bool.or_self, Bool.false_eq_true, if_false, issueEntry,
    msIssue_of_can _ _ _ _ _ hcan]

theorem effMsWriteIssue_back {i : Item} {x : BackItem} {id : BitVec 10} (hx : (getPort b n).back.find? (fun x => x.item == i) = some x)
    (hready : x.phase = .ready) (hcan : canPut b n (itemLine b (getRgn b i.region) i) true id) :
    effMsWriteIssue n (.back i) b = updPort n (fun p =>
      (fun p => { p with back := updateFirst (fun y => y.item == i) (fun y => { y with phase := .onMs }) p.back })
        (putOnMs n (itemLine b (getRgn b i.region) i) true (.back i) 0 x.data 0 id b p)) b := by
  simp only [effMsWriteIssue, hx, hready, if_true]
  exact msIssue_of_can _ _ _ _ _ hcan

theorem effMsWriteIssue_line {host : Nat} {w : PageWork} {j : LineJob} {id : BitVec 10}
    (hjob : pageJobOf (getPort b n) host .toWrite .writing = some (w, j)) (hcan : canPut b n j.g true id) :
    effMsWriteIssue n (.line host) b = covMcs n (covWrite w.rgn.spol j.origin) (updPort n (fun p =>
      setLine w host .onWr (putOnMs n j.g true (.line host) w.seq j.data j.sb id b p)) b) := by
  simp only [effMsWriteIssue, hjob, msReady_of_can hcan, if_true, msIssue_of_can _ _ _ _ _ hcan]

theorem effMsWriteIssue_posted {host : Nat} {x : Posted} {id : BitVec 10} (hjob : pageJobOf (getPort b n) host .toWrite .writing = none)
    (hx : (getPort b n).posted.find? (fun x => x.line == host && !x.onMs) = some x) (hcan : canPut b n x.g true id) :
    effMsWriteIssue n (.line host) b =
      (let b := covMcs n 1 (updPort n (fun p =>
          (fun p => { p with posted := updateFirst (fun y => y.line == host && !y.onMs) (fun y => { y with onMs := true }) p.posted })
            (putOnMs n x.g true (.line host) 0 x.data x.sb id b p)) b)
       match x.ack with
       | some a => wackNow n a .ok b
       | none => b) := by
  simp only [effMsWriteIssue, hjob, hx, msReady_of_can hcan, if_true, msIssue_of_can _ _ _ _ _ hcan] <;> rfl

/-! Returns on MS_. -/

theorem returnSram_none (what : MsWhat) : returnSram n what .none b = b := by
  unfold returnSram
  dsimp only
  split <;> simp only [meetSram_none]

theorem effMsRdataReturn_of_open {id : BitVec 10} {o : MsOut} (data : Line) (sb : Sideband) (poison : Bool)
    (ho : (getPort b n).out.find? (fun o => o.id == id && !o.wr) = some o) (hdrop : o.drop = false) :
    effMsRdataReturn n id data sb poison .none b =
      (let b := updPort n (fun p => { p with out := p.out.filter (fun x => !(x.id == id && !x.wr)) }) b
       match o.what with
       | .data _ => returnData n o data sb poison .none b
       | .item i => returnItem n i data poison .none b
       | .line host =>
         match pageJobOf (getPort b n) host .onRd .reading with
         | some (w, j) => if w.seq = o.seq then progress n (pageLine n w j data sb poison (w.dual && (HwFault.none == .dualData || HwFault.none == .dualMac)) b) else b
         | none => b
       | _ => b) := by
  simp only [effMsRdataReturn, ho, hdrop, Bool.false_eq_true, if_false, returnSram_none] <;> rfl

theorem returnData_none {o : MsOut} {rd : Rd} (data : Line) (sb : Sideband) (poison : Bool)
    (hrd : (getPort b n).reads.find? (fun r => r.seq == o.seq && r.mem == .onMs) = some rd) :
    returnData n o data sb poison .none b = progress n (updPort n (mapRd rd.seq (fun r => { r with mem := .here data sb poison })) b) := by
  have hdual (x : Bool) : (x && HwFault.none == .dualData) = false := Bool.and_false x
  have hmac (x : Bool) : (x && HwFault.none == .dualMac) = false := Bool.and_false x
  simp only [returnData, hrd, hdual, hmac, Bool.false_eq_true, if_false, Bool.or_false]

theorem returnItem_none {i : Item} {f : Fetch} (data : Line) (hf : (getPort b n).fetch.find? (fun f => f.item == i && f.phase == .onMs) = some f) :
    returnItem n i data false .none b = progress n (updPort n (fun p =>
      { p with fetch := updateWhere (fun f => f.item == i) (fun f => { f with phase := .arrived data }) p.fetch }) b) := by
  have hmac : (f.dual && HwFault.none == .dualMac) = false := Bool.and_false f.dual
  simp only [returnItem, hf, hmac, Bool.false_eq_true, if_false]

theorem effMsWackReturn_of_open {id : BitVec 10} {o : MsOut} (ho : (getPort b n).out.find? (fun o => o.id == id && o.wr) = some o) :
    effMsWackReturn n id b =
      (let b := updPort n (fun p => { p with out := p.out.filter (fun x => !(x.id == id && x.wr)) }) b
       match o.what with
       | .entry seq => progress n (updPort n (fun p => { p with haz := p.haz.filter (fun h => h.seq != seq) }) b)
       | .back i => progress n (updPort n (fun p => { p with back := p.back.filter (fun x => !(x.item == i && x.phase == .onMs)) }) b)
       | .line host =>
         match pageJobOf (getPort b n) host .onWr .writing with
         | some (w, _) => progress n (updPort n (setLine w host .done) b)
         | none => progress n (updPort n (fun p => { p with posted := p.posted.filter (fun x => !(x.line == host && x.onMs)) }) b)
       | _ => b) := by
  simp only [effMsWackReturn, ho] <;> rfl

end

/-! Credits of MS_ (R36). -/

theorem lt_of_mem_zipIdx {l : List Nat} {m : Nat} (h : ∀ c ∈ l, c < m) {e : Nat × Nat} (he : e ∈ l.zipIdx) : e.1 < m :=
  h e.1 (List.fst_mem_of_mem_zipIdx he)

/-- Below 255 no credit is lost. -/
theorem addCredits_of_lt {l : List Nat} (bits : BitVec 4) (h : ∀ c ∈ l, c < 255) :
    addCredits l bits = (l.zipIdx.map (fun e => if bits.getLsbD e.2 then e.1 + 1 else e.1), false) := by
  have hmap : l.zipIdx.map (fun e => if bits.getLsbD e.2 then min 255 (e.1 + 1) else e.1)
      = l.zipIdx.map (fun e => if bits.getLsbD e.2 then e.1 + 1 else e.1) :=
    List.map_congr_left fun e he => by
      have hlt := lt_of_mem_zipIdx h he
      rw [Nat.min_eq_right hlt]
  have hany : l.zipIdx.any (fun e => bits.getLsbD e.2 && decide (255 ≤ e.1)) = false :=
    List.any_eq_false.mpr fun e he => by
      have hlt := lt_of_mem_zipIdx h he
      simp [Nat.not_le.mpr hlt]
  rw [addCredits, hmap, hany]

/-- At 255 a credit is discarded. -/
theorem addCredits_discards {l : List Nat} {bits : BitVec 4} {c : Nat} (h : (255, c) ∈ l.zipIdx) (hb : bits.getLsbD c = true) :
    (addCredits l bits).2 = true :=
  List.any_eq_true.mpr ⟨(255, c), h, by simp [hb]⟩

theorem effMsCreditReturn_of_released {n : Nat} {b : Block} (rd wr : BitVec 4) (hp : (getMcs b n).present = true)
    (hr : (getInst b (getMcs b n).inst).released = true) :
    effMsCreditReturn n rd wr b =
      (let c := updPort n (fun p => { p with rdCrd := (addCredits (getPort b n).rdCrd rd).1, wrCrd := (addCredits (getPort b n).wrCrd wr).1 }) b
       if (addCredits (getPort b n).rdCrd rd).2 || (addCredits (getPort b n).wrCrd wr).2 then portError { inst := (getMcs b n).inst } 8 c else c) := by
  rw [effMsCreditReturn]
  simp only [hp, hr, Bool.not_true, Bool.or_self, Bool.false_eq_true, if_false]

theorem effMsCreditReturn_of_room {n : Nat} {b : Block} (rd wr : BitVec 4) (hp : (getMcs b n).present = true)
    (hr : (getInst b (getMcs b n).inst).released = true) (hrd : ∀ c ∈ (getPort b n).rdCrd, c < 255) (hwr : ∀ c ∈ (getPort b n).wrCrd, c < 255) :
    effMsCreditReturn n rd wr b = updPort n (fun p => { p with
      rdCrd := p.rdCrd.zipIdx.map (fun e => if rd.getLsbD e.2 then e.1 + 1 else e.1),
      wrCrd := p.wrCrd.zipIdx.map (fun e => if wr.getLsbD e.2 then e.1 + 1 else e.1) }) b := by
  rw [effMsCreditReturn_of_released rd wr hp hr, addCredits_of_lt rd hrd, addCredits_of_lt wr hwr]
  exact updPort_congr rfl

theorem effMsCreditReturn_of_full {n c : Nat} {b : Block} (rd wr : BitVec 4) (hp : (getMcs b n).present = true)
    (hr : (getInst b (getMcs b n).inst).released = true) (hc : (255, c) ∈ (getPort b n).rdCrd.zipIdx) (hb : rd.getLsbD c = true) :
    effMsCreditReturn n rd wr b = portError { inst := (getMcs b n).inst } 8 (updPort n (fun p => { p with
      rdCrd := p.rdCrd.zipIdx.map (fun e => if rd.getLsbD e.2 then min 255 (e.1 + 1) else e.1),
      wrCrd := p.wrCrd.zipIdx.map (fun e => if wr.getLsbD e.2 then min 255 (e.1 + 1) else e.1) }) b) := by
  rw [effMsCreditReturn_of_released rd wr hp hr]
  simp only [addCredits_discards hc hb, Bool.true_or, if_true]
  exact congrArg _ (updPort_congr rfl)

/-- Settles O8: transfers on MS_, what they return, and credits. -/
theorem memoryTransfers : Obligations.MemoryTransfers :=
  ⟨fun _ _ _ _ _ hrd hold hspace hcan => run_eq_after (effMsReadIssue_data hrd hold hspace hcan),
   fun _ _ _ _ hslot hback hout hcan => run_eq_after (effMsReadIssue_item hslot hback hout hcan),
   fun _ _ _ _ _ _ hjob hcan => run_eq_after (effMsReadIssue_line hjob hcan),
   fun _ _ _ _ _ hh hwr hrd hcan => run_eq_after (effMsWriteIssue_entry hh hwr hrd hcan),
   fun _ _ _ _ _ hx hready hcan => run_eq_after (effMsWriteIssue_back hx hready hcan),
   fun _ _ _ _ _ _ hjob hcan => run_eq_after (effMsWriteIssue_line hjob hcan),
   fun _ _ _ _ _ hjob hx hcan => run_eq_after (effMsWriteIssue_posted hjob hx hcan),
   fun _ _ _ data sb poison _ _ _ ho hdrop hwhat hrd =>
    run_eq_settled (by rw [effMsRdataReturn_of_open data sb poison ho hdrop, hwhat]; exact returnData_none data sb poison hrd),
   fun _ _ _ data sb _ _ _ ho hdrop hwhat hf =>
    run_eq_settled (by rw [effMsRdataReturn_of_open data sb false ho hdrop, hwhat]; exact returnItem_none data hf),
   fun _ _ _ _ ho =>
    ⟨fun _ hwhat => run_eq_settled (by rw [effMsWackReturn_of_open ho, hwhat]),
     fun _ hwhat => run_eq_settled (by rw [effMsWackReturn_of_open ho, hwhat]),
     fun _ _ _ hwhat hjob => run_eq_settled (by rw [effMsWackReturn_of_open ho, hwhat]; simp only [hjob])⟩,
   fun _ _ rd wr hp hr hrd hwr => run_eq_after (effMsCreditReturn_of_room rd wr hp hr hrd hwr),
   fun _ _ _ rd wr hp hr hc hb => run_eq_after (effMsCreditReturn_of_full rd wr hp hr hc hb)⟩

end Sys2Proof.Proofs
end

section
/-! PROOFS. Inside an M-port (R34, R109 to R118, R257), MCS pairs and slice registers (R117, R121 to R123, R234, R236), and metadata steps
(R91, R113, R115). -/

namespace Sys2Proof.Proofs
open Sys2Proof Sys2Proof.Machine Sys2Proof.Laws

section
variable {n : Nat} {b : Block}

theorem effHazardEntryCommit_of_checked {seq : Nat} (h : (getPort b n).haz.any (fun h => h.seq == seq && h.phase == .checked) = true) :
    effHazardEntryCommit n seq b = progress n (updPort n (mapHaz seq (fun h => { h with phase := .committed })) b) := if_pos h

/-- A delivered read whose open verification finds nothing retires. -/
theorem effDeferredVerifyEnd_of_good {id : BitVec 10} {rd : Rd}
    (hrd : (getPort b n).reads.find? (fun r => r.rq.id == id && r.verify && r.needs.isEmpty) = some rd) (hlate : rd.late = [])
    (hdual : rd.lateDual = false) (hdel : rd.delivered = true) :
    effDeferredVerifyEnd n id .none b = updPort n (fun p => { p with reads := p.reads.filter (fun r => r.seq != rd.seq) }) b := by
  have hmac : (rd.dual && HwFault.none == .dualMac) = false := Bool.and_false rd.dual
  simp only [effDeferredVerifyEnd, hrd, hlate, hdual, hmac, hdel, Bool.or_self, Bool.false_eq_true, if_false, List.isEmpty_nil, if_true]

theorem effWalkFetchStart_of_free {cls : Nat} {f : Fetch} (hfree : slotFree (engMcs b n) (fetchesOf b n) cls = true)
    (hf : (getPort b n).fetch.find? (fun f => f.cls == cls && f.phase == .waiting) = some f) :
    effWalkFetchStart n cls b = progress n (count (whoMcs b n f.tag) (evMcs 12)
      (updPort n (fun p => { p with fetch := updateWhere (fun x => x.item == f.item) (fun x => { x with phase := .slot }) p.fetch }) b)) := by
  simp only [effWalkFetchStart, hfree, hf, if_true]

/-- An item without a fault leaves its cache, to its write-back if modified. -/
theorem effMetadataEviction_none {i : Item} {c : CacheItem} (hc : cachedItem b i = some c) :
    effMetadataEviction n i .none b = progress i.share (evictItem c b) := by
  have hdual (x : Bool) : (x && (HwFault.none == .dualMac || HwFault.none == .dualTree2)) = false := Bool.and_false x
  simp only [effMetadataEviction, hc, hdual, reduceCtorEq, Bool.false_eq_true, false_and, or_self, if_false]

/-- Settles O9: commit, verification, fetch slots, eviction and key waits inside an M-port. -/
theorem memoryPath : Obligations.MemoryPath :=
  ⟨fun _ _ _ h => run_eq_after (effHazardEntryCommit_of_checked h),
   fun _ _ _ _ hrd hlate hdual hdel => run_eq_after (effDeferredVerifyEnd_of_good hrd hlate hdual hdel),
   fun _ _ _ _ hfree hf => run_eq_after (effWalkFetchStart_of_free hfree hf),
   fun _ _ _ _ hc => run_eq_after (effMetadataEviction_none hc),
   fun _ _ => rfl⟩

end

/-! Pairs (R121, R122). -/

section
variable {k : Nat} {b : Block}

theorem startTakeover_of_idle (hk : (getMcs b k).busy = false) (hk' : (getMcs b (partner k)).busy = false)
    (hs : (getMcs b k).state = .inService) (hs' : (getMcs b (partner k)).state = .inService) (hp : (getMcs b (partner k)).present = true) :
    startTakeover k b = progress (partner k) (updPort (partner k) (fun p => { p with drain := true })
      (updMcs (partner k) (fun m => { m with busy := true }) (updMcs k (fun m => { m with busy := true }) b))) := by
  simp only [startTakeover, hk, hk', hs, hs', hp, bne_self_eq_false, Bool.not_true, Bool.or_self, Bool.false_eq_true, if_false]

theorem startHandback_of_carrying (hk : (getMcs b k).busy = false) (hk' : (getMcs b (partner k)).busy = false)
    (hs : (getMcs b k).state = .carrying) :
    startHandback k b = progress (partner k) (updPort (partner k) (fun p => { p with drain := true })
      (updMcs (partner k) (fun m => { m with busy := true }) (updMcs k (fun m => { m with busy := true }) b))) := by
  simp only [startHandback, hk, hk', hs, bne_self_eq_false, Bool.or_self, Bool.false_eq_true, if_false]

theorem effPairTakeoverDone_of_drained (hk : (getMcs b k).busy = true) (hk' : (getMcs b (partner k)).busy = true)
    (hs : (getMcs b k).state = .inService) (hs' : (getMcs b (partner k)).state = .inService) (hd : drained b (partner k) = true) :
    effPairTakeoverDone k b =
      (let b := updMcs k (fun m => { m with state := .carrying, busy := false, lastSts := .ok }) b
       let b := updMcs (partner k) (fun m => { m with state := .carried, busy := false }) b
       let b := updPort (partner k) (fun p => { p with drain := false, cache := [], nodes := [] }) b
       let b := raise (getMcs b k).inst 10 b
       updUnits (getMcs b k).inst (fun u =>
         if u.olt.busy && u.olt.kind == 0 && u.olt.unit == partner k then { u with olt := { u.olt with busy := false, status := .ok } } else u) b) := by
  rw [effPairTakeoverDone]
  simp only [hk, hk', hs, hs', hd, beq_self_eq_true, Bool.and_self, if_true]

end

/-! Slice registers (R234, R236). -/

section
variable {z : ZReq} {n : Nat} {b : Block}

theorem effMcsDualWrite_mcs {w : Word} (h : served b z (.mcs n)) (hop : fieldNat w 3 2 = 0) :
    effMcsDualWrite z false n w b =
      updMcs n (fun m => { m with dual := fieldBit w 0, vbuAll := fieldBit w 1, lock := m.lock || fieldBit w 4 }) (zcpRsp z.inst .ok b) := by
  rw [effMcsDualWrite, if_neg Bool.false_ne_true, zcpDo_eq h, hop]
  rfl

theorem effMcsDualWrite_lcs (w : Word) (h : served b z (.lcs n)) :
    effMcsDualWrite z true n w b = judgeMode n (updLcs n (fun l =>
      { l with dual := fieldBit w 0, z2 := fieldBit w 1, retrainMs := max 1 (fieldNat w 15 8), holdoff := fieldNat w 23 16 })
        (zcpRsp z.inst .ok b)) := by
  rw [effMcsDualWrite, if_pos rfl]
  exact zcpDo_eq h

/-- A good write of MCS_WALK[c]: what makes it bad are the three conditions that it avoids. -/
theorem effMcsWalkWrite_of_good {c : Nat} {w : Word} (h : served b z (.mcs n)) (hc : c < 8) (hmin : fieldNat w 5 0 ≤ fieldNat w 14 8)
    (hmax : fieldNat w 14 8 ≤ 64) (hsum : ((walkAsked b n c w).map (·.1)).foldl (· + ·) 0 ≤ 64) :
    effMcsWalkWrite z n c w b = updMcs n (fun m => { m with walk := walkAsked b n c w }) (zcpRsp z.inst .ok b) := by
  have hgood : ¬ walkBad b n c w := fun hbad => by
    rcases hbad with hbad | hbad | hbad <;> omega
  rw [effMcsWalkWrite_eq w h hc, if_neg hgood]

/-- Settles O10: MCS pairs and slice registers. -/
theorem memorySlices : Obligations.MemorySlices :=
  ⟨fun _ _ _ h hk hk' hs hs' hp => run_eq_settled ((zcpDo_eq h).trans (startTakeover_of_idle hk hk' hs hs' hp)),
   fun _ _ hk hk' hs hs' hd => run_eq_after (effPairTakeoverDone_of_drained hk hk' hs hs' hd),
   fun _ _ _ h hk hk' hs => run_eq_settled ((zcpDo_eq h).trans (startHandback_of_carrying hk hk' hs)),
   fun _ _ _ hp => run_eq_after (if_pos hp),
   fun _ _ _ _ h hop => run_eq_after (effMcsDualWrite_mcs h hop),
   fun _ _ _ w h => run_eq_after (effMcsDualWrite_lcs w h),
   fun _ _ _ _ _ h hc hmin hmax hsum => run_eq_settled (effMcsWalkWrite_of_good h hc hmin hmax hsum),
   fun _ _ _ _ _ => ⟨fun h => run_eq_after (zcpDo_eq h), fun h => run_eq_after (zcpDo_eq h)⟩⟩

end

/-! Metadata steps (R91, R113, R115). -/

section
variable {n node : Nat} {b : Block}

theorem effPageReencryptionEnd_of_done {w : PageWork} {rest : List PageWork}
    (h : takeFirst (fun (w : PageWork) => !w.sweep && w.stage == .done) (getPort b n).pages = some (w, rest)) :
    effPageReencryptionEnd n b = progress n (updPort n (fun p => { p with pages := rest }) b) := by
  simp only [effPageReencryptionEnd, h]

theorem effRoofSlotReadReply_good {i : Item} (hask : (getPort b n).roofAsk.contains node = true) (hi : roofItem b node = some i) :
    effRoofSlotReadReply n node true b = progress n
      (fillItem i (getRgn b i.region).tag (Sparse.get 0 b.rgn.roof node) false
        (updPort n (fun p => { p with roofAsk := p.roofAsk.filter (· != node) }) b)) := by
  simp only [effRoofSlotReadReply, hask, hi, if_true]

theorem effRoofSlotReadReply_broken {i : Item} (hask : (getPort b n).roofAsk.contains node = true) (hi : roofItem b node = some i) :
    effRoofSlotReadReply n node false b = progress n (failItem i .tagFail false (sealFail (getMcs b n).inst b)) := by
  simp only [effRoofSlotReadReply, hask, hi, if_true, Bool.false_eq_true, if_false]

theorem effRoofSlotWrite_of_alone {slot : Nat} {x : BackItem} {mac : Word} (halone : replicating b = false)
    (hx : (getPort b n).back.find? (fun x => (roofMac x).isSome && x.item.index % 16 == slot
      && roofNode b (getRgn b x.item.region) x.item.share (x.item.index / 16) == node) = some x) (hph : x.phase = .roofAsked mac) :
    effRoofSlotWrite n node slot b = progress n (setBack x.item .ready (writeRoof (parentItem x.item) slot mac b)) := by
  rw [effRoofSlotWrite, mutate_of_alone _ _ halone]
  have hmac : roofMac x = some mac := by rw [roofMac, hph]
  simp only [bodyRoofSlotWrite, hx, hmac, Option.getD_some]

/-- Settles O11: page re-encryption, the Tree Roof, and write-backs that wait on a roof slot. -/
theorem treeSteps : Obligations.TreeSteps :=
  ⟨fun _ _ _ _ h => run_eq_after (effPageReencryptionEnd_of_done h),
   fun _ _ _ _ hask hi => ⟨run_eq_after (effRoofSlotReadReply_good hask hi), run_eq_after (effRoofSlotReadReply_broken hask hi)⟩,
   fun _ _ _ _ _ _ halone hx hph => run_eq_after (effRoofSlotWrite_of_alone halone hx hph)⟩

end

end Sys2Proof.Proofs
end

section
/-! PROOFS. Region commands and the ends of region work (R73 to R77, R101 to R103, R124 to R126). -/

namespace Sys2Proof.Proofs
open Sys2Proof Sys2Proof.Machine Sys2Proof.Laws

/-- A command of an engine that is taken, with no standby to wait for, runs its body. -/
theorem runCmd_eq {c : Mut} {e : Eng} {src : Src} {op sub : Nat} {body : Block → Block} {b b' : Block} (h : taken e src op sub b = some b')
    (halone : replicating b' = false) : runCmd c e src op sub body b = body b' := by
  rw [runCmd, startCmd_eq h, mutate_of_alone _ _ halone]

/-! Region commands. -/

section
variable {src : Src} {b : Block}

/-- CREATE and ADOPT of a good staged entry make it and answer its handle. -/
theorem bodyCreate_of_good {adopt : Bool} {t : Option (Nat × Nat × Nat)} {i : Nat} (hchk : createChecks b (stageOf b src) adopt = ([], t))
    (hopen : ((reqOf b src).kernel && kClosed b (stageOf b src).tag) = false)
    (hfree : lowestFrom (fun k => (getRgn b k).state == .free) 4096 0 = some i) :
    bodyCreate adopt src b =
      cmdDone .rgn src .ok (handleOf (makeRgn adopt (stageOf b src) t i b) tyRgn i) i (makeRgn adopt (stageOf b src) t i b) := by
  simp only [bodyCreate, hchk, hopen, hfree, Bool.false_eq_true, if_false, List.append_nil]

/-- A region command on an entry in a state that allows it, for a requester that may act on it, acts. -/
theorem onRegion_of_good {states : List RgnState} {more : Rgn → List Status} {f : Nat → Rgn → Block → Block}
    (hst : states.contains (getRgn b (rgnIndex b src)).state = true)
    (hact : mayAct b (reqOf b src) (getRgn b (rgnIndex b src)).owner (getRgn b (rgnIndex b src)).tag = true)
    (hmore : more (getRgn b (rgnIndex b src)) = []) :
    onRegion src states more f b = f (rgnIndex b src) (getRgn b (rgnIndex b src)) b := by
  simp only [onRegion, hst, hact, hmore, if_true, Bool.not_true, Bool.and_false, Bool.false_eq_true, if_false, List.append_nil, List.isEmpty_nil]

/-- REKEY of an active region to another key that its format takes starts the sweep on every MCS of the region. -/
theorem bodyRekey_of_good (hst : (getRgn b (rgnIndex b src)).state = .active)
    (hact : mayAct b (reqOf b src) (getRgn b (rgnIndex b src)).owner (getRgn b (rgnIndex b src)).tag = true)
    (hmode : (getRgn b (rgnIndex b src)).mode = .xts ∨ (getRgn b (rgnIndex b src)).mode = .rw)
    (hkey : keyChecks b (getRgn b (rgnIndex b src)).mode (getRgn b (rgnIndex b src)).owner (stageOf b src).key = [])
    (hne : (stageOf b src).key ≠ (getRgn b (rgnIndex b src)).key) :
    bodyRekey src b =
      (let i := rgnIndex b src
       let k := (stageOf b src).key
       let r := getRgn b i
       let r := { r with prevKey := r.key, prevGen := r.keyGen, key := k, keyGen := (r.keyGen + 1) % 256 }
       let b := pushRegionKey r k (updKey k (fun e => { e with pins := e.pins + 1, rwUsed := e.rwUsed || r.mode == .rw }) (setRgn i r b))
       let b := (shares b r).foldl (fun b n =>
         updMcs n (fun m => { m with sweeps := m.sweeps ++ [{ region := i, ptr := 0, done := false, stopped := false }] }) b) b
       cmdDone .rgn src .ok 0 i (regionState i .rekey b)) := by
  unfold bodyRekey
  refine onRegion_of_good ?_ hact ?_
  · rw [hst]
    rfl
  · rw [if_pos hmode, hkey, if_neg hne]
    rfl

end

/-- Settles O12: region commands in both forms. -/
theorem regionCommands : Obligations.RegionCommands :=
  ⟨fun _ _ _ _ _ h halone hchk hopen hfree => run_eq_settled ((runCmd_eq h halone).trans (bodyCreate_of_good hchk hopen hfree)),
   fun _ _ _ _ _ h halone hchk hopen hfree => run_eq_settled ((runCmd_eq h halone).trans (bodyCreate_of_good hchk hopen hfree)),
   fun _ _ _ h halone hst hact => run_eq_settled ((runCmd_eq h halone).trans (onRegion_of_good (by rw [hst]; rfl) hact rfl)),
   fun _ _ _ h halone hst hact => run_eq_settled ((runCmd_eq h halone).trans (onRegion_of_good hst hact rfl)),
   fun _ _ _ h halone hst hact => run_eq_settled ((runCmd_eq h halone).trans (onRegion_of_good hst hact rfl)),
   fun _ _ _ h halone hst hact hmode hkey hne => run_eq_settled ((runCmd_eq h halone).trans
    (bodyRekey_of_good hst hact hmode hkey hne))⟩

/-! The ends of region work. -/

section
variable {i n : Nat} {b : Block}

/-- RETIRE_COMPLETE of a retiring region without open accesses, with no standby to wait for. -/
theorem effRetireComplete_of_idle (halone : replicating b = false) (hst : (getRgn b i).state = .retiring) (hidle : regionIdle b i = true) :
    effRetireComplete i b = bodyRetireComplete i b := by
  rw [effRetireComplete, if_pos ⟨hst, hidle⟩, mutate_of_alone _ _ halone]

theorem bodyRetireComplete_plain {src : Option Src} (hsrc : b.rgn.retireSrc.find? (fun e => e.1 == i) = some (i, src))
    (hmode : (getRgn b i).mode = .plain) (hboth : ((getRgn b i).prevGen != (getRgn b i).keyGen && (getRgn b i).prevKey != 0) = false) :
    bodyRetireComplete i b =
      (let b := freeRef tyRgn i (regionState i .free (dropRegionItems i b))
       let b := setRgn i {} { b with rgn := { b.rgn with retireSrc := b.rgn.retireSrc.filter (fun e => e.1 != i) } }
       match src with
       | some c => cmdDone .rgn c .ok 0 i b
       | none => b) := by
  simp only [bodyRetireComplete, hsrc, hmode, hboth, Option.bind_some, reduceCtorEq, Bool.false_eq_true, and_false, if_true, if_false]
  cases src with
  | none => rfl
  | some c => rfl

theorem bodyRetireComplete_rw (hsrc : b.rgn.retireSrc.find? (fun e => e.1 == i) = some (i, none))
    (hmode : (getRgn b i).mode = .rw) (hboth : ((getRgn b i).prevGen != (getRgn b i).keyGen && (getRgn b i).prevKey != 0) = false) :
    bodyRetireComplete i b =
      (let r := getRgn b i
       let b := freeRef tyRgn i (regionState i .free (invalidateKey r.key (unpin r.key (dropRegionItems i b))))
       setRgn i {} { b with rgn := { b.rgn with retireSrc := b.rgn.retireSrc.filter (fun e => e.1 != i) } }) := by
  simp only [bodyRetireComplete, hsrc, hmode, hboth, Option.bind_some, reduceCtorEq, Bool.false_eq_true, and_false, if_true, if_false]

/-- With no step under way the sweep's next one begins, where the port takes new work. -/
theorem effRekeySweepStep_begins {sw : Sweep} {w : PageWork} (hnone : (getPort b n).pages.find? (fun w => w.sweep) = none)
    (hsw : currentSweep b n = some sw) (hd : (getPort b n).drain = false) (hs : (getPort b n).soft = false)
    (hst : (getMcs b n).state ≠ .down) (hjob : sweepJob b n sw = some w) :
    effRekeySweepStep n b = progress n (updPort n (fun p => { p with pages := p.pages ++ [w], seq := p.seq + 1 }) b) := by
  simp only [effRekeySweepStep, hnone, hsw, beginSweepStep, hd, hs, beq_eq_false_iff_ne.mpr hst, hjob, Bool.or_self, Bool.false_eq_true, if_false]

/-- A step whose lines are written ends. -/
theorem effRekeySweepStep_ends {w : PageWork} (hw : (getPort b n).pages.find? (fun w => w.sweep) = some w) (hdone : w.stage = .done) :
    effRekeySweepStep n b = endSweepStep n w b := by
  simp only [effRekeySweepStep, hw, hdone, if_true]

theorem effRekeySweepEnd_of_done (halone : replicating b = false) (hst : (getRgn b i).state = .rekey)
    (hdone : b.mcs.all (fun e => e.2.sweeps.all (fun s => s.region != i || s.done)) = true) :
    effRekeySweepEnd i b = bodyRekeySweepEnd i b := by
  rw [effRekeySweepEnd, if_pos ⟨hst, hdone⟩, mutate_of_alone _ _ halone]

/-- The check sweep of a region whose key every slice has, whose lines all verify and whose digest is as staged. -/
theorem effCheckSweepEnd_of_good {ans : List MemAns} (halone : replicating b = false) (hst : (getRgn b i).state = .checking) (hans : ans ≠ [])
    (hwait : (regionKeys b (getRgn b i)).contains .wait = false) (hgone : keyGone (regionKeys b (getRgn b i)) = none)
    (hlines : (List.range ((getRgn b i).size * unitLines)).foldl
      (checkSweepLine (getRgn b i) (workKeys (getKey b (getRgn b i).key).key) ans) ([], 0) = ([], (getRgn b i).digest)) :
    effCheckSweepEnd i ans b = raisePrimary 2 (regionState i .active b) := by
  have hsome : ans.isEmpty = false := List.isEmpty_eq_false_iff.mpr hans
  simp only [effCheckSweepEnd, hst, hwait, if_true, Bool.false_eq_true, if_false]
  rw [mutate_of_alone _ _ halone]
  simp only [bodyCheckSweepEnd, hgone, hsome, Bool.false_eq_true, if_false, hlines, List.isEmpty_nil, beq_self_eq_true, Bool.and_self, if_true]
  rfl

end

/-- Settles O13: RETIRE_COMPLETE, sweep steps, the sweep's end and the check sweep. -/
theorem regionSweeps : Obligations.RegionSweeps :=
  ⟨by
    rintro s i _ src halone rfl hst hidle hsrc hmode hboth
    have hbody := (effRetireComplete_of_idle halone hst hidle).trans (bodyRetireComplete_plain hsrc hmode hboth)
    cases src with
    | none => exact run_eq_after hbody
    | some c => exact run_eq_after hbody,
   by
    rintro s i _ halone rfl hst hidle hsrc hmode hboth
    exact run_eq_settled ((effRetireComplete_of_idle halone hst hidle).trans (bodyRetireComplete_rw hsrc hmode hboth)),
   fun _ _ _ _ hnone hsw hd hs hst hjob => run_eq_after (effRekeySweepStep_begins hnone hsw hd hs hst hjob),
   fun _ _ _ hw hdone => run_eq_after (effRekeySweepStep_ends hw hdone),
   fun _ _ halone hst hdone => run_eq_after (effRekeySweepEnd_of_done halone hst hdone),
   fun _ _ _ halone hst hans hwait hgone hlines => run_eq_after (effCheckSweepEnd_of_good halone hst hans hwait hgone hlines)⟩

end Sys2Proof.Proofs
end

section
/-! PROOFS. Fabric transactions: an initiator's port and its outstanding requests (R164 to R178, R185, R191), and a target's deliveries
(R40, R157, R175, R183, R187, R223). -/

namespace Sys2Proof.Proofs
open Sys2Proof Sys2Proof.Machine Sys2Proof.Laws

/-! An initiator's port (R164 to R171). -/

theorem exec_ltOrRequest {i port : Nat} {xfers : List LtOr} (hlen : 1 ≤ xfers.length ∧ xfers.length ≤ 4) (s : State) :
    exec (.ltOrRequest i port xfers) s = run (effLtOrRequest i port xfers) s := if_pos hlen

/-- A request of one transfer is well-formed. -/
theorem exec_ltOrRequest_one (i port : Nat) (h : LtOr) (s : State) :
    exec (.ltOrRequest i port [h]) s = run (effLtOrRequest i port [h]) s :=
  exec_ltOrRequest (xfers := [h]) (by simp) s

section
variable {i port : Nat} {b : Block}

/-- A port that takes a request: released, not frozen, in no soft reset, with nothing held before it and an entry free. -/
theorem effLtOrRequest_one {h : LtOr} (hrel : (getInst b i).released = true) (hport : port < (getInst b i).nLcs) (hbay : b.bay.state ≠ 1)
    (hsoft : b.bay.softDue.contains (i, false) = false) (hheld : (getFab b i).held.any (fun x => x.port == port) = false)
    (hcont : contOf h = 0) (hroom : lowestFrom (fun e => !(getOut b i e).live) 32768 0 ≠ none) (hgate : tagGate b h.tag = none)
    (hsyn : syntaxBad [h] = false) :
    effLtOrRequest i port [h] b =
      (let c := updFab i (fun f => { f with order := f.order + 1 }) b
       match (getFab b i).tlb.find? (fun k => importHit c k h) with
       | some k => proceed i port [h] k (getFab b i).order (updFab i (fun f => { f with tlb := tlbUse k f.tlb }) c)
       | none => count (whoOr i port h) (evFab 3)
          (updFab i (fun f => { f with held := f.held ++ [{ port := port, seq := (getFab b i).order, xfers := [h], why := .tlb, win := none }] }) c)) := by
  have hone : ([h].length != 0 + 1) = false := rfl
  have hgate' : tagGate (updFab i (fun f => { f with order := f.order + 1 }) b) h.tag = none := hgate
  have hsome : (lowestFrom (fun e => !(getOut b i e).live) 32768 0).isNone = false := by
    rwa [Option.isNone_eq_false_iff, Option.isSome_iff_ne_none]
  simp only [effLtOrRequest, hcont, List.take_succ_cons, List.take_zero, hone, hrel, decide_eq_true hport, beq_eq_false_iff_ne.mpr hbay,
    hsoft, hheld, hsome, hgate', hsyn, Bool.not_true, Bool.or_self, Bool.false_eq_true, if_false] <;> rfl

/-- A read with an entry, a path and cells is on its way. -/
theorem launch_read {h : LtOr} {k seq e n home : Nat} {b' : Block} (hop : h.op = 0) (hfree : lineBlocked b i seq [h] = false)
    (hdead : b.fab.dead.contains (getWin b k).peer = false) (hen : (esbClass (getEsb b i) clsReq).en = true)
    (hpath : choosePath b i (getWin b k).peer (getWin b k).peerExp ((h.addr.toNat - (getWin b k).base * 16384) / 4) = some (n, home))
    (hentry : lowestFrom (fun e => !(getOut b i e).live) 32768 0 = some e)
    (hstage : stageEntry i e n home (reqPkt b i 0 (getWin b k).peer n home (getWin b k).peerExp (h.addr.toNat - (getWin b k).base * 16384) h.tag
        false (reqidOf e (getOut b i e)) [] 0 0) h.tag (pathHolds b i (getWin b k).peer)
      (updOut i e (fun o => { o with
        live := true, port := port, id := h.id, op := 0, win := k, dst := (getWin b k).peer, tag := h.tag, ctx := h.ctx, layer := h.layer, opid := h.opid, group := (h.addr.toNat - (getWin b k).base * 16384) / 4, order := seq, st := .ok, sends := 0, waiting := false }) b) = some b') :
    launch i port [h] k seq b = .done (count (whoOr i port h) (evFab 0) b') := by
  have hop0 : h.op.toNat = 0 := by rw [hop]; rfl
  have hatomic : opAtomic 0 = false := rfl
  have hcarry : ((0 : Nat) == 0x01 || (0 : Nat) == 0x18 || false) = false := rfl
  simp only [launch, hop0, hfree, hdead, hen, hpath, hentry, hatomic, hcarry, hstage, OfNat.zero_ne_ofNat, Nat.zero_ne_one, false_and,
    Bool.true_eq_false, Bool.false_eq_true, if_false]

/-- A translated request that passes every check and leaves does not wait. -/
theorem proceed_of_done {h : LtOr} {k seq : Nat} {b' : Block} (hchk : transBad b i k [h] = []) (hgo : launch i port [h] k seq b = .done b') :
    proceed i port [h] k seq b = b' := by
  simp only [proceed, hchk, hgo]

theorem effTlbMissFill_of_hit {w : LtHeld} {h : LtOr} {t : List LtOr} {k : Nat} {x : Win}
    (hw : (getFab b i).held.find? (fun x => x.port == port && x.why == .tlb) = some w) (hx : w.xfers = h :: t)
    (hk : b.fab.table.find? (fun e => importHit b e.1 h) = some (k, x)) :
    effTlbMissFill i port b = proceed i port (h :: t) k w.seq
      (updFab i (fun f => { f with tlb := tlbUse k f.tlb }) (updFab i (fun f => { f with held := f.held.filter (fun x => x != w) }) b)) := by
  have hk' : (updFab i (fun f => { f with held := f.held.filter (fun x => x != w) }) b).fab.table.find?
      (fun e => importHit (updFab i (fun f => { f with held := f.held.filter (fun x => x != w) }) b) e.1 h) = some (k, x) := hk
  simp only [effTlbMissFill, hw, hx, hk']

theorem effLtOcTransfer_of_some {e : Nat × LtOc} {r : List (Nat × LtOc)} (h : takeFirst (fun e => e.1 == port) (getFab b i).oc = some (e, r)) :
    effLtOcTransfer i port b = updFab i (fun f => { f with oc := r, lastOc := some e.2 }) b := by
  simp only [effLtOcTransfer, h]

theorem effEsbAdmission_of_done {k : Nat} {w : LtHeld} {b' : Block} (hbay : b.bay.state ≠ 1)
    (hw : (getFab (stageWaiting i b) i).held.find? (fun x => x.port == port && x.why != .tlb) = some w) (hwin : w.win = some k)
    (hgo : launch i port w.xfers k w.seq (stageWaiting i b) = .done b') :
    effEsbAdmission i port b = updFab i (fun f => { f with held := f.held.filter (fun x => x.port != port) }) b' := by
  obtain ⟨p, seq, xfers, why, win⟩ := w
  cases hwin
  simp only [effEsbAdmission, if_neg hbay, hw, hgo]

end

/-- Settles O14: an initiator's port. -/
theorem initiatorPorts : Obligations.InitiatorPorts :=
  ⟨fun s i port h k e n home b' => by
    intro seq b w loff reqid b1 hrel hport hbay hsoft hheld hop hcont hroom hgate hsyn htlb hchk hfree hdead hen hpath hentry hstage
    rw [exec_ltOrRequest_one]
    refine run_eq_settled ((effLtOrRequest_one hrel hport hbay hsoft hheld hcont hroom hgate hsyn).trans ?_)
    have htlb' : (getFab s.b i).tlb.find? (fun k => importHit (updFab i (fun f => { f with order := f.order + 1 }) s.b) k h) = some k := htlb
    simp only [htlb']
    exact proceed_of_done hchk (launch_read hop hfree hdead hen hpath hentry hstage),
   fun s i port h hrel hport hbay hsoft hheld hcont hroom hgate hsyn htlb => by
    rw [exec_ltOrRequest_one]
    refine run_eq_after ((effLtOrRequest_one hrel hport hbay hsoft hheld hcont hroom hgate hsyn).trans ?_)
    have htlb' : (getFab s.b i).tlb.find? (fun k => importHit (updFab i (fun f => { f with order := f.order + 1 }) s.b) k h) = none := htlb
    simp only [htlb'],
   fun _ _ _ _ _ _ _ _ hw hx hk => run_eq_after (effTlbMissFill_of_hit hw hx hk),
   fun _ _ _ _ _ h => run_eq_after (effLtOcTransfer_of_some h),
   fun _ _ _ _ _ _ hbay hw hwin hgo => run_eq_settled (effEsbAdmission_of_done hbay hw hwin hgo)⟩

/-! Outstanding requests (R174, R177, R178, R185, R191). -/

section
variable {i e : Nat} {b : Block}

theorem effReadTimeout_of_live (hlive : (getOut b i e).live = true) (hwait : (getOut b i e).waiting = false)
    (hop : (getOut b i e).op ∈ [0x00, 0x02, 0x03]) :
    effReadTimeout i e b =
      completeReq i e .timeout 0 false 0 false
        (count { inst := i, tag := some (getOut b i e).tag, layer := (getOut b i e).layer, opid := (getOut b i e).opid } (evFab 4) b) := by
  have hop' : ((getOut b i e).op == 0x00 || (getOut b i e).op == 0x02 || (getOut b i e).op == 0x03) = true := by
    simpa [or_assoc] using hop
  rw [effReadTimeout]
  simp only [Bool.or_assoc] at hop' ⊢
  simp only [hlive, hwait, hop', Bool.not_false, Bool.and_self, if_true]

theorem effWriteTimeout_of_live (hlive : (getOut b i e).live = true) (hop : (getOut b i e).op = 0x01) :
    effWriteTimeout i e b =
      completeReq i e .timeout 0 false 0 false
        (count { inst := i, tag := some (getOut b i e).tag, layer := (getOut b i e).layer, opid := (getOut b i e).opid } (evFab 4) b) := by
  simp only [effWriteTimeout, hlive, hop, beq_self_eq_true, Bool.and_self, if_true]

theorem effAtomicResend_of_live {n home : Nat} {q : Pkt} (hq : (getOut b i e).pkt = some q) (hlive : (getOut b i e).live = true)
    (hop : opAtomic (getOut b i e).op = true) (hsent : (getOut b i e).sends ≠ 0) (hless : (getOut b i e).sends < 3)
    (hpath : choosePath b i (getOut b i e).dst (txnExport q.txn) (getOut b i e).group = some (n, home)) :
    effAtomicResend i e b =
      (let o := getOut b i e
       let q := { q with srcLcs := n, dstLcs := home, txn := q.txn ||| BitVec.ofNat 96 (2 ^ 63) }
       let b := updOut i e (fun o => { o with sends := o.sends + 1, lcs := n, home := home, path := pathSig b i o.dst, pkt := some q }) b
       stageOrWait i { lcs := n, pkt := q, shared := false, entry := some e, tag := o.tag, held := false } b) := by
  simp only [effAtomicResend, hq, hlive, hop, hsent, Nat.not_le.mpr hless, hpath, decide_false, Bool.not_true, Bool.or_self, Bool.false_eq_true,
    if_false]

theorem effAtomicIndeterminate_of_live (hlive : (getOut b i e).live = true) (hop : opAtomic (getOut b i e).op = true) :
    effAtomicIndeterminate i e b =
      completeReq i e .indeterminate 0 false 0 false
        (count { inst := i, tag := some (getOut b i e).tag, layer := (getOut b i e).layer, opid := (getOut b i e).opid } (evFab 5) b) := by
  simp only [effAtomicIndeterminate, hlive, hop, Bool.and_self, if_true]

theorem effAcquire_of_ready {n home : Nat} {q : Pkt} {b' : Block} (hq : (getOut b i e).pkt = some q) (hlive : (getOut b i e).live = true)
    (hwait : (getOut b i e).waiting = true) (hfree : acquireBlocked b i (getOut b i e).win (getOut b i e).tag (getOut b i e).order = false)
    (hdead : b.fab.dead.contains (getOut b i e).dst = false)
    (hpath : choosePath b i (getOut b i e).dst (txnExport q.txn) (getOut b i e).group = some (n, home))
    (hstage : stageEntry i e n home { q with srcLcs := n, dstLcs := home } (getOut b i e).tag (pathHolds b i (getOut b i e).dst) b = some b') :
    effAcquire i e b = b' := by
  simp only [effAcquire, hq, hlive, hwait, hfree, hdead, hpath, hstage, Bool.and_self, Bool.not_true, Bool.or_self, Bool.false_eq_true, if_false,
    Option.getD_some]

end

/-- Settles O15: an initiator's outstanding requests. -/
theorem outstandingRequests : Obligations.OutstandingRequests :=
  ⟨fun _ _ _ hclear => run_eq_after (if_neg (by rw [hclear]; exact Bool.false_ne_true)),
   fun _ _ _ hlive hwait hop => run_eq_after (effReadTimeout_of_live hlive hwait hop),
   fun _ _ _ hlive hop => run_eq_after (effWriteTimeout_of_live hlive hop),
   fun _ _ _ _ _ _ hq hlive hop hsent hless hpath => run_eq_after (effAtomicResend_of_live hq hlive hop hsent hless hpath),
   fun _ _ _ hlive hop => run_eq_after (effAtomicIndeterminate_of_live hlive hop),
   fun _ _ _ _ _ _ _ hq hlive hwait hfree hdead hpath hstage =>
    run_eq_settled (effAcquire_of_ready hq hlive hwait hfree hdead hpath hstage)⟩

/-! A target's deliveries (R40, R157, R178, R183, R187, R223). -/

section
variable {n : Nat} {b : Block}

theorem effLtIrTransfer_of_free {x : Inb} {id : BitVec 12} (hx : (getLport b n).inb.find? (fun x => !x.sent) = some x)
    (hid : freeIrId (getLport b n) = some id) :
    effLtIrTransfer n b =
      (let y := { x with sent := true, id := id }
       let b := updLport n (fun p => { p with inb := updateWhere (fun z => z == x) (fun _ => y) p.inb, lastIr := some y }) b
       if x.flits = 0 then b else giveFlits n x.vc x.flits b) := by
  simp only [effLtIrTransfer, hx, hid]

theorem effLtIcCompletion_of_sent {c : LtIc} {x : Inb} (hw : HwFault)
    (hx : (getLport b n).inb.find? (fun x => x.sent && x.done.isNone && x.id == c.id) = some x) :
    effLtIcCompletion n c hw b = answerAcquires n (completeInb n x c hw b) := by
  simp only [effLtIcCompletion, hx]

/-- A read's line whose check value agrees, with no forced failure due, is the response. -/
theorem completeInb_read_good {pair : Nat} {q : Pkt} {x : Inb} {c : LtIc} (hw : HwFault) (huse : x.use = .read pair q) (hpoi : c.poison = false)
    (hforced : forced true n 2 (dropInb n x b) = (false, dropInb n x b)) (hsor : sorrelOf c.data = c.sorrel) :
    completeInb n x c hw b = respond n pair q false c.status c.data c.sorrel c.sorigin false (dropInb n x b) := by
  simp only [completeInb, huse, hpoi, hforced, hsor, bne_self_eq_false, Bool.not_false, Bool.or_self, Bool.and_false, Bool.false_eq_true, if_false]

theorem effOperandPrefetchReturn_of_asked {k sidx : Nat} (data : Line) (poison : Bool) (st : Status) (sorrel : BitVec 32) {p : LPort} {x : Inb}
    (hp : b.lport.find? (fun e => e.2.inb.any (asksFor k sidx)) = some (n, p)) (hx : p.inb.find? (asksFor k sidx) = some x) :
    effOperandPrefetchReturn k sidx data poison st sorrel b =
      completeInb n x { id := x.id, data := data, poison := poison, status := st, sorrel := sorrel, sorigin := false } .none b := by
  simp only [effOperandPrefetchReturn, hp, hx]

end

/-- Settles O16: a target's deliveries. -/
theorem targetDeliveries : Obligations.TargetDeliveries :=
  ⟨fun _ _ _ _ hx hid => run_eq_after (effLtIrTransfer_of_free hx hid),
   fun _ _ _ hw _ hx => run_eq_after (effLtIcCompletion_of_sent hw hx),
   fun _ _ _ _ _ _ hw huse hpoi hforced hsor => completeInb_read_good hw huse hpoi hforced hsor,
   fun _ _ _ data poison st sorrel _ _ _ hp hx => run_eq_after (effOperandPrefetchReturn_of_asked data poison st sorrel hp hx),
   fun _ _ _ _ _ h => run_eq_after (if_pos h)⟩

end Sys2Proof.Proofs
end

section
/-! PROOFS. A link: egress (R43, R135, R136, R152, R153), its state (R43 to R46, R142 to R144), ingress (R42, R137, R141), and the registers of
the staging buffer (R149, R150, R156, R157). -/

namespace Sys2Proof.Proofs
open Sys2Proof Sys2Proof.Machine Sys2Proof.Laws

/-! What an LCS sends first (R135, R136, R152, R153). -/

section
variable {n : Nat} {b : Block}

theorem effEgressSelect_of_keyed (hw : HwFault) (hsend : canSend b n = true) (hkey : keyless (txLeft n b) n = false) :
    effEgressSelect n hw b = selectNext n ((getLcs (txLeft n b) n).dual && (hw == .dualData || hw == .dualMac)) (txLeft n b) := by
  simp only [effEgressSelect, hsend, hkey, Bool.not_true, Bool.false_eq_true, if_false]

/-- No fault, no mismatch of the two copies. -/
theorem effEgressSelect_none (hsend : canSend b n = true) (hkey : keyless (txLeft n b) n = false) :
    effEgressSelect n .none b = selectNext n false (txLeft n b) := by
  rw [effEgressSelect_of_keyed .none hsend hkey]
  exact congrArg (fun d => selectNext n d (txLeft n b)) (Bool.and_false _)

variable {dual : Bool}

theorem selectNext_resend {x : Sent} (h : resendHead b n = some x) :
    selectNext n dual b = driveTx n x (updLport n (fun p => { p with resend := none }) b) := by
  simp only [selectNext, h]

theorem selectNext_bayFlit {f : Flit} (h : resendHead b n = none) (hf : (getLport b n).bayFlit = some f)
    (hc : 1 ≤ (getLport b n).txCrd.getD (ctlVc b n) 0) :
    selectNext n dual b =
      driveTx n { vc := ctlVc b n, flits := [f], pair := none, cls := none, shared := false } (updLport n (fun p => { p with bayFlit := none }) b) := by
  simp only [selectNext, h, if_pos hc, hf]

theorem selectNext_resync {e : Nat × Option Nat} {epoch : Nat} {key : Key} (h : resendHead b n = none) (hf : (getLport b n).bayFlit = none)
    (hc : 3 ≤ (getLport b n).txCrd.getD (ctlVc b n) 0) (hr : resyncHead b n = some (e, epoch, key)) :
    selectNext n dual b = sendResync n e epoch key dual b := by
  simp only [selectNext, h, hf, ite_self, if_pos hc, hr]

theorem selectNext_ctl {x : Staged} {k : Nat} {q : Pair} {epoch : Nat} {key : Key} (h : resendHead b n = none)
    (hf : (getLport b n).bayFlit = none) (hr : resyncHead b n = none) (hh : headOf b n clsCtl = some (x, k, q, epoch, key)) :
    selectNext n dual b = sendStaged n x k q epoch key dual b := by
  simp only [selectNext, h, hf, hr, hh, ite_self]

theorem selectNext_round {x : Staged} {k : Nat} {q : Pair} {epoch : Nat} {key : Key} {t : Nat × Bool} {d : Sparse Nat}
    (h : resendHead b n = none) (hf : (getLport b n).bayFlit = none) (hr : resyncHead b n = none) (hh : headOf b n clsCtl = none)
    (hp : drrPick b n 9 (Sparse.get (0, false) (getEsb b (getLcs b n).inst).turn n) (getEsb b (getLcs b n).inst).drr
      = (some (x, k, q, epoch, key), t, d)) :
    selectNext n dual b =
      sendStaged n x k q epoch key dual (updEsb (getLcs b n).inst (fun e => { e with turn := Sparse.set (0, false) e.turn n t, drr := d }) b) := by
  simp only [selectNext, h, hf, hr, hh, hp, ite_self]

end

/-- Settles O17: what an LCS sends first. -/
theorem egress : Obligations.Egress :=
  fun _ _ hw hsend hkey =>
    ⟨fun _ h => run_eq_settled ((effEgressSelect_of_keyed hw hsend hkey).trans (selectNext_resend h)),
     fun _ h hf hc => run_eq_settled ((effEgressSelect_of_keyed hw hsend hkey).trans (selectNext_bayFlit h hf hc)),
     fun _ _ _ h hf hc hr => run_eq_settled ((effEgressSelect_none hsend hkey).trans (selectNext_resync h hf hc hr)),
     fun _ _ _ _ _ h hf hr hh => run_eq_settled ((effEgressSelect_none hsend hkey).trans (selectNext_ctl h hf hr hh)),
     fun _ _ _ _ _ _ _ h hf hr hh hp => run_eq_settled ((effEgressSelect_none hsend hkey).trans (selectNext_round h hf hr hh hp))⟩

/-! The state of a link (R29, R43 to R46, R142 to R144). -/

section
variable {n : Nat} {b : Block}

theorem effLlTxCreditReturn_of_up (crd : BitVec 16) (hrel : (getInst b (getLcs b n).inst).released = true) (hpres : (getLcs b n).present = true)
    (hup : (getLport b n).up = true) (hhold : (getLport b n).crdHold = false)
    (hfew : ((getLport b n).txCrd.zipIdx.map (fun e => e.1 + fieldNat crd (2 * e.2 + 1) (2 * e.2))).any (fun c => decide (1024 < c)) = false) :
    effLlTxCreditReturn n crd b = updLport n (fun x => { x with
      txCrd := ((getLport b n).txCrd.zipIdx.map (fun e => e.1 + fieldNat crd (2 * e.2 + 1) (2 * e.2))).map (fun c => min c 1024) }) b := by
  simp only [effLlTxCreditReturn, hrel, hpres, hup, hhold, hfew, Bool.not_true, Bool.or_self, Bool.false_eq_true, if_false]

theorem effLlUpRise_of_legal (hpres : (getLcs b n).present = true) (hrel : (getInst b (getLcs b n).inst).released = true)
    (hup : (getLport b n).up = false) (hmode : modeLegal b n (getLport b n).modeNext = true) :
    effLlUpRise n b = (getLport b n).pairs.foldl (fun b e => oweReq n e.1 b)
      (updLcs n (fun l => { l with state := if l.state = .outOfService then .outOfService else .inService }) (updLport n (fun x => { x with
        up := true, retrain := false, mode := x.modeNext, modeBad := false, crdHold := false, txCrd := [0, 0, 0, 0, 0, 0, 0, 0],
        rxDiv := (getLcs b n).rxvc, rxGrant := (getLcs b n).rxvc.zipIdx.map (fun e => e.1 - x.rxHeld.getD e.2 0),
        search := x.search && x.modeNext }) b)) := by
  simp only [effLlUpRise, hpres, hrel, hup, hmode, Bool.not_true, Bool.or_self, Bool.false_eq_true, if_false]

theorem effLlUpFall_of_up (cut : Bool) (hpres : (getLcs b n).present = true) (hup : (getLport b n).up = true) :
    effLlUpFall n cut b =
      (let again := (getLport b n).resend.or (if cut then (getLport b n).sending else none)
       let b := rxAbandon n b
       stageWaiting (getLcs b n).inst (updLport n (fun x => { x with up := false, retrain := false, sending := none, resend := again }) b)) := by
  simp only [effLlUpFall, hpres, hup, Bool.not_true, Bool.or_self, Bool.false_eq_true, if_false]

/-- A mode that differs is kept; while the link is up it is a link-integrity fault. -/
theorem effLlRxModeChange_of_new {mode : Bool} (hpres : (getLcs b n).present = true) (hmode : (getLport b n).modeNext = !mode) :
    effLlRxModeChange n mode b =
      (let b' := updLport n (fun x => { x with modeNext := mode }) b
       if (getLport b n).up then loneFault n .badConfig (portError (whoLcs b' n) 11 b') else b') := by
  have hnew : ((!mode) == mode) = false := Bool.not_beq_self mode
  simp only [effLlRxModeChange, hpres, hmode, hnew, Bool.not_true, Bool.or_self, Bool.false_eq_true, if_false]

theorem effResyncRetryTimer_of_broken {k : Nat} (hvalid : (getPair b n k).valid = true) (hup : (getPair b n k).up = true)
    (hbroken : (getPair b n k).vcs.any (fun v => v.rx == .broken) = true)
    (howed : (getLport b n).resync.any (fun e => e.1 == k && e.2.isNone) = false) :
    effResyncRetryTimer n k b =
      if (getLcs b n).attempts ≤ (getPair b n k).sends then pairDown n k b
      else updLport n (fun p => { p with resync := p.resync ++ [(k, none)] }) b := by
  simp only [effResyncRetryTimer, oweReq, hvalid, hup, hbroken, howed, Bool.not_true, Bool.not_false, Bool.and_self, Bool.or_self,
    Bool.false_eq_true, if_false, if_true]

end

/-- Settles O18: the state of a link. -/
theorem linkState : Obligations.LinkState :=
  ⟨fun _ _ crd hrel hpres hup hhold hfew => run_eq_after (effLlTxCreditReturn_of_up crd hrel hpres hup hhold hfew),
   fun _ _ hpres hrel hup hmode => run_eq_after (effLlUpRise_of_legal hpres hrel hup hmode),
   fun _ _ cut hpres hup => run_eq_after (effLlUpFall_of_up cut hpres hup),
   fun _ _ _ hpres hmode =>
    ⟨fun hup => run_eq_after ((effLlRxModeChange_of_new hpres hmode).trans (if_neg (by rw [hup]; exact Bool.false_ne_true))),
     fun hup => run_eq_after ((effLlRxModeChange_of_new hpres hmode).trans (if_pos hup))⟩,
   fun _ _ hstate hup => run_eq_after (if_pos ⟨hstate, hup⟩),
   fun _ _ _ hvalid hup hbroken howed => run_eq_after (effResyncRetryTimer_of_broken hvalid hup hbroken howed)⟩

/-! Ingress (R42, R137, R141). -/

section
variable {n vc : Nat} {b : Block}

/-- A flit with credit opens a framed packet or joins the open one. -/
theorem rxOne_join {f : RxFlit} {fl : List Flit} (hw : HwFault) (hm : (getLport b n).mode = false)
    (hc : 0 < (getLport b n).rxGrant.getD f.vc 0)
    (hplace : ((getLport b n).rxOpen = none ∧ f.sop = true ∧ (getLport b n).rxStray.contains f.vc = false ∧ fl = [])
      ∨ ((getLport b n).rxOpen = some (f.vc, fl) ∧ f.sop = false ∧ fl.length < 9)) :
    rxOne n hw b f = rxJoin n fl f hw b := by
  rcases hplace with ⟨ho, hs, hn, rfl⟩ | ⟨ho, hs, hl⟩
  · exact rxOne_first hm ho hs hn hc
  · exact rxOne_next hm ho hs hl hc

theorem rxPacket_of_resyncMarker {fl : List Flit} (hw : HwFault) (h : (bytesOfFlits fl).take 8 = resyncMarker) :
    rxPacket n vc fl hw b =
      (rxResync n vc (bytesOfFlits fl) fl.length ((getLcs b n).dual && (hw == .dualData || hw == .dualMac)) false
        (giveFlits n vc fl.length b)).2 := by
  have hnot : ¬ (resyncMarker = abortMarker ∧ fl.length = 1) := fun h => absurd h.1 (by decide)
  simp only [rxPacket, h, if_neg hnot, if_true]

theorem rxPacket_of_data {fl : List Flit} (hw : HwFault) (hr : (bytesOfFlits fl).take 8 ≠ resyncMarker)
    (ha : (bytesOfFlits fl).take 8 ≠ abortMarker ∨ fl.length ≠ 1) :
    rxPacket n vc fl hw b = rxData n vc (bytesOfFlits fl) fl.length hw b := by
  have hnot : ¬ ((bytesOfFlits fl).take 8 = abortMarker ∧ fl.length = 1) := not_and_or.mpr ha
  simp only [rxPacket, if_neg hnot, if_neg hr]

/-- Checks 5 to 7 pass: the key is held, the SEQ is the next, and the tag verifies. -/
theorem rxJudge_good {b0 : Block} {bytes : Bytes} {h : RxHdr} {p : Pair} {key : Key} (hkey : rxKey b n p h.epoch = some key)
    (hepoch : (p.vcs.getD vc {}).rxEpoch ≤ h.epoch) (hseq : h.seq = (p.vcs.getD vc {}).rxNext) (hforced : forced true n 1 b = (false, b0))
    (hdir : h.dir = dirBit h.pkt.src.toNat h.pkt.srcLcs h.pkt.dst.toNat h.pkt.dstLcs)
    (htag : gcmTag (keyBytes key) (pktIv h.epoch vc h.dir h.seq) (bytes.take 32) ((bytes.drop 32).take (132 * h.nl))
      = (bytes.drop (32 + 132 * h.nl)).take 16) :
    rxJudge n vc bytes h p true b = ([], some key, b0) := by
  have hseqGood : (decide (h.epoch < (p.vcs.getD vc {}).rxEpoch) || h.seq != (p.vcs.getD vc {}).rxNext) = false := by
    rw [hseq, bne_self_eq_false, Bool.or_false, decide_eq_false (Nat.not_lt.mpr hepoch)]
  have hgood : (h.dir != dirBit h.pkt.src.toNat h.pkt.srcLcs h.pkt.dst.toNat h.pkt.dstLcs
      || gcmTag (keyBytes key) (pktIv h.epoch vc h.dir h.seq) (bytes.take 32) ((bytes.drop 32).take (132 * h.nl))
        != (bytes.drop (32 + 132 * h.nl)).take 16) = false := by
    rw [htag, bne_self_eq_false, ← hdir, bne_self_eq_false, Bool.or_self]
  simp only [rxJudge, hkey, hseqGood, hgood, hforced, Bool.or_self, Bool.and_false, Bool.false_eq_true, if_false, if_true, List.append_nil]

theorem headBad_eq_false {h : RxHdr} (htyp : h.typ = 0) (hver : h.ver = (if (getLcs b n).z2 then 2 else 3)) (hnl : h.nl ≤ 4)
    (hseq : h.seq < 2 ^ 63) (hvc : h.pkt.vc = vc) : headBad b n vc h = false := by
  simp only [headBad, htyp, ← hver, hvc, bne_self_eq_false, decide_eq_false (Nat.not_lt.mpr hnl), decide_eq_false (Nat.not_le.mpr hseq),
    Bool.or_self]

theorem rxData_good {b0 : Block} {flits pk : Nat} {bytes : Bytes} {p : Pair} {key : Key} (hhead : headBad b n vc (rxHeader bytes) = false)
    (hflits : flits = pktFlits (rxHeader bytes).nl) (hfill : (bytes.drop (pktLen (rxHeader bytes).nl)).any (fun x => x != 0) = false)
    (hdst : (rxHeader bytes).pkt.dst = b.trust.dom.pkg) (hlcs : (rxHeader bytes).pkt.dstLcs = n)
    (hpair : findPair b n (rxHeader bytes).pkt.src (rxHeader bytes).pkt.srcLcs = some (pk, p)) (hup : p.up = true)
    (hrx : (p.vcs.getD vc {}).rx = .normal)
    (hjudge : rxJudge n vc bytes (rxHeader bytes) p true b = ([], some key, b0)) :
    rxData n vc bytes flits .none b = rxAccept n vc pk bytes (rxHeader bytes) key b0 := by
  have hhere : ¬ ((rxHeader bytes).pkt.dst ≠ b.trust.dom.pkg ∨ (rxHeader bytes).pkt.dstLcs ≠ n) := by simp [hdst, hlcs]
  have hfound : (some (pk, p)).filter (fun e => e.2.up) = some (pk, p) := by simp [hup]
  have htwo : (headBad b n vc (rxHeader bytes) || flits != pktFlits (rxHeader bytes).nl) = false := by
    rw [hhead, hflits, bne_self_eq_false, Bool.or_self]
  have hnone : (HwFault.none == .dualData || HwFault.none == .dualMac) = false := rfl
  simp only [rxData, htwo, hfill, hhere, hpair, hfound, hrx, hjudge, hnone, List.isEmpty_nil, List.append_nil, Option.getD_some,
    Bool.and_false, Bool.false_eq_true, reduceCtorEq, false_and, and_false, if_false, if_true]

end

/-- Settles O19: ingress. -/
theorem ingress : Obligations.Ingress :=
  ⟨fun s n x fl hpres hrel hup hmode hv hc hplace => by
    have hany : ∀ hw, rxAny n [x] hw s.b = rxJoin n fl (slotFlit x 0) hw s.b := fun hw =>
      (rxAny_beat hpres hrel hup hv).trans (rxOne_join hw hmode hc hplace)
    exact ⟨fun hw => run_eq_settled (hany hw), run_eq_settled (hany .none), run_eq_settled (hany .none)⟩,
   fun _ _ _ _ hw => ⟨fun ha hl => if_pos ⟨ha, hl⟩, fun hr => rxPacket_of_resyncMarker hw hr, fun hr ha => rxPacket_of_data hw hr ha⟩,
   fun _ _ _ _ _ _ _ _ _ htyp hver hnl hflits hseq63 hvc hfill hdst hlcs hpair hup hrx hkey hepoch hseq hforced hdir htag =>
    rxData_good (headBad_eq_false htyp hver hnl hseq63 hvc) hflits hfill hdst hlcs hpair hup hrx
      (rxJudge_good hkey hepoch hseq hforced hdir htag)⟩

/-! The registers of the staging buffer and the credit division (R149, R150, R156, R157). -/

/-- Two changes of a staging buffer that agree on it are one. -/
theorem updEsb_congr {i : Nat} {f g : Esb → Esb} {b : Block} (h : f (getEsb b i) = g (getEsb b i)) : updEsb i f b = updEsb i g b := by
  unfold updEsb Sparse.upd
  unfold getEsb at h
  rw [h]

section
variable {z : ZReq} {w : Word} {b : Block}

theorem effEsbCtrlWrite_of_served (h : served b z .esb)
    (hspill : fieldBit w 1 = true → (getEsb (zcpRsp z.inst .ok b) z.inst).spillEn = true) :
    effEsbCtrlWrite z w b =
      (let b := zcpRsp z.inst .ok b
       updEsb z.inst (fun e => { e with ctEn := fieldBit w 0, spillEn := fieldBit w 1 }) (if fieldBit w 1 then b else dropSpill z.inst b)) := by
  rw [effEsbCtrlWrite, zcpDo_eq h]
  cases hbit : fieldBit w 1 with
  | true => simp only [hspill hbit, Bool.not_true, Bool.and_false, Bool.false_and, Bool.false_eq_true, if_false, if_true]
  | false => simp only [Bool.false_and, Bool.not_false, Bool.false_eq_true, if_false, if_true]

/-- A class register's word. -/
theorem effEsbClassWrite_of_class {c : Nat} (h : served b z .esb) (hc : c < 5)
    (hok : classesOk (getInst (zcpRsp z.inst .ok b) z.inst).nLcs ((getEsb (zcpRsp z.inst .ok b) z.inst).cls.set c
        { vc := fieldNat w 2 0, en := fieldBit w 3, min := fieldNat w 21 8, max := fieldNat w 38 24, mark := fieldNat w 53 40,
          weight := max 1 (fieldNat w 59 56) }) (getEsb (zcpRsp z.inst .ok b) z.inst).msgMax = true) :
    effEsbClassWrite z c w b =
      (let b := zcpRsp z.inst .ok b
       let cls := (getEsb b z.inst).cls.set c { vc := fieldNat w 2 0, en := fieldBit w 3, min := fieldNat w 21 8, max := fieldNat w 38 24,
                                                mark := fieldNat w 53 40, weight := max 1 (fieldNat w 59 56) }
       stageWaiting z.inst (updEsb z.inst (fun e =>
        { e with cls := cls, msgMax := (getEsb b z.inst).msgMax, short := reshort (voqs b z.inst) (getEsb b z.inst) cls }) b)) := by
  have hc6 : c ≠ 6 := by omega
  simp only [effEsbClassWrite, zcpDo_eq h, hok, if_pos hc, if_neg hc6, if_true]
  exact congrArg (stageWaiting z.inst) (updEsb_congr rfl)

/-- The word of ESB_POOL. -/
theorem effEsbClassWrite_of_pool (h : served b z .esb)
    (hok : classesOk (getInst (zcpRsp z.inst .ok b) z.inst).nLcs (getEsb (zcpRsp z.inst .ok b) z.inst).cls (fieldNat w 14 0) = true) :
    effEsbClassWrite z 6 w b =
      (let b := zcpRsp z.inst .ok b
       stageWaiting z.inst (updEsb z.inst (fun e =>
        { e with cls := (getEsb b z.inst).cls, msgMax := fieldNat w 14 0,
                 short := reshort (voqs b z.inst) (getEsb b z.inst) (getEsb b z.inst).cls }) b)) := by
  have h65 : ¬ (6 < 5) := by decide
  simp only [effEsbClassWrite, zcpDo_eq h, hok, if_neg h65, if_true]
  exact congrArg (stageWaiting z.inst) (updEsb_congr rfl)

theorem effEsbWredWrite_of_ordered {x : Nat} (h : served b z .esb) (hmin : fieldNat w 13 0 ≤ fieldNat w 29 16)
    (hmax : fieldNat w 29 16 ≤ (esbClass (getEsb (zcpRsp z.inst .ok b) z.inst) clsMsg).max) :
    effEsbWredWrite z x w b = updEsb z.inst (fun e => { e with
      wred := e.wred.set x { minTh := fieldNat w 13 0, maxTh := fieldNat w 29 16, maxP := fieldNat w 39 32, w := fieldNat w 43 40 } })
      (zcpRsp z.inst .ok b) := by
  have hgood : ¬ (fieldNat w 29 16 < fieldNat w 13 0 ∨ (esbClass (getEsb (zcpRsp z.inst .ok b) z.inst) clsMsg).max < fieldNat w 29 16) :=
    not_or.mpr ⟨Nat.not_lt.mpr hmin, Nat.not_lt.mpr hmax⟩
  rw [effEsbWredWrite, zcpDo_eq h]
  exact if_neg hgood

theorem effEsbMeterWrite_rates {t : Nat} (h : served b z .esb) (hcir : fieldNat w 31 0 ≤ fieldNat w 63 32) :
    effEsbMeterWrite z t false w b = updEsb z.inst (fun e =>
      { e with meters := Sparse.upd {} e.meters t (fun m => { m with cir := fieldNat w 31 0, pir := fieldNat w 63 32 }) }) (zcpRsp z.inst .ok b) := by
  have hgood : decide (fieldNat w 63 32 < fieldNat w 31 0) = false := decide_eq_false (Nat.not_lt.mpr hcir)
  simp only [effEsbMeterWrite, zcpDo_eq h, hgood, Bool.and_false, Bool.false_eq_true, if_false]

theorem effEsbMeterWrite_bursts {t : Nat} (h : served b z .esb) :
    effEsbMeterWrite z t true w b = updEsb z.inst (fun e =>
      { e with meters := Sparse.upd {} e.meters t (fun m => { m with cbs := fieldNat w 23 0, pbs := fieldNat w 55 32 }) })
      (zcpRsp z.inst .ok b) := by
  simp only [effEsbMeterWrite, zcpDo_eq h, Bool.not_true, Bool.false_and, Bool.false_eq_true, if_false, if_true]

theorem effLcsRxvcWrite_of_fits {n v : Nat} (h : served b z (.lcs n)) (hnine : 9 ≤ fieldNat w 10 0)
    (hsum : ((getLcs (zcpRsp z.inst .ok b) n).rxvc.set v (fieldNat w 10 0)).foldl (· + ·) 0 ≤ 1024) :
    effLcsRxvcWrite z n v w b =
      updLcs n (fun l => { l with rxvc := (getLcs (zcpRsp z.inst .ok b) n).rxvc.set v (fieldNat w 10 0) }) (zcpRsp z.inst .ok b) := by
  have hgood : ¬ (fieldNat w 10 0 < 9 ∨ 1024 < ((getLcs (zcpRsp z.inst .ok b) n).rxvc.set v (fieldNat w 10 0)).foldl (· + ·) 0) :=
    not_or.mpr ⟨Nat.not_lt.mpr hnine, Nat.not_lt.mpr hsum⟩
  rw [effLcsRxvcWrite, zcpDo_eq h]
  exact if_neg hgood

variable {i : Nat} {x : Spilled} {t : List Spilled} {sh : Bool}

theorem effSpillReturn_of_unasked (hx : (getEsb b i).spill = x :: t) (hadm : admission b i x.lcs clsMsg (pktFlits x.nl) false = some sh)
    (hask : x.asked = none) : effSpillReturn i b = spillAsk i x b := by
  simp only [effSpillReturn, hx, hadm, hask]

theorem effSpillReturn_of_read {l : List (Nat × Nat × Nat)} (hx : (getEsb b i).spill = x :: t)
    (hadm : admission b i x.lcs clsMsg (pktFlits x.nl) false = some sh) (hask : x.asked = some l)
    (hall : l.all (fun a => (spillRd b a).all (fun r => r.ready.isSome)) = true) : effSpillReturn i b = spillTake i x l sh b := by
  simp only [effSpillReturn, hx, hadm, hask, hall, if_true]

end

/-- Settles O20: the registers of the staging buffer, and spilled packets. -/
theorem stagingRegisters : Obligations.StagingRegisters :=
  ⟨fun _ _ _ h hspill => run_eq_after (effEsbCtrlWrite_of_served h hspill),
   fun _ _ _ _ h hc hok => run_eq_settled (effEsbClassWrite_of_class h hc hok),
   fun _ _ _ h hok => run_eq_settled (effEsbClassWrite_of_pool h hok),
   fun _ _ _ _ h hmin hmax => run_eq_after (effEsbWredWrite_of_ordered h hmin hmax),
   fun _ _ _ _ h => ⟨fun hcir => run_eq_after (effEsbMeterWrite_rates h hcir), run_eq_after (effEsbMeterWrite_bursts h)⟩,
   fun _ _ _ _ _ h hnine hsum => run_eq_after (effLcsRxvcWrite_of_fits h hnine hsum),
   fun _ _ _ _ _ hx hadm => ⟨fun hask => run_eq_after (effSpillReturn_of_unasked hx hadm hask),
    fun _ hask hall => run_eq_after (effSpillReturn_of_read hx hadm hask hall)⟩⟩

end Sys2Proof.Proofs
end

section
/-! PROOFS. Windows, home masks and dead peers (R159 to R179, R354); plans and their runs (R217 to R227, R235, R398). -/

namespace Sys2Proof.Proofs
open Sys2Proof Sys2Proof.Machine Sys2Proof.Laws

/-! Windows, home masks and dead peers. -/

section
variable {b : Block}

/-- CREATE of a good staged window takes the lowest free entry. -/
theorem bodyCreateWindow_of_good {src : Src} {i : Nat} (hchk : winChecks b (stageWin b src) = [])
    (hopen : ((reqOf b src).kernel && kClosed b (stageWin b src).tag) = false)
    (hfree : lowestFrom (fun k => !(getWin (askBind (stageWin b src).peer b) k).valid) 16384 0 = some i) :
    bodyCreateWindow src b =
      (let w := stageWin b src
       let b := askBind w.peer b
       cmdDone .wtu src .ok (handleOf b tyWin i) i (newRef tyWin i (setWin i w b))) := by
  simp only [bodyCreateWindow, hchk, hopen, hfree, Bool.false_eq_true, if_false, List.append_nil]

theorem bodyDelete_of_good {src : Src} (hvalid : (getWin b (winIndex b src)).valid = true)
    (hlive : (getWin b (winIndex b src)).deleting = false)
    (hact : mayAct b (reqOf b src) (getWin b (winIndex b src)).ctx (getWin b (winIndex b src)).tag = true) :
    bodyDelete src b = startDelete (winIndex b src) (some src) b := by
  simp only [bodyDelete, hvalid, hlive, hact, Bool.not_true, Bool.not_false, Bool.and_self, Bool.and_false, Bool.false_eq_true, if_true,
    if_false, List.append_nil, List.isEmpty_nil]

theorem effDeleteComplete_of_idle {i : Nat} (halone : replicating b = false) (hdel : (getWin b i).deleting = true) (hidle : winIdle b i = true) :
    effDeleteComplete i b = bodyDeleteComplete i b := by
  simp only [effDeleteComplete, hdel, hidle, Bool.and_self, if_true, mutate_of_alone _ _ halone]

theorem effHomeMaskPublish_of_new (hnew : ownMask b ≠ b.fab.mask) (hprim : primaryInst b ≠ none) :
    effHomeMaskPublish b =
      (let old := ((b.time, b.fab.mask) :: b.fab.masks).filter (fun e => decide (b.time.toNat ≤ e.1.toNat + 20000))
       domSendAll (.homeMask (ownMask b)) { b with fab := { b.fab with mask := ownMask b, masks := old } }) := by
  have hsome : (primaryInst b).isNone = false := by
    rwa [Option.isNone_eq_false_iff, Option.isSome_iff_ne_none]
  simp only [effHomeMaskPublish, hnew, hsome, Bool.false_eq_true, or_self, if_false]

theorem effPeerDead_of_emptyMask {p : Pkg} (h : Sparse.get none b.fab.peerMask p.toNat = some 0) : effPeerDead p b = declareDead p b := by
  simp only [effPeerDead, h, beq_self_eq_true, Bool.or_true, if_true]

theorem effPeerDead_of_pairsDown {p : Pkg}
    (hsome : b.lport.flatMap (fun e => (e.2.pairs.filter (fun x => x.2.valid && x.2.peer == p)).map (·.2)) ≠ [])
    (hdown : (b.lport.flatMap (fun e => (e.2.pairs.filter (fun x => x.2.valid && x.2.peer == p)).map (·.2))).all (fun x => !x.up) = true) :
    effPeerDead p b = declareDead p b := by
  simp only [effPeerDead, List.isEmpty_eq_false_iff.mpr hsome, hdown, Bool.not_false, Bool.and_self, Bool.true_or, if_true]

end

/-- Settles O21: windows, home masks and dead peers. -/
theorem windows : Obligations.Windows :=
  ⟨fun _ _ _ _ h halone hchk hopen hfree => run_eq_settled ((runCmd_eq h halone).trans (bodyCreateWindow_of_good hchk hopen hfree)),
   fun _ _ _ h halone hvalid hlive hact => run_eq_settled ((runCmd_eq h halone).trans (bodyDelete_of_good hvalid hlive hact)),
   fun _ _ halone hdel hidle => run_eq_after (effDeleteComplete_of_idle halone hdel hidle),
   fun _ hnew hprim => run_eq_after (effHomeMaskPublish_of_new hnew hprim),
   fun _ _ _ hbound => run_eq_after (if_pos hbound),
   fun _ _ h => run_eq_after (effPeerDead_of_emptyMask h),
   fun _ _ hsome hdown => run_eq_after (effPeerDead_of_pairsDown hsome hdown)⟩

/-! Plans (R217 to R219). -/

section
variable {src : Src} {b : Block}

/-- An image that is read and has no fault is installed. -/
theorem bodyPlanInstall_of_good {image : Bytes} {rd : Status} (hrd : statusFailing (readAt src image.length rd b).1 = false)
    (hchk : planChecks (readAt src image.length rd b).2 (image.take (64 + 32 * ((image[5]?).getD 0).toNat))
      (planOf (reqOf (readAt src image.length rd b).2 src).ctx (image.take (64 + 32 * ((image[5]?).getD 0).toNat))) = []) :
    bodyPlanInstall src image rd b =
      (let r := readAt src image.length rd b
       let p := planOf (reqOf r.2 src).ctx (image.take (64 + 32 * ((image[5]?).getD 0).toNat))
       let b := p.steps.foldl (fun b s => (if stOut s then askBind s.outPkg else id) ((if stIn s then askBind s.inPkg else id) b)) r.2
       let b := newRef tyPlan p.id { b with red := { b.red with plans := b.red.plans ++ [p] } }
       cmdDone .none src .ok (handleOf b tyPlan p.id) 0 (connectPlan p b)) := by
  simp only [bodyPlanInstall, hrd, hchk, Bool.false_eq_true, if_false, List.isEmpty_nil, if_true]

theorem bodyPlanRemove_of_good {p : Plan} (hp : planById b (fieldNat (srcWord b src) 7 0) = some p) (hlive : p.dying = false)
    (hidle : b.red.invs.any (fun v => v.plan == fieldNat (srcWord b src) 7 0) = false)
    (hown : (reqOf b src).kernel = true ∨ p.ctx = (reqOf b src).ctx) :
    bodyPlanRemove src b = cmdDone .none src .ok 0 0 (freeRef tyPlan (fieldNat (srcWord b src) 7 0)
      { b with red := { b.red with plans := b.red.plans.filter (fun q => q.id != fieldNat (srcWord b src) 7 0) } }) := by
  have hmay : (!(reqOf b src).kernel && p.ctx != (reqOf b src).ctx) = false := by
    rcases hown with h | h
    · rw [h]; rfl
    · rw [h, bne_self_eq_false, Bool.and_false]
  simp only [bodyPlanRemove, hp, hlive, hidle, hmay, Bool.or_self, Bool.false_eq_true, if_false, List.append_nil, List.isEmpty_nil, if_true]

/-- An invocation that passes its checks and meets no abort record opens. -/
theorem bodyPlanInvoke_of_good {blk : BitVec 512} {rd : Status} {p : Plan} (hrd : statusFailing (readAt src 64 rd b).1 = false)
    (hchk : invokeChecks (readAt src 64 rd b).2 (reqOf (readAt src 64 rd b).2 src) blk = [])
    (hp : planById (readAt src 64 rd b).2 (fieldNat blk 7 0) = some p)
    (habort : abortsOf (readAt src 64 rd b).2 (newInv (readAt src 64 rd b).2 src blk p) = []) :
    bodyPlanInvoke src blk rd b =
      (let r := readAt src 64 rd b
       let v := newInv r.2 src blk p
       feedInv v (openInv v r.2)) := by
  simp only [bodyPlanInvoke, hrd, hchk, hp, habort, Bool.false_eq_true, if_false]

end

/-- Settles O22: PLAN_INSTALL, PLAN_REMOVE and PLAN_INVOKE. -/
theorem plans : Obligations.Plans :=
  ⟨fun _ _ _ _ _ h hrd hchk => run_eq_settled ((startLocal_eq h).trans (bodyPlanInstall_of_good hrd hchk)),
   fun _ _ _ _ h hp hlive hidle hown => run_eq_settled ((startLocal_eq h).trans (bodyPlanRemove_of_good hp hlive hidle hown)),
   fun _ _ _ _ _ _ h hrd hchk hp habort => run_eq_settled ((startLocal_eq h).trans (bodyPlanInvoke_of_good hrd hchk hp habort))⟩

/-! Running plans (R219 to R227, R235, R398). -/

section
variable {n k : Nat} {b : Block}

theorem effHeldPacketExpiry_of_head {h : HeldPkt} {t : List HeldPkt} (hh : (getLport b n).held = h :: t) :
    effHeldPacketExpiry n b = drainHeld n t.length (updLport n (fun p => { p with held := t })
      (giveFlits n h.pkt.vc (pktFlits h.pkt.lines.length) (count (whoLcs b n) (evLink 12) b))) := by
  simp only [effHeldPacketExpiry, hh]

/-- A lane's cycle in which a step's turn has come. -/
theorem effStepLineProduce_of_turn {e : Nat × Nat}
    (he : laneNext (lanePrefetch n (makeRoom n ((laneRuns b n).foldl (fun b e => stagePacket e.1 e.2 b) b))) n = some e) :
    effStepLineProduce n .none b =
      (let b := lanePrefetch n (makeRoom n ((laneRuns b n).foldl (fun b e => stagePacket e.1 e.2 b) b))
       produceLine e.1 e.2 false (if freeStep b e then updLport n (fun x => { x with laneTurn := e }) b else b)) := by
  simp only [effStepLineProduce, he]
  rfl

theorem effStepInputTimeout_of_late {sidx : Nat} {v : Inv} {p : Plan} {r : StepRun} {x : Step} (hv : getInv b k = some v)
    (hp : planById b v.plan = some p) (hr : v.steps[sidx]? = some r) (hx : p.steps[sidx]? = some x) (hin : stIn x = true)
    (hact : r.active = true) (hdone : r.done = false) (hlate : r.inLine < formLines p v.ce (formIn x)) :
    effStepInputTimeout k sidx b = endInv k .timeout b := by
  simp only [effStepInputTimeout, hv, hp, hr, hx, hin, hact, hdone, decide_eq_true hlate, Bool.not_false, Bool.and_self, if_true]

/-- An invocation that runs ends as its cause says. -/
theorem effInvocationEnd_of_running {v : Inv} {p : Plan} (cause : InvCause) (hv : getInv b k = some v) (hp : planById b v.plan = some p) :
    effInvocationEnd k cause b =
      (let n := (p.steps.map (fun s => s.exec)).headD 0
       match cause with
       | .laneOut => if planOut b p then endInv k .outOfService b else b
       | .pairDown => if planDown b p then endInv k .outOfService b else b
       | .rowResidue => residueFail n k b
       | .sorrel => endInv k .sorrelFail (integrity (getLcs b n).inst v.tag .sorrel b)
       | .poison => endInv k .poison b
       | .peer st => if statusFailing st then endInv k st b else b) := by
  cases cause <;> simp only [effInvocationEnd, hv, hp]

/-- The status of an invocation whose steps are done, where no debug substitution stands. -/
theorem statusWorst_of_inexact (inexact : Bool) :
    statusWorst (if inexact then [Status.inexact] else []) = (if inexact then .inexact else .ok) := by
  cases inexact <;> rfl

theorem effInvocationComplete_of_done {v : Inv} (hv : getInv b k = some v) (hdone : v.steps.all (fun r => r.done) = true)
    (hdebug : b.boot.debug = false) : effInvocationComplete k b = closeInv v (if v.inexact then .inexact else .ok) b := by
  simp only [effInvocationComplete, hv, hdone, hdebug, Bool.false_eq_true, if_true, if_false, List.append_nil, statusWorst_of_inexact]

theorem effRlCtrlWrite_of_enable {z : ZReq} {w : Word} (h : served b z (.lcs n)) (hk : z.attr = .k) (hen : fieldBit w 0 = true) :
    effRlCtrlWrite z n w b = updLcs n (fun l =>
      { l with rlEn := true, pfLines := max 1 (min 128 (fieldNat w 15 8)), holdUs := max 1 (fieldNat w 31 16) }) (zcpRsp z.inst .ok b) := by
  rw [effRlCtrlWrite, zcpDo_eq h]
  simp only [hk, hen, if_true]

theorem effSilentErrorReport_of_heard {r : RingIn} {e : RingPkt} {tag : Tag} {st : Status} {b' : Block}
    (h : ringHeard r isReport b = some (e, b')) (hm : e.msg = .silentError tag st) : effSilentErrorReport r b = addSerr tag st b' := by
  rw [effSilentErrorReport, ringArrive_eq h, hm]

end

/-- Settles O23: running plans. -/
theorem planRuns : Obligations.PlanRuns :=
  ⟨fun _ _ _ _ hh => run_eq_after (effHeldPacketExpiry_of_head hh),
   fun _ _ _ he => run_eq_settled (effStepLineProduce_of_turn he),
   fun _ _ _ _ _ _ _ hv hp hr hx hin hact hdone hlate =>
    run_eq_after (effStepInputTimeout_of_late hv hp hr hx hin hact hdone hlate),
   fun _ _ _ _ hv hp =>
    ⟨fun hout => run_eq_after ((effInvocationEnd_of_running .laneOut hv hp).trans (if_pos hout)),
     fun hdown => run_eq_after ((effInvocationEnd_of_running .pairDown hv hp).trans (if_pos hdown)),
     run_eq_after (effInvocationEnd_of_running .rowResidue hv hp),
     run_eq_after (effInvocationEnd_of_running .sorrel hv hp),
     run_eq_after (effInvocationEnd_of_running .poison hv hp),
     fun st hst => run_eq_after ((effInvocationEnd_of_running (.peer st) hv hp).trans (if_pos hst))⟩,
   fun _ _ _ hv hdone hdebug => run_eq_after (effInvocationComplete_of_done hv hdone hdebug),
   fun _ _ _ => rfl,
   fun _ _ _ _ h hk hen => run_eq_after (effRlCtrlWrite_of_enable h hk hen),
   fun _ _ _ _ _ _ h hm => run_eq_settled (effSilentErrorReport_of_heard h hm)⟩

end Sys2Proof.Proofs
end

section
/-! PROOFS. Keys: the Mint and its sweeper (R243 to R254), key messages on the package ring (R54 to R56, R255 to R260, R275), and the Service
Cipher Unit (R263 to R265). -/

namespace Sys2Proof.Proofs
open Sys2Proof Sys2Proof.Machine Sys2Proof.Laws

/-! The Mint. -/

/-- The command word of a Mint command names the row's OP. -/
theorem fieldNat_mintWord (src : Src) {op : Nat} (b : Block) (h : op < 16) : fieldNat (mintWord src op b) 3 0 = op := by
  have hclear : (~~~ (0xF : Word)).toNat % 2 ^ 4 = 0 := by decide
  have hop : op % 2 ^ 64 % 2 ^ 4 = op := by omega
  rw [fieldNat, mintWord, Nat.shiftRight_zero, BitVec.toNat_or, BitVec.toNat_and, BitVec.toNat_ofNat, Nat.or_mod_two_pow,
    Nat.and_mod_two_pow, hclear, hop, Nat.and_zero, Nat.zero_or]

/-- An access of no byte is none. -/
theorem srcAccess_of_empty (src : Src) (wr : Bool) (addr : Nat) (st : Status) (b : Block) : srcAccess src wr addr 0 st b = (st, b) := by
  have hlines : linesOf addr 0 = [] := by simp only [linesOf, if_true]
  rw [srcAccess, hlines]
  exact ite_self _

section
variable {src : Src} {b b' : Block} {op : Nat} {data d : Bytes} {rd rd' : Status} {arg budget : Word}

/-- A Mint command that is taken, with no standby to wait for, acts with its words and data and the status of their read. -/
theorem startMint_eq (h : taken .mint src 0x40 op b = some b') (hargs : mintArgs src op data rd b = (arg, budget, d, rd'))
    (halone : replicating (clearExport src
      (srcAccess src false (srcOp b' src 64).toNat (mintNeeds (mintWord src op b)) rd' b').2) = false) :
    startMint op src data rd b =
      (let r := srcAccess src false (srcOp b' src 64).toNat (mintNeeds (mintWord src op b)) rd' b'
       bodyMint src (mintWord src op b) arg budget d r.1 (clearExport src r.2)) := by
  simp only [startMint, hargs]
  rw [startCmd_eq h]
  exact mutate_of_alone _ _ halone

/-- The same for a command that takes no data. -/
theorem startMint_of_noData (h : taken .mint src 0x40 op b = some b') (hargs : mintArgs src op data rd b = (arg, budget, d, rd'))
    (hnone : mintNeeds (mintWord src op b) = 0) (halone : replicating (clearExport src b') = false) :
    startMint op src data rd b = bodyMint src (mintWord src op b) arg budget d rd' (clearExport src b') := by
  have hacc : srcAccess src false (srcOp b' src 64).toNat (mintNeeds (mintWord src op b)) rd' b' = (rd', b') := by
    rw [hnone, srcAccess_of_empty]
  rw [startMint_eq h hargs (by rw [hacc]; exact halone), hacc]

/-- A command that meets no condition of Table 9.6 acts: it makes an entry in the free place, -/
theorem bodyMint_makes {w : Word} {i : Nat} (hop : fieldNat w 3 0 = op) (hmakes : op ≠ 5 ∧ op ≠ 6) (hrd : statusFailing rd = false)
    (hchk : mintChecks b src w arg d = []) (hfree : freeKey b = some i) :
    bodyMint src w arg budget d rd b = mintMake src w arg budget d i b := by
  have hst : statusWorst [] = .ok := rfl
  simp only [bodyMint, hop, hmakes.1, hmakes.2, hrd, hchk, hfree, hst, Bool.false_eq_true, if_false, List.append_nil, ne_eq, not_true_eq_false]

/-- ends one, -/
theorem bodyMint_invalidates {w : Word} (hop : fieldNat w 3 0 = 5) (hrd : statusFailing rd = false) (hchk : mintChecks b src w arg d = []) :
    bodyMint src w arg budget d rd b = mintInvalidate src (fieldNat w 28 16) b := by
  have hst : statusWorst [] = .ok := rfl
  simp only [bodyMint, hop, hrd, hchk, hst, Bool.false_eq_true, if_false, if_true, List.append_nil, ne_eq, not_true_eq_false]

/-- or wraps one. -/
theorem bodyMint_exports {w : Word} (hop : fieldNat w 3 0 = 6) (hrd : statusFailing rd = false) (hchk : mintChecks b src w arg d = []) :
    bodyMint src w arg budget d rd b = mintExport src (fieldNat w 28 16) (fieldNat arg 25 13) b := by
  have hst : statusWorst [] = .ok := rfl
  have hne : ¬ (6 = 5) := by decide
  simp only [bodyMint, hop, hrd, hchk, hst, hne, Bool.false_eq_true, if_false, if_true, List.append_nil, ne_eq, not_true_eq_false]

end

section
variable {b : Block}

/-- The oldest command, which awaits nothing, is complete. -/
theorem effMintComplete_of_head {j : MintJob} {rest : List MintJob} (hj : b.keys.mint.jobs = j :: rest) (hwaits : j.waits = [])
    (hstore : j.store = .none) :
    effMintComplete b =
      (let r := mintDataAfter j (updMint (fun m => { m with jobs := rest }) b)
       cmdDone .mint j.src r.1 j.result j.index (if j.op = 5 ∧ statusFailing j.status = false then raisePrimary 6 r.2 else r.2)) := by
  have hfirst : takeFirst (fun (j : MintJob) => j.waits.isEmpty && j.store == .none) b.keys.mint.jobs = some (j, rest) := by
    simp only [hj, takeFirst, hwaits, hstore, List.isEmpty_nil, beq_self_eq_true, Bool.and_self, if_true]
  simp only [effMintComplete, hfirst]

theorem effRueSweepVisit_of_acts (halone : replicating b = false) (hacts : rueActs (getKey b b.keys.mint.rue) = true) :
    effRueSweepVisit b = bodyRueVisit b.keys.mint.rue (updMint (fun m => { m with rue := (m.rue + 1) % 8192 }) b) := by
  have hacts' : rueActs (getKey (updMint (fun m => { m with rue := (m.rue + 1) % 8192 }) b) b.keys.mint.rue) = true := hacts
  have halone' : replicating (updMint (fun m => { m with rue := (m.rue + 1) % 8192 }) b) = false := halone
  rw [effRueSweepVisit, if_pos hacts', mutate_of_alone _ _ halone']

end

/-- Settles O24: the Mint's commands in both forms, MINT_COMPLETE and the sweeper. -/
theorem mintCommands : Obligations.MintCommands :=
  ⟨fun s src data d rd rd' b arg budget i op hop h hargs => by
    intro r b' halone hrd hchk hfree
    have hrun : startMint op src data rd s.b = mintMake src (mintWord src op s.b) arg budget d i b' := by
      have hrow : op < 16 ∧ op ≠ 5 ∧ op ≠ 6 := by
        simp only [List.mem_cons, List.not_mem_nil, or_false] at hop
        omega
      exact (startMint_eq h hargs halone).trans (bodyMint_makes (fieldNat_mintWord src s.b hrow.1) hrow.2 hrd hchk hfree)
    simp only [List.mem_cons, List.not_mem_nil, or_false] at hop
    obtain rfl | rfl | rfl := hop
    · exact run_eq_settled hrun
    · exact run_eq_settled hrun
    · exact run_eq_settled hrun,
   fun s src _ _ _ _ _ _ h hargs halone hrd hchk hfree =>
    have hop := fieldNat_mintWord src s.b (op := 2) (by decide)
    run_eq_settled ((startMint_of_noData h hargs (by simp only [mintNeeds, hop]) halone).trans
      (bodyMint_makes hop (by decide) hrd hchk hfree)),
   fun s src _ _ _ _ _ h hargs halone hrd hchk =>
    have hop := fieldNat_mintWord src s.b (op := 5) (by decide)
    run_eq_settled ((startMint_of_noData h hargs (by simp only [mintNeeds, hop]) halone).trans (bodyMint_invalidates hop hrd hchk)),
   fun s src _ _ _ _ _ h hargs halone hrd hchk =>
    have hop := fieldNat_mintWord src s.b (op := 6) (by decide)
    run_eq_settled ((startMint_of_noData h hargs (by simp only [mintNeeds, hop]) halone).trans (bodyMint_exports hop hrd hchk)),
   fun _ _ _ hj hwaits hstore => run_eq_after (effMintComplete_of_head hj hwaits hstore),
   fun _ halone hacts => run_eq_after (effRueSweepVisit_of_acts halone hacts)⟩

/-! Key messages on the package ring. -/

/-- A message of a kind that stands first on the ring and passes the seal check acts, the SEQ of its source kept. -/
theorem ringArrive_msg {r : RingIn} {p : RingMsg → Bool} {f : RingMsg → Block → Block} {b : Block} {e : RingPkt} {rest : List RingPkt} {m : RingMsg}
    (h : b.ring = e :: rest) (hd : e.dst = r.inst) (hw : (ringWay b e.src e.dst).isSome = true) (hg : ringGood b r.inst r.data = true)
    (hl : r.data.length = ringParts e.msg) (hm : e.msg = m) (hp : p m = true) :
    ringArrive r p f b = f m (updInst r.inst (fun s => { s with prRx := r.data, ringRx := ringSeen s.ringRx r.data }) { b with ring := rest }) := by
  subst hm
  exact ringArrive_head h hd hp hw hg hl

/-- A transfer whose SEQ is not above the last one accepted from its source fails the seal check. -/
theorem ringGood_of_old {b : Block} {i : Nat} {d : Bytes} {rest : List Bytes}
    (h : leNat ((d.drop 4).take 8) ≤ Sparse.get 0 (getInst b i).ringRx (d.headD 0).toNat) : ringGood b i (d :: rest) = false := by
  have hold : ∀ key, ringOpens key (getInst b i).ringRx (d :: rest) = false := fun key => by
    rw [ringOpens, decide_eq_false (Nat.not_lt.mpr h), Bool.and_false, Bool.false_and, Bool.false_and]
  cases hk : (getInst b i).ringKey with
  | none => simp only [ringGood, hk]
  | some key => simp only [ringGood, hk, hold, Bool.and_false]

/-- Settles O25: key messages, broken hops and the seal check. -/
theorem ringMessages : Obligations.RingMessages :=
  ⟨fun s r e rest h hd hw hg hl => by
    have hact : ∀ {p f m}, e.msg = m → p m = true → ringArrive r p f s.b = f m
        (updInst r.inst (fun s => { s with prRx := r.data, ringRx := ringSeen s.ringRx r.data }) { s.b with ring := rest }) :=
      fun hm hp => ringArrive_msg h hd hw hg hl hm hp
    exact
      ⟨fun _ hm => run_eq_settled (hact hm rfl),
       fun _ _ hm huse hlive => run_eq_settled ((hact hm rfl).trans (if_pos (Bool.and_eq_true_iff.mpr ⟨huse, by rw [Bool.not_eq_true']; exact hlive⟩))),
       fun _ _ hm huse => run_eq_settled ((hact hm rfl).trans (if_neg (by
        rw [Bool.and_eq_true]
        exact fun hgood => Bool.false_ne_true (huse.symm.trans hgood.1)))),
       fun _ hm => run_eq_settled (hact hm rfl),
       fun _ _ _ _ hm => run_eq_settled (hact hm rfl),
       fun _ _ hm => run_eq_settled (hact hm rfl),
       fun _ _ hm => run_eq_settled (hact hm rfl),
       fun _ _ hm huse hbudget => run_eq_settled ((hact hm rfl).trans ((if_neg (by
        rw [Bool.not_eq_true']
        exact fun hbad => Bool.false_ne_true (hbad.symm.trans huse))).trans (if_neg (fun hempty => hbudget hempty.1)))),
       fun _ _ hm huse hbudget hholders => run_eq_settled ((hact hm rfl).trans ((if_neg (by
        rw [Bool.not_eq_true']
        exact fun hbad => Bool.false_ne_true (hbad.symm.trans huse))).trans (if_pos ⟨hbudget, hholders⟩))),
       fun _ _ hm => run_eq_settled (hact hm rfl),
       fun _ hm => run_eq_settled (hact hm rfl),
       fun _ _ _ _ hm => run_eq_settled (hact hm rfl),
       fun hm => run_eq_settled (hact hm rfl)⟩,
   fun _ _ _ _ _ h hd hw hg hm => run_eq_settled (ringArrive_bad h hd (by rw [hm]) hw hg),
   fun _ _ _ hbuilt => run_eq_after (if_pos hbuilt),
   fun _ _ _ => rfl,
   fun _ _ _ _ _ _ _ hk hs hq hr => ringGood_sealed hk hs hq hr,
   fun _ _ _ _ h => ringGood_of_old h⟩

/-! The Service Cipher Unit. -/

section
variable {z : ZReq} {b : Block} {j : ScuJob}

/-- Each SCU_CMD runs its operation of Table 9.9. -/
theorem exec_scuCmd {w : Word} {e : Instr × Nat}
    (h : e ∈ [(Instr.scuAes256Encrypt z w, 0x01), (.scuAes256Decrypt z w, 0x02), (.scuAes128Encrypt z w, 0x03), (.scuAes128Decrypt z w, 0x04),
      (.scuSha384 z w, 0x08), (.scuKmac256 z w, 0x09), (.scuMlkemKeygen z w, 0x10), (.scuMlkemEncaps z w, 0x11), (.scuMlkemDecaps z w, 0x12),
      (.scuMldsaKeygen z w, 0x18), (.scuMldsaSign z w, 0x19), (.scuMldsaVerify z w, 0x1A), (.scuEcdsaKeygen z w, 0x20),
      (.scuEcdsaSign z w, 0x21), (.scuEcdsaVerify z w, 0x22)]) (s : State) : exec e.1 s = run (scuCmd e.2 z w) s := by
  simp only [List.mem_cons, List.not_mem_nil, or_false] at h
  obtain rfl | rfl | rfl | rfl | rfl | rfl | rfl | rfl | rfl | rfl | rfl | rfl | rfl | rfl | rfl := h <;> rfl

theorem scuCmd_of_idle {op : Nat} {w : Word} (h : served b z (.scu z.tag.toNat)) (hidle : (getScu b z.tag.toNat).busy = false)
    (hchk : scuChecks (zcpRsp z.inst .ok b) z.tag.toNat op w (getScu b z.tag.toNat).arg = []) :
    scuCmd op z w b = scuStart z.tag.toNat op w (zcpRsp z.inst .ok b) := by
  have hidle' : (getScu (zcpRsp z.inst .ok b) z.tag.toNat).busy = false := hidle
  have hchk' : scuChecks (zcpRsp z.inst .ok b) z.tag.toNat op w (getScu (zcpRsp z.inst .ok b) z.tag.toNat).arg = [] := hchk
  have hst : statusWorst [] = .ok := rfl
  simp only [scuCmd, zcpDo_eq h, hidle', scuBegin, hchk', hst, Bool.false_eq_true, ne_eq, not_true_eq_false, if_false]

theorem effScuAbort_of_busy (h : served b z (.scu z.tag.toNat)) (hbusy : (getScu b z.tag.toNat).busy = true) :
    effScuAbort z b = scuEnd z.tag.toNat .aborted (zcpRsp z.inst .ok b) :=
  (zcpDo_eq h).trans (if_pos hbusy)

theorem effScuXferIn_of_wanted {len : BitVec 12} (h : served b z (.scu z.tag.toNat)) (hj : (getScu b z.tag.toNat).job = some j)
    (hwant : (getScu b z.tag.toNat).wantIn = true) (hlow : 1 ≤ len.toNat) (hhigh : len.toNat ≤ 2048) :
    effScuXferIn z len b =
      (let got := (j.got ++ winBytes (getScu b z.tag.toNat) len.toNat).take j.need
       updScu z.tag.toNat (fun p => { p with wantIn := decide (got.length < j.need), job := some { j with got := got } }) (zcpRsp z.inst .ok b)) := by
  have hj' : (getScu (zcpRsp z.inst .ok b) z.tag.toNat).job = some j := hj
  have hwant' : (getScu (zcpRsp z.inst .ok b) z.tag.toNat).wantIn = true := hwant
  have hlen : decide (1 ≤ len.toNat ∧ len.toNat ≤ 2048) = true := decide_eq_true ⟨hlow, hhigh⟩
  rw [effScuXferIn, zcpDo_eq h]
  simp only [hj', hwant', hlen, Bool.and_self, if_true]
  rfl

theorem effScuXferOut_of_offered (h : served b z (.scu z.tag.toNat)) (hj : (getScu b z.tag.toNat).job = some j)
    (havail : (getScu b z.tag.toNat).outAvail = true) :
    effScuXferOut z b =
      (let b := zcpRsp z.inst .ok b
       if (j.out.drop 2048).isEmpty then scuEnd z.tag.toNat (getScu b z.tag.toNat).status b
       else updScu z.tag.toNat (scuOffer { j with out := j.out.drop 2048 }) b) := by
  have hj' : (getScu (zcpRsp z.inst .ok b) z.tag.toNat).job = some j := hj
  have havail' : (getScu (zcpRsp z.inst .ok b) z.tag.toNat).outAvail = true := havail
  rw [effScuXferOut, zcpDo_eq h]
  simp only [hj', havail', if_true]

variable {p : Nat} {out : Bytes}

theorem scuReady_of_complete (hfin : j.fin = false) (hsent : j.sent = false) (hneed : j.need ≤ j.got.length) : scuReady j = true := by
  simp only [scuReady, hfin, hsent, decide_eq_true hneed, Bool.not_false, Bool.and_self]

/-- An operation whose turn has come computes, through the standby where it makes an entry. -/
theorem effScuOpComplete_of_turn {h : Head} {a : Arb} (hj : (getScu b p).job = some j) (hready : scuReady j = true)
    (hpick : arbPick (scuHeads b) b.cm.drr (Sparse.get {} b.cm.arb 1) = some (h, a)) (hwho : h.who = 300 + p) :
    effScuOpComplete p b =
      (let b := { b with cm := { b.cm with arb := Sparse.set {} b.cm.arb 1 a } }
       if (scuMakes j.op).isSome then mutate (.scuOp p) (bodyScuOp p) (updScu p (fun s => { s with job := some { j with sent := true } }) b)
       else bodyScuOp p b) := by
  simp only [effScuOpComplete, hj, hready, arbStart, hpick, hwho, if_true]

/-- An operation looks at the block's draw only. -/
theorem scuCompute_congr (b b' : Block) (j : ScuJob) (h : b.freeCtr = b'.freeCtr) : scuCompute b j = scuCompute b' j := by
  simp only [scuCompute, h]

/-- An operation that makes no entry offers its output. -/
theorem bodyScuOp_plain (hj : (getScu b p).job = some j) (hmakes : scuMakes j.op = none) (hout : scuCompute b j = (.ok, out)) :
    bodyScuOp p b =
      (let b := if scuRandom j.op then (fresh b).2 else b
       updScu p (fun s => scuOffer { j with out := out, fin := true } { s with status := substOk b .ok }) b) := by
  simp only [bodyScuOp, hj, hout, hmakes, ne_eq, not_true_eq_false, if_false]

/-- A key generation makes its entry under index 0 and offers its output. -/
theorem bodyScuOp_makes {i ty : Nat} {use : BitVec 8} (hj : (getScu b p).job = some j) (hmakes : scuMakes j.op = some (ty, use))
    (hout : scuCompute b j = (.ok, out)) (hrandom : scuRandom j.op = true) (hfree : freeKey (fresh b).2 = some i) :
    bodyScuOp p b =
      (let b := (fresh b).2
       let e : KEntry := { type := ty, depth := (getKey b 0).depth + 1, usage := use, owner := j.ctx, parent := 0, budget := unlimited, key := j.mat }
       let b := newRef tyKey i (writeKey i e b)
       updScu p (fun s => scuOffer { j with out := out, fin := true } { s with status := substOk b .ok, newIdx := i }) b) := by
  simp only [bodyScuOp, hj, hout, hmakes, hrandom, hfree, ne_eq, not_true_eq_false, if_true, if_false]

/-- The turn of an operation that makes no entry. -/
theorem effScuOpComplete_plain {h : Head} {a : Arb} (hj : (getScu b p).job = some j) (hready : scuReady j = true)
    (hpick : arbPick (scuHeads b) b.cm.drr (Sparse.get {} b.cm.arb 1) = some (h, a)) (hwho : h.who = 300 + p)
    (hmakes : scuMakes j.op = none) (hout : scuCompute b j = (.ok, out)) :
    effScuOpComplete p b =
      (let b := { b with cm := { b.cm with arb := Sparse.set {} b.cm.arb 1 a } }
       let b := if scuRandom j.op then (fresh b).2 else b
       updScu p (fun s => scuOffer { j with out := out, fin := true } { s with status := substOk b .ok }) b) := by
  have hout' : scuCompute { b with cm := { b.cm with arb := Sparse.set {} b.cm.arb 1 a } } j = (.ok, out) :=
    (scuCompute_congr { b with cm := { b.cm with arb := Sparse.set {} b.cm.arb 1 a } } b j rfl).trans hout
  have hj' : (getScu { b with cm := { b.cm with arb := Sparse.set {} b.cm.arb 1 a } } p).job = some j := hj
  rw [effScuOpComplete_of_turn hj hready hpick hwho]
  simp only [hmakes, Option.isSome_none, Bool.false_eq_true, if_false]
  exact bodyScuOp_plain hj' hmakes hout'

/-- The turn of a key generation, with no standby to wait for. -/
theorem effScuOpComplete_makes {h : Head} {a : Arb} {ty : Nat} {use : BitVec 8} (halone : replicating b = false)
    (hj : (getScu b p).job = some j) (hready : scuReady j = true)
    (hpick : arbPick (scuHeads b) b.cm.drr (Sparse.get {} b.cm.arb 1) = some (h, a)) (hwho : h.who = 300 + p)
    (hmakes : scuMakes j.op = some (ty, use)) :
    effScuOpComplete p b = bodyScuOp p (updScu p (fun s => { s with job := some { j with sent := true } })
      { b with cm := { b.cm with arb := Sparse.set {} b.cm.arb 1 a } }) := by
  rw [effScuOpComplete_of_turn hj hready hpick hwho]
  simp only [hmakes, Option.isSome_some, if_true]
  exact mutate_of_alone _ _ halone

end

/-- Settles O26: the Service Cipher Unit. -/
theorem cipherUnit : Obligations.CipherUnit :=
  ⟨fun s _ _ _ he h hidle hchk => (exec_scuCmd he s).trans (run_eq_after (scuCmd_of_idle h hidle hchk)),
   fun _ _ h hbusy => run_eq_after (effScuAbort_of_busy h hbusy),
   fun _ _ _ _ h hj hwant hlow hhigh => run_eq_after (effScuXferIn_of_wanted h hj hwant hlow hhigh),
   fun _ _ _ h hj havail => run_eq_after (effScuXferOut_of_offered h hj havail),
   fun _ _ _ _ _ _ hj hfin hsent hneed hpick hwho hmakes hout =>
    run_eq_after (effScuOpComplete_plain hj (scuReady_of_complete hfin hsent hneed) hpick hwho hmakes hout),
   fun s p i j out ty use h a halone hj hfin hsent hneed hpick hwho hmakes => by
    intro b hj' hout hfree hrandom
    have hbody := bodyScuOp_makes (b := b) (p := p) (i := i) (use := use) hj' hmakes hout hrandom hfree
    exact run_eq_settled ((effScuOpComplete_makes halone hj (scuReady_of_complete hfin hsent hneed) hpick hwho hmakes).trans hbody)⟩

end Sys2Proof.Proofs
end

section
/-! PROOFS. The Sealed Store (R58, R59, R271 to R273), the host link (R47 to R50, R57, R62, R69), and the boot's fuses and images (R60, R61,
R366 to R382). -/

namespace Sys2Proof.Proofs
open Sys2Proof Sys2Proof.Machine Sys2Proof.Laws

/-! The Sealed Store. -/

/-- The phases in which an update has a flash command out. -/
def storeUpdating (ph : StorePhase) : Prop :=
  ph = .record ∨ ph = .recordRead ∨ ph = .recordErase ∨ (∃ k, ph = .erasing k) ∨ (∃ k, ph = .programming k) ∨ (∃ k, ph = .readback k)

section
variable {b : Block}

theorem flReq_isNone_eq_false (h : b.keys.store.flReq ≠ none) : b.keys.store.flReq.isNone = false := by
  rwa [Option.isNone_eq_false_iff, Option.isSome_iff_ne_none]

/-- A flash failure in an update ends the update. -/
theorem flashFail_of_updating (h : storeUpdating b.keys.store.phase) : flashFail b = storeFail .timeout b := by
  rcases h with h | h | h | ⟨k, h⟩ | ⟨k, h⟩ | ⟨k, h⟩ <;> simp only [flashFail, h]

theorem effFlRsp_of_updating (data : Bytes) (hreq : b.keys.store.flReq ≠ none) (h : storeUpdating b.keys.store.phase) :
    effFlRsp data 0 b = storeNext data b := by
  rcases h with h | h | h | ⟨k, h⟩ | ⟨k, h⟩ | ⟨k, h⟩ <;>
    simp only [effFlRsp, flReq_isNone_eq_false hreq, h, ne_eq, not_true_eq_false, Bool.false_eq_true, if_false]

theorem effFlRsp_of_error {err : BitVec 2} (data : Bytes) (hreq : b.keys.store.flReq ≠ none) (herr : err ≠ 0) :
    effFlRsp data err b = flashFail b := by
  simp only [effFlRsp, flReq_isNone_eq_false hreq, herr, ne_eq, not_false_eq_true, Bool.false_eq_true, if_false, if_true]

theorem effFlashTimeout_of_late (hreq : b.keys.store.flReq ≠ none) : effFlashTimeout b = flashFail b := by
  simp only [effFlashTimeout, flReq_isNone_eq_false hreq, Bool.false_eq_true, if_false]

/-- What is read back of the commit record decides. -/
theorem storeNext_recordRead (data : Bytes) (h : b.keys.store.phase = .recordRead) :
    storeNext data b = if data = storeRec b then storeCommit b else storeFail .timeout b := by
  simp only [storeNext, h]

theorem effFlRsp_of_search {data : Bytes} {c : FlCmd} {k : Nat} (hreq : b.keys.store.flReq = some c) (h : b.keys.store.phase = .search k) :
    effFlRsp data 0 b =
      (let b := updStore (fun s => { s with got := s.got ++ (data ++ List.replicate c.len 0).take c.len }) b
       if k < 31 then storeDrive (.search (k + 1)) (flRead (256 * (k + 1)) 256) b else storeChoose b) := by
  simp only [effFlRsp, searchStep, hreq, h, Option.isNone_some, ne_eq, not_true_eq_false, Bool.false_eq_true, if_false]

/-- The record tried is taken where its image verifies. -/
theorem storeTry_of_head {n : Nat} {r : Bytes} {t : List (Nat × Bytes)} (h : b.keys.store.cands = (n, r) :: t) :
    storeTry b =
      if imageGood (getKey b 1).key r b.keys.store.got then
        storeOpened (some (imageText (getKey b 1).key r b.keys.store.got))
          (updStore (fun s => { s with slot := recSlot r, seq := BitVec.ofNat 64 (recSeq r) }) b)
      else storeFetch 0 (updStore (fun s => { s with cands := t, got := [] }) b) := by
  simp only [storeTry, h]

end

/-- Settles O27: the Sealed Store. -/
theorem sealedStore : Obligations.SealedStore :=
  ⟨fun _ h => run_eq_after (if_pos h),
   fun _ data hreq h =>
    ⟨run_eq_after (effFlRsp_of_updating data hreq h),
     fun _ herr => run_eq_after ((effFlRsp_of_error data hreq herr).trans (flashFail_of_updating h)),
     run_eq_after ((effFlashTimeout_of_late hreq).trans (flashFail_of_updating h))⟩,
   fun _ data h => ⟨fun heq => (storeNext_recordRead data h).trans (if_pos heq), fun hne => (storeNext_recordRead data h).trans (if_neg hne)⟩,
   fun _ _ _ _ hreq h => run_eq_settled (effFlRsp_of_search hreq h),
   fun _ _ _ _ h => ⟨fun hgood => (storeTry_of_head h).trans (if_pos hgood),
    fun hbad => (storeTry_of_head h).trans (if_neg (by rw [hbad]; exact Bool.false_ne_true))⟩⟩

/-! The host link. -/

section
variable {b : Block} {r : SpdmReq}

/-- A key-management request in a secured session over DOE goes to the engine. -/
theorem ideRequest_of_session (c : HkCmd) (hup : mailUp b = true) (htr : r.tr = .doe) (hsess : (tenantSess b r).isSome = true) :
    ideRequest r c b = hkPush c b := by
  have hsome : (tenantSess b r).isNone = false := Option.isNone_eq_false_iff.mpr hsess
  simp only [ideRequest, hup, htr, hsome, bne_self_eq_false, Bool.not_true, Bool.or_self, Bool.false_eq_true, if_false]

/-- Eight streams, or one of those programmed. -/
theorem effIdeKeyProg_of_room (stream : BitVec 8) (sub : BitVec 2) (dir kset : Bool) (key : Key) (ifv : BitVec 64)
    (hroom : (ideStreams b.trust.ide).contains stream = true ∨ (ideStreams b.trust.ide).length < 8) :
    effIdeKeyProg r stream sub dir kset key ifv b =
      ideRequest r { op := 0, stream := stream, sub := sub, dir := dir, kset := kset, key := key, ifv := ifv } b := by
  have hfits : (!(ideStreams b.trust.ide).contains stream && decide (8 ≤ (ideStreams b.trust.ide).length)) = false := by
    rcases hroom with h | h
    · rw [h, Bool.not_true, Bool.false_and]
    · rw [decide_eq_false (Nat.not_le.mpr h), Bool.and_false]
  simp only [effIdeKeyProg, Bool.and_assoc, hfits, Bool.and_false, Bool.false_eq_true, if_false]

theorem effHkReadyAccept_of_driven {c : HkCmd} (h : b.trust.ide.drive = some c) :
    effHkReadyAccept b = updIde (fun i => { i with drive := none, ack := some { c with key := 0 } }) b := by
  simp only [effHkReadyAccept, h]

theorem effHkAck_of_awaited {c : HkCmd} (err : Bool) (h : b.trust.ide.ack = some c) :
    effHkAck err b =
      if err then ideFail c 14 b
      else hkDrive (ideAnswer c true (updIde (fun i => { i with ack := none, streams := ideApply c i.streams }) b)) := by
  simp only [effHkAck, h]

theorem effHkAckTimeout_of_awaited {c : HkCmd} (h : b.trust.ide.ack = some c) : effHkAckTimeout b = ideFail c 15 b := by
  simp only [effHkAckTimeout, h]

theorem effMgPacket_of_mctp {i : Nat} {type : BitVec 8} {beats : List MgBeat} (hprim : primaryInst b = some i)
    (hrel : (getInst b i).released = true) (hframed : mgFramed beats = true) (hlen : (mgBytes beats).length ≤ 256)
    (htype : type ∈ [0x00, 0x05, 0x06]) :
    effMgPacket type beats b = { b with trust := { b.trust with mgLast := some (type.toNat, mgBytes beats) } } := by
  have htype' : type = 0x00 ∨ type = 0x05 ∨ type = 0x06 := by simpa using htype
  simp only [effMgPacket, hprim, hrel, Bool.not_true, Bool.false_eq_true, if_false]
  exact if_pos ⟨hframed, hlen, htype'⟩

/-- A tick at a built die whose interpolated time has not gone back is judged by its bounds. -/
theorem effTmTick_of_built {i : Nat} {time interp : BitVec 64} (hpin : b.boot.hard = false) (hbuilt : (getInst b i).built = true)
    (hlater : b.time.toNat ≤ interp.toNat) :
    effTmTick i time interp b =
      if time.toNat + 20 < interp.toNat ∨ interp.toNat + 1000 < time.toNat then
        raise i 13 (portError { inst := i } 10 { b with time := interp })
      else { b with time := time } := by
  simp only [effTmTick, hpin, hbuilt, decide_eq_false (Nat.not_lt.mpr hlater), Bool.not_true, Bool.or_self, Bool.false_eq_true, if_false]

end

/-- Settles O28: host link keys, management packets and Thyme's tick. -/
theorem hostLink : Obligations.HostLink :=
  ⟨fun _ _ stream sub dir kset key ifv hup htr hsess =>
    ⟨fun hroom => run_eq_after ((effIdeKeyProg_of_room stream sub dir kset key ifv hroom).trans (ideRequest_of_session _ hup htr hsess)),
     run_eq_after (ideRequest_of_session _ hup htr hsess),
     run_eq_after (ideRequest_of_session _ hup htr hsess)⟩,
   fun _ _ h => run_eq_after (effHkReadyAccept_of_driven h),
   fun _ _ h =>
    ⟨run_eq_after (effHkAck_of_awaited false h), run_eq_after (effHkAck_of_awaited true h), run_eq_after (effHkAckTimeout_of_awaited h)⟩,
   fun _ _ _ _ hprim hrel hframed hlen htype => run_eq_after (effMgPacket_of_mctp hprim hrel hframed hlen htype),
   fun _ _ _ _ hpin hbuilt hlater =>
    ⟨fun hearly hlate => run_eq_after ((effTmTick_of_built hpin hbuilt hlater).trans (if_neg (by omega))),
     fun hout => run_eq_after ((effTmTick_of_built hpin hbuilt hlater).trans (if_pos hout))⟩⟩

/-! Fuses and instances at boot. -/

section
variable {i : Nat} {b : Block}

theorem effOtGnt_rises {level : Bool} (hpin : b.boot.hard = false) (hstep : 2 ≤ b.boot.step) (hbuilt : (getInst b i).built = true)
    (hprim : (getInst b i).primary = true) (hgood : (getInst b i).ao.good = true) (hlevel : level = true) :
    effOtGnt i level b =
      (let b := updOtp (fun o => { o with gnt := some i }) b
       if b.boot.master.isNone then
         let b := updInst i (fun s => { s with role := .pp, ao := { s.ao with armed := true } }) b
         updOtp (fun o => { o with job := some (.sense 0), own := true }) (updBoot (fun x => { x with master := some i }) b)
       else if b.boot.master = some i then b
       else updOtp (fun o => { o with sense2 := if o.second then none else some (o.sense2.getD 0) }) b) := by
  simp only [effOtGnt, hpin, hbuilt, hprim, hgood, hlevel, decide_eq_false (Nat.not_lt.mpr hstep), Bool.and_self, Bool.not_true, Bool.or_self,
    Bool.false_eq_true, if_true, if_false]

/-- The first grant names the boot master. -/
theorem effOtGnt_first (hpin : b.boot.hard = false) (hstep : 2 ≤ b.boot.step) (hbuilt : (getInst b i).built = true)
    (hprim : (getInst b i).primary = true) (hgood : (getInst b i).ao.good = true) (hmaster : b.boot.master = none) :
    effOtGnt i true b =
      (let b := updInst i (fun s => { s with role := .pp, ao := { s.ao with armed := true } }) (updOtp (fun o => { o with gnt := some i }) b)
       updOtp (fun o => { o with job := some (.sense 0), own := true }) (updBoot (fun x => { x with master := some i }) b)) := by
  have hnone : (updOtp (fun o => { o with gnt := some i }) b).boot.master.isNone = true := by
    rw [show (updOtp (fun o => { o with gnt := some i }) b).boot.master = none from hmaster]
    rfl
  rw [effOtGnt_rises hpin hstep hbuilt hprim hgood rfl]
  exact if_pos hnone

/-- The other primary-capable die senses in its turn. -/
theorem effOtGnt_second {m : Nat} (hpin : b.boot.hard = false) (hstep : 2 ≤ b.boot.step) (hbuilt : (getInst b i).built = true)
    (hprim : (getInst b i).primary = true) (hgood : (getInst b i).ao.good = true) (hmaster : b.boot.master = some m) (hne : m ≠ i)
    (hsecond : b.otp.second = false) :
    effOtGnt i true b = updOtp (fun o => { o with gnt := some i, sense2 := some (o.sense2.getD 0) }) b := by
  have hother : ¬ (some m = some i) := fun h => hne (Option.some.inj h)
  rw [effOtGnt_rises hpin hstep hbuilt hprim hgood rfl]
  simp only [updOtp, hmaster, hother, hsecond, Option.isNone_some, Bool.false_eq_true, if_false]

/-- A grant that falls between requests is taken back. -/
theorem effOtGnt_falls (hpin : b.boot.hard = false) (hstep : 2 ≤ b.boot.step) (hbuilt : (getInst b i).built = true)
    (hprim : (getInst b i).primary = true) (hgood : (getInst b i).ao.good = true) (hgnt : b.otp.gnt = some i) (hidle : otpActive b = false)
    (hjob : b.otp.job = none) : effOtGnt i false b = updOtp (fun o => { o with gnt := none, job := none }) b := by
  simp only [effOtGnt, updOtp, hpin, hbuilt, hprim, hgood, hgnt, hidle, hjob, decide_eq_false (Nat.not_lt.mpr hstep), Bool.and_self, Bool.not_true,
    Bool.or_self, Bool.false_and, Bool.false_eq_true, if_true, if_false]

variable {data : BitVec 32}

theorem effOtRsp_sense {k : Nat} (hact : otpActive b = true) (hjob : b.otp.job = some (.sense k)) :
    effOtRsp data false b =
      if k < 511 then updOtp (fun o => { o with job := some (.sense (k + 1)) }) (setOtpWord k data b) else sensed (setOtpWord k data b) := by
  simp only [effOtRsp, hact, hjob, Bool.not_true, Bool.false_eq_true, if_false]

theorem effOtRsp_second {k : Nat} (hidle : otpActive b = false) (hgnt : b.otp.gnt = some i) (hsense : b.otp.sense2 = some k) :
    effOtRsp data false b =
      updOtp (fun o => if 511 ≤ k then { o with second := true, sense2 := none } else { o with sense2 := some (k + 1) }) b := by
  simp only [effOtRsp, secondSense, hidle, hgnt, hsense, Bool.not_false, if_true, Bool.false_eq_true, false_or]

variable {w v : Nat} {again : Bool}

theorem effOtRsp_programmed (hact : otpActive b = true) (hjob : b.otp.job = some (.prog w v again false)) :
    effOtRsp data false b = updOtp (fun o => { o with job := some (.prog w v again true) }) b := by
  simp only [effOtRsp, hact, hjob, Bool.not_true, Bool.false_eq_true, if_false]

/-- A word read back: right, programmed once more, or failed. -/
theorem effOtRsp_readBack (hact : otpActive b = true) (hjob : b.otp.job = some (.prog w v again true)) :
    effOtRsp data false b =
      if data = otpExpect b w v then updOtp (fun o => { o with job := none }) (setOtpWord w data b)
      else if again then otpFail (setOtpWord w data b)
      else updOtp (fun o => { o with job := some (.prog w v true false) }) b := by
  simp only [effOtRsp, hact, hjob, Bool.not_true, Bool.false_eq_true, if_false]

theorem effOtRsp_error (hact : otpActive b = true) (hjob : b.otp.job ≠ none) : effOtRsp data true b = otpFail b := by
  match h : b.otp.job with
  | none => exact absurd h hjob
  | some (.sense k) => simp only [effOtRsp, hact, h, Bool.not_true, Bool.false_eq_true, if_false, if_true]
  | some (.prog w v again false) => simp only [effOtRsp, hact, h, Bool.not_true, Bool.false_eq_true, if_false, if_true]
  | some (.prog w v again true) => simp only [effOtRsp, hact, h, Bool.not_true, Bool.false_eq_true, if_false, if_true]

theorem effOtRspTimeout_of_late (hact : otpActive b = true) (hjob : b.otp.job ≠ none) : effOtRspTimeout b = otpFail b := by
  simp only [effOtRspTimeout, hact, Option.isSome_iff_ne_none.mpr hjob, if_true]

variable {num role : Nat} {key : Key}

theorem effKeyload_first (hbuilt : (getInst b i).built = true) (hgood : (getInst b i).ao.good = true) (hpin : b.boot.hard = false)
    (hrel : (getInst b i).released = false) (hstep : b.boot.step = 7) (hhalt : b.boot.halted = false) (hkey : (getInst b i).ringKey = none)
    (hnum : num = i) (hlay : (layInst b i).isSome = true) :
    effKeyload i num role key b = ringSend (b.boot.master.getD i) i .layout (updInst i (fun s =>
      { s with ringKey := some key, num := num, role := roleOf role, ao := { s.ao with armed := roleOf role == .sp } }) b) := by
  simp only [effKeyload, hbuilt, hgood, hpin, hrel, hstep, hhalt, hkey, hnum, hlay, Option.isSome_none, Bool.not_true, Bool.or_self,
    Bool.false_eq_true, false_and, or_self, and_self, if_true, if_false]

theorem effKeyload_again (hbuilt : (getInst b i).built = true) (hgood : (getInst b i).ao.good = true) (hpin : b.boot.hard = false)
    (hagain : (getInst b i).released = true ∨ ((getInst b i).ringKey.isSome = true ∧ num = i)) :
    effKeyload i num role key b = sealFail i b := by
  simp only [effKeyload, hbuilt, hgood, hpin, hagain, Bool.not_true, Bool.or_self, Bool.false_eq_true, if_true, if_false]

theorem effKeyload_other (hbuilt : (getInst b i).built = true) (hgood : (getInst b i).ao.good = true) (hpin : b.boot.hard = false)
    (hrel : (getInst b i).released = false) (hnum : num ≠ i) : effKeyload i num role key b = b := by
  simp only [effKeyload, hbuilt, hgood, hpin, hrel, hnum, Bool.not_true, Bool.or_self, Bool.false_eq_true, and_false, false_and, or_self, if_false]

theorem effLayoutAckTimeout_of_silent (hstep : b.boot.step = 7) (hhalt : b.boot.halted = false) (hlay : (layInst b i).isSome = true)
    (hmaster : b.boot.master ≠ some i) (hack : b.boot.acks.contains i = false) :
    effLayoutAckTimeout i b = ringCheck (updBoot (fun x => { x with west := true }) (dropInst i b)) := by
  simp only [effLayoutAckTimeout, hstep, hhalt, hlay, bne_iff_ne.mpr hmaster, hack, decide_true, Bool.not_false, Bool.and_self, if_true]

end

/-- LAYOUT that passes its seal check: the die takes its sections and acknowledges. -/
theorem effLayout_of_good {b : Block} {r : RingIn} {e : RingPkt} {rest : List RingPkt} {m : Nat} (h : b.ring = e :: rest) (hd : e.dst = r.inst)
    (hm : e.msg = .layout) (hw : (ringWay b e.src e.dst).isSome = true) (hmaster : b.boot.master = some m)
    (hg : ringGood b r.inst r.data = true) (hl : r.data.length = ringParts .layout) :
    effLayout r b = ringSend r.inst m (.layoutAck r.inst) (takeLayout r.inst
      (updInst r.inst (fun s => { s with prRx := r.data, ringRx := ringSeen s.ringRx r.data }) { b with ring := rest })) := by
  have hmaster' : (updInst r.inst (fun s => { s with prRx := r.data, ringRx := ringSeen s.ringRx r.data }) { b with ring := rest }).boot.master
      = some m := hmaster
  rw [effLayout, ringArrive_msg h hd hw hg (hm ▸ hl) hm rfl]
  simp only [hmaster']

/-- LAYOUT_ACK at the boot master in step 7, of a die that does not count as absent. -/
theorem effLayoutAck_of_good {b : Block} {i m : Nat} {data : List Bytes} {e : RingPkt} {rest : List RingPkt} (h : b.ring = e :: rest)
    (hd : e.dst = m) (hm : e.msg = .layoutAck i) (hw : (ringWay b e.src e.dst).isSome = true) (hg : ringGood b m data = true)
    (hl : data.length = ringParts (.layoutAck i)) (hmaster : b.boot.master = some m) (hstep : b.boot.step = 7)
    (habsent : b.boot.absent.contains i = false) :
    effLayoutAck i data b = ringCheck (updBoot (fun x => { x with acks := x.acks ++ [i] })
      (updInst m (fun s => { s with prRx := data, ringRx := ringSeen s.ringRx data }) { b with ring := rest })) := by
  simp only [effLayoutAck, hmaster]
  rw [ringArrive_msg (r := { inst := m, data := data }) (p := fun x => x == .layoutAck i) h hd hw hg (hm ▸ hl) hm (beq_self_eq_true _)]
  exact if_pos ⟨hstep, habsent⟩

/-- Settles O29: fuses and instances at boot. -/
theorem bootFuses : Obligations.BootFuses :=
  ⟨fun _ _ hpin hstep hbuilt hprim hgood hmaster => run_eq_after (effOtGnt_first hpin hstep hbuilt hprim hgood hmaster),
   fun _ _ _ hpin hstep hbuilt hprim hgood hmaster hne hsecond =>
    run_eq_after (effOtGnt_second hpin hstep hbuilt hprim hgood hmaster hne hsecond),
   fun _ _ hpin hstep hbuilt hprim hgood hgnt hidle hjob => run_eq_after (effOtGnt_falls hpin hstep hbuilt hprim hgood hgnt hidle hjob),
   fun _ _ _ hact hjob => run_eq_after (effOtRsp_sense hact hjob),
   fun _ _ _ _ hidle hgnt hsense => run_eq_after (effOtRsp_second hidle hgnt hsense),
   fun _ _ _ _ _ hact =>
    ⟨fun hjob => run_eq_after (effOtRsp_programmed hact hjob),
     fun hjob hright => run_eq_after ((effOtRsp_readBack hact hjob).trans (if_pos hright)),
     fun hjob hwrong => run_eq_after ((effOtRsp_readBack hact hjob).trans (if_neg hwrong))⟩,
   fun _ _ hact hjob => ⟨run_eq_after (effOtRsp_error hact hjob), run_eq_after (effOtRspTimeout_of_late hact hjob)⟩,
   fun _ _ _ _ _ hbuilt hgood hpin =>
    ⟨fun hrel hstep hhalt hkey hnum hlay => run_eq_after (effKeyload_first hbuilt hgood hpin hrel hstep hhalt hkey hnum hlay),
     fun hagain => run_eq_after (effKeyload_again hbuilt hgood hpin hagain),
     fun hrel hnum => run_eq_after (effKeyload_other hbuilt hgood hpin hrel hnum)⟩,
   fun _ _ _ _ _ h hd hm hw hmaster =>
    ⟨fun hg hl => run_eq_after (effLayout_of_good h hd hm hw hmaster hg hl),
     fun hg => run_eq_after (ringArrive_bad h hd (by rw [hm]; rfl) hw hg)⟩,
   fun _ _ _ _ _ _ h hd hm hw hg hl hmaster hstep habsent => run_eq_after (effLayoutAck_of_good h hd hm hw hg hl hmaster hstep habsent),
   fun _ _ hstep hhalt hlay hmaster hack => run_eq_after (effLayoutAckTimeout_of_silent hstep hhalt hlay hmaster hack)⟩

/-! The boot's images and self-test. -/

theorem exec_bootData {off : Nat} {data : Bytes} (h : data.length ≤ 4096) (s : State) : exec (.bootData off data) s = run (effBootData off data) s :=
  if_pos h

section
variable {b : Block}

theorem effBootReq_of_asked {i k : Nat} (hask : b.boot.asked = some k) (hmaster : b.boot.master = some i) (hsent : b.boot.sent = false)
    (hhalt : b.boot.halted = false) : effBootReq b = raise i 0 (updBoot (fun x => { x with sent := true }) b) := by
  simp only [effBootReq, hask, hmaster, hsent, hhalt, Bool.or_self, Bool.false_eq_true, if_false]

theorem effBootData_next (data : Bytes) (hsent : b.boot.sent = true) (hhalt : b.boot.halted = false) :
    effBootData b.boot.buf.length data b = updBoot (fun x => { x with buf := x.buf ++ data }) b := by
  simp only [effBootData, hsent, hhalt, beq_self_eq_true, Bool.not_false, Bool.and_self, if_true]

/-- What step 6 checks of an image. -/
theorem layoutGood_iff (l : LayoutImg) : layoutGood b l = true ↔
    l.bytes = b.boot.buf ∧ layoutForm l.bytes = true ∧ layoutSigned l.bytes = true ∧ layoutKeyOk b l = true ∧ scheduleOk l = true := by
  simp only [layoutGood, Bool.and_eq_true, beq_iff_eq, and_assoc]

theorem effBootEnd_layout {l : LayoutImg} (hsent : b.boot.sent = true) (hhalt : b.boot.halted = false) (hask : b.boot.asked = some 0) :
    effBootEnd (.layout l) b = layoutDelivered l b := by
  simp only [effBootEnd, hsent, hhalt, hask, Bool.not_true, Bool.or_self, Bool.false_eq_true, if_false]

theorem layoutDelivered_eq (l : LayoutImg) : layoutDelivered l b =
    (let b' := updBoot (fun x => { x with step := 6, asked := none, sent := false }) b
     if l.bytes = b.boot.buf ∧ layoutForm l.bytes = true ∧ layoutSigned l.bytes = true ∧ layoutKeyOk b l = true ∧ scheduleOk l = true
     then bootStep7 (updBoot (fun x => { x with layout := some l, buf := [] }) b') else safeState .badConfig b') := by
  simp only [layoutDelivered, layoutGood_iff]
  rfl

theorem effBootEnd_firmware {slot : Bool} {f : FwImg} (hsent : b.boot.sent = true) (hhalt : b.boot.halted = false)
    (hask : b.boot.asked = some (if slot then 2 else 1)) : effBootEnd (.firmware slot f) b = fwDelivered slot (some f) b := by
  cases slot with
  | false =>
    have hask' : b.boot.asked = some 1 := hask
    simp only [effBootEnd, hsent, hhalt, hask', Bool.not_true, Bool.or_self, Bool.false_eq_true, if_false]
    rfl
  | true =>
    have hask' : b.boot.asked = some 2 := hask
    simp only [effBootEnd, hsent, hhalt, hask', Bool.not_true, Bool.or_self, Bool.false_eq_true, if_false]
    rfl

/-- The image of the slot in force: it runs where it verifies; else the other slot is tried once. -/
theorem fwDelivered_inForce {slot : Bool} {f : FwImg} (hvalid : b.boot.aoFw.valid = true) (hpend : b.boot.aoFw.pending = false) :
    fwDelivered slot (some f) b =
      if fwVerifies b f = true ∧ f.bytes = b.boot.buf then fwAccept slot f b
      else if b.boot.fwTry = 0 then fwAsk (!slot) (updAoFw (fun a => { a with pending := false }) (updBoot (fun x => { x with fwTry := 1 }) b))
      else safeState .tagFail b := by
  by_cases hgood : fwVerifies b f = true ∧ f.bytes = b.boot.buf
  · have hkeep : (some f).filter (fun f => fwVerifies b f && f.bytes == b.boot.buf) = some f := by
      simp only [Option.filter_some, hgood.1, hgood.2, beq_self_eq_true, Bool.and_self, if_true]
    simp only [fwDelivered, hkeep, if_pos hgood, hvalid, hpend, Bool.true_eq_false, Bool.false_and, Bool.false_eq_true, if_false]
  · have hdrop : (some f).filter (fun f => fwVerifies b f && f.bytes == b.boot.buf) = none := by
      rw [Option.filter_some, if_neg]
      rwa [Bool.and_eq_true, beq_iff_eq]
    simp only [fwDelivered, hdrop, if_neg hgood, hvalid, Bool.true_eq_false, if_false]

theorem effBistWaveEnd_of_step8 (res : List (Nat × Nat × BitVec 24 × BitVec 64)) (hstep : b.boot.step = 8) (hhalt : b.boot.halted = false) :
    effBistWaveEnd res b =
      (let units := bistUnits b
       let b := (res.filter (fun r => units.contains (r.1, r.2.1))).foldl (fun b r => unitResult r b) b
       bistNext (updBoot (fun x => if x.preWave then { x with preWave := false } else { x with waves := x.waves.tail }) b)) := by
  simp only [effBistWaveEnd, hstep, hhalt, ne_eq, not_true_eq_false, Bool.false_eq_true, or_self, if_false]

theorem effBootRelease_of_ready {i : Nat} (hmaster : b.boot.master = some i) (hstep : b.boot.step = 11) (hhalt : b.boot.halted = false)
    (hstore : b.keys.store.phase = .idle) :
    effBootRelease b =
      (let b := { updBoot (fun x => { x with step := 12 }) b with
                  inst := Sparse.mapAll {} b.inst (fun _ s => if s.loaded then { s with released := true } else s) }
       let b := raise i 0 (bayReload b)
       confirmStart (if (spInst b).isSome then updFo (fun f => { f with copying := true }) b else b)) := by
  simp only [effBootRelease, hmaster, hstep, hhalt, hstore, and_self, if_true]

end

/-- Settles O30: the boot's images and self-test. -/
theorem bootImages : Obligations.BootImages :=
  ⟨fun _ _ _ hask hmaster hsent hhalt => run_eq_after (effBootReq_of_asked hask hmaster hsent hhalt),
   fun s data hlen hsent hhalt => (exec_bootData hlen s).trans (run_eq_after (effBootData_next data hsent hhalt)),
   fun _ l hsent hhalt hask => run_eq_after ((effBootEnd_layout hsent hhalt hask).trans (layoutDelivered_eq l)),
   fun _ _ _ hsent hhalt hask hvalid hpend =>
    run_eq_after ((effBootEnd_firmware hsent hhalt hask).trans (fwDelivered_inForce hvalid hpend)),
   fun _ res hstep hhalt => run_eq_after (effBistWaveEnd_of_step8 res hstep hhalt),
   fun _ _ hmaster hstep hhalt hstore => run_eq_after (effBootRelease_of_ready hmaster hstep hhalt hstore)⟩

end Sys2Proof.Proofs
end

section
/-! PROOFS. Life cycle, debug and firmware commands (R266, R269, R368 to R383), and the trust domain: members, authority, pairs and epochs
(R283 to R297). -/

namespace Sys2Proof.Proofs
open Sys2Proof Sys2Proof.Machine Sys2Proof.Laws

/-! Life cycle, debug and firmware. -/

section
variable {m : MbReq} {j : MbJob} {b b' : Block}

theorem effLcyAdvance_of_permitted {t : BitVec 2} {serial : BitVec 64} (hattr : m.attr ≠ .m) (h : mailTaken m 0x0140 [.k, .d] b = some (j, b'))
    (hpermit : lcyPermits b' (lcOf t.toNat) m.attr serial = true) (hreset : b'.trust.lcyReset = false) (hbusy : mbBusy 0x0140 b' = false) :
    effLcyAdvance m t serial b = otpQueue (.advance false (lcOf t.toNat) serial) (mbHold j b') := by
  rw [effLcyAdvance, if_neg (fun hm => hattr hm.1), mbCommand_eq h]
  simp only [hpermit, hreset, hbusy, Bool.not_true, Bool.or_self, Bool.false_eq_true, if_false]

theorem effOtpFuseHash_of_open {layoutKey : Bool} {hash : Digest} (h : mailTaken m 0x0141 [.k, .d] b = some (j, b'))
    (hlc : b'.otp.lc = .test ∨ (b'.otp.lc = .prod ∧ m.attr = .k)) (hnone : doneBank b' (if layoutKey then fLkey else fOpr) = none)
    (hempty : emptyBank b' (if layoutKey then fLkey else fOpr) ≠ none) (hbusy : mbBusy 0x0141 b' = false) :
    effOtpFuseHash m layoutKey hash b = otpQueue (.hash layoutKey hash) (mbHold j b') := by
  have hmay : (b'.otp.lc == .test || (b'.otp.lc == .prod && m.attr == .k)) = true := by
    simpa only [Bool.or_eq_true, Bool.and_eq_true, beq_iff_eq] using hlc
  have hroom : (emptyBank b' (if layoutKey then fLkey else fOpr)).isNone = false := by
    rwa [Option.isNone_eq_false_iff, Option.isSome_iff_ne_none]
  rw [effOtpFuseHash, mbCommand_eq h]
  simp only [hmay, hnone, hroom, hbusy, Option.isSome_none, Bool.not_true, Bool.or_self, Bool.false_eq_true, if_false]

theorem effServiceRequestDescriptor_of_turn {d : SrqDesc} {rest : List SrqDesc} {h : Head} {a : Arb} (hd : srqNext b.keys.srq = some (d, rest))
    (hprim : (primaryInst b).isSome = true) (hpick : arbPick (scuHeads b) b.cm.drr (Sparse.get {} b.cm.arb 1) = some (h, a)) (hwho : h.who = 400) :
    effServiceRequestDescriptor b =
      (let b := { b with cm := { b.cm with arb := Sparse.set {} b.cm.arb 1 a } }
       storeServed (srqServe b d) (unpin d.key { b with keys := { b.keys with srq := rest, srqDone := [srqServe b d] } })) := by
  simp only [effServiceRequestDescriptor, hd, hprim, arbStart, hpick, hwho, if_true]

theorem effDrbgHealthFailure_of_released (hpin : b.boot.hard = false) (hstep : 12 ≤ b.boot.step) :
    effDrbgHealthFailure b =
      (let b := raisePrimary 15 (updMint (fun m => { m with drbgOk := false }) b)
       if primaryInst (relinquish b) = primaryInst b then relinquish b else updMint (fun m => { m with drbgOk := true }) (relinquish b)) := by
  simp only [effDrbgHealthFailure, hpin, Nat.not_lt.mpr hstep, Bool.false_eq_true, if_false]

end

/-- Settles O31: life cycle, debug, firmware, descriptors and the DRBG. -/
theorem lifeCycleCommands : Obligations.LifeCycleCommands :=
  ⟨fun _ _ _ _ _ _ hattr h hpermit hreset hbusy => run_eq_settled (effLcyAdvance_of_permitted hattr h hpermit hreset hbusy),
   fun _ _ _ _ _ _ h hlc hnone hempty hbusy => run_eq_settled (effOtpFuseHash_of_open h hlc hnone hempty hbusy),
   fun _ h => run_eq_after (if_pos h),
   fun _ _ _ _ h hlc hdrbg => run_eq_settled ((mbCommand_eq h).trans ((if_neg (fun hne => hne hlc)).trans
    (if_neg (by rw [hdrbg]; exact Bool.true_eq_false_eq_False)))),
   fun _ _ _ _ _ h hlc => run_eq_settled ((mbCommand_eq h).trans (if_neg (fun hne => hne hlc))),
   fun _ _ _ _ _ h hpend => run_eq_settled ((mbCommand_eq h).trans (if_neg (by rw [hpend]; exact Bool.false_ne_true))),
   fun _ _ _ _ _ h hstaged => run_eq_settled ((mbCommand_eq h).trans (if_pos hstaged)),
   fun _ _ _ _ _ hd hprim hpick hwho => run_eq_after (effServiceRequestDescriptor_of_turn hd hprim hpick hwho),
   fun _ hpin hstep => run_eq_after (effDrbgHealthFailure_of_released hpin hstep)⟩

/-! A package that joins, and a member. -/

section
variable {b : Block}

/-- What ADMIT gives a candidate that neither is the standby nor hears of one. -/
def memberEnters (p : Pkg) (a : Admit) (b : Block) : Block :=
  let b := updDom (fun d =>
    { d with state := .admitted, role := .member, epochN := a.epochN.toNat, t0 := a.t0, grant := a.grant.toNat,
             polHash := a.polHash, span := a.span, auth := some (p, a.dka), standby := none, joinTo := none, beatAt := b.time }) b
  let b := updDom (fun d => { d with epoch := epochNow b }) { b with fab := { b.fab with span := a.span } }
  let b := (putBind { state := .admitted, pkg := p, ident := a.dka } b).getD b
  mbFinish 0x0110 0 .ok [] (startHand p (some ((primaryInst b).getD 0)) [] (beginLease b))

theorem enterDomain_of_noStandby (p : Pkg) {a : Admit} (h : a.standby = none) : enterDomain p a b = memberEnters p a b := by
  simp only [enterDomain, h]
  rfl

theorem effAdmitMember_of_heard {h : DomHdr} {a : Admit} {b' : Block} (hh : heard h (fun b => fromJoined b h && h.ident == a.dka) b = some b')
    (halone : replicating b' = false) (hstandby : a.standby = none) :
    effAdmitMember h a b = match unwrapKey (takeKek b' a.ct) a.wrapped with
      | some kdom => memberEnters h.sender a (installDomKey kdom b')
      | none => endJoin .tagFail b' := by
  rw [effAdmitMember, domTake_eq hh]
  cases hk : unwrapKey (takeKek b' a.ct) a.wrapped with
  | none => rfl
  | some kdom => exact (mutate_of_alone _ _ halone).trans (enterDomain_of_noStandby h.sender hstandby)

theorem effRelayOut_of_waiting {m : MbReq} {j : MbJob} {b' : Block} {o : DomOut} {t : List DomOut}
    (h : mailTaken m 0x0101 [.k] b = some (j, b')) (hout : b'.trust.dom.out = o :: t) :
    effRelayOut m b = mbEnd j .ok (leBytes 2 o.dst.toNat ++ relayBytes b' o) (updDom (fun d => { d with out := t }) b') := by
  rw [effRelayOut, mbCommand_eq h]
  simp only [hout]

/-- REBIND of another package's binding restores it to its identity. -/
theorem bodyRebind_of_bound {pkg : Pkg} {ident : Digest} {k : Nat} {e : Bind} (he : bindOf b pkg = some (k, e)) :
    bodyRebind pkg ident b = reviveFab pkg (removePairs pkg
      ((putBind { e with state := .admitted, ident := ident, ek := if e.ident = ident then e.ek else none } (dropBind e.ident b)).getD b)) := by
  simp only [bodyRebind, he]

theorem effRebind_of_bound {h : DomHdr} {pkg : Pkg} {ident : Digest} {k : Nat} {e : Bind} {b' : Block}
    (hh : heard h (fun b => fromAuth b h) b = some b') (halone : replicating b' = false) (hother : pkg ≠ b'.trust.dom.pkg)
    (he : bindOf b' pkg = some (k, e)) :
    effRebind h pkg ident b = reviveFab pkg (removePairs pkg
      ((putBind { e with state := .admitted, ident := ident, ek := if e.ident = ident then e.ek else none } (dropBind e.ident b')).getD b')) := by
  rw [effRebind, domTake_eq hh, if_neg hother, mutate_of_alone _ _ halone, bodyRebind_of_bound he]

theorem effDomJoin_of_outside {m : MbReq} {dka : Pkg} {domain : BitVec 64} {j : MbJob} {b' : Block}
    (h : mailTaken m 0x0110 [.k] b = some (j, b')) (hoos : packageOos b' = false) (hstate : b'.trust.dom.state = .none) :
    effDomJoin m dka domain b =
      domSend dka .join (mbHold j (updDom (fun d => { d with state := .joining, id := domain, joinTo := some (dka, b'.time) }) b')) := by
  rw [effDomJoin, mbCommand_eq h]
  simp only [hoos, hstate, Bool.false_eq_true, if_false, if_true]

end

/-- Settles O32: a package that joins, and a member. -/
theorem domainMembership : Obligations.DomainMembership :=
  ⟨fun _ _ _ _ _ _ h hoos hstate => run_eq_settled (effDomJoin_of_outside h hoos hstate),
   fun _ _ _ _ h => run_eq_settled (domTake_eq h),
   fun _ _ _ _ hh halone hstandby => run_eq_settled (effAdmitMember_of_heard hh halone hstandby),
   fun _ _ _ _ h => run_eq_settled (domTake_eq h),
   fun _ h => run_eq_after (if_pos ⟨rfl, h⟩),
   fun _ _ _ _ _ _ h hout => run_eq_settled (effRelayOut_of_waiting h hout),
   fun _ _ _ _ _ h => run_eq_settled (mbCommand_eq h),
   fun _ _ _ _ h halone =>
    ⟨run_eq_settled ((domTake_eq h).trans (mutate_of_alone _ _ halone)),
     run_eq_settled ((domTake_eq h).trans (mutate_of_alone _ _ halone)),
     fun _ _ _ hother he => run_eq_settled (effRebind_of_bound h halone hother he)⟩,
   fun _ _ _ _ h hstate => run_eq_settled ((mbCommand_eq h).trans (if_pos hstate))⟩

/-! The authority. -/

section
variable {b b' : Block} {h : DomHdr}

/-- JOIN of an identity that no binding has: a challenge, or a clash where its number is bound. -/
theorem effJoin_of_unknown (hh : heard h isDka b = some b') (hnew : b'.trust.dom.binds.find? (fun e => e.2.ident == h.ident) = none) :
    effJoin h b = if (bindOf b' h.sender).isSome then startClash h.sender h.ident b' else sendChallenge h.ident h.sender false b' := by
  rw [effJoin, domTake_eq hh]
  simp only [hnew]

theorem effEvidence_of_good {e : Evidence} {c : Cand} {p : Policy} (hh : heard h (fun b => isDka b && (candOf b h.ident).isSome) b = some b')
    (hc : candOf b' h.ident = some c) (hp : b'.trust.dom.policy = some p) (hagain : c.again = false)
    (hgood : evidenceBad (updDom (fun d => { d with cands := d.cands.filter (fun x => x.ident != h.ident) }) b') p h.sender c.ident c.nonce e = []) :
    effEvidence h e b =
      (let b := updDom (fun d => { d with cands := d.cands.filter (fun x => x.ident != h.ident) }) b'
       domChange (.enrol (bindFrom h.sender c.ident e) e.ek (b.trust.dom.binds.any (fun x => x.2.ident == c.ident))) b) := by
  rw [effEvidence, domTake_eq hh]
  simp only [hc, hp, hagain, hgood, Bool.false_eq_true, if_false]

theorem effQuarantineChallengeTimeout_of_one {pkg : Pkg} {k : Nat} {e : Bind} (hdka : isDka b = true)
    (hone : b.trust.dom.binds.filter (fun e => e.2.pkg == pkg && e.2.state == .quarantined && e.2.answered) = [(k, e)]) :
    effQuarantineChallengeTimeout pkg b =
      domChange (.keep pkg e.ident) (updDom (fun d => { d with cands := d.cands.filter (fun c => !(c.again && c.pkg == pkg)) }) b) := by
  have hone' : (updDom (fun d => { d with cands := d.cands.filter (fun c => !(c.again && c.pkg == pkg)) }) b).trust.dom.binds.filter
      (fun e => e.2.pkg == pkg && e.2.state == .quarantined && e.2.answered) = [(k, e)] := hone
  simp only [effQuarantineChallengeTimeout, hdka, hone', if_true]

/-- BIND_QUERY of a member that reports no claim is answered with the binding. -/
theorem effBindQuery_of_query {pkg : Pkg} (hh : heard h (fun b => isDka b && boundSender b h) b = some b') :
    effBindQuery h pkg none none b = domSend h.sender (.bindAnswer pkg (((bindOf b' pkg).map (·.2)).getD {})) b' := by
  simp only [effBindQuery]
  rw [domTake_eq hh]

theorem effDomainReplicationAck_of_head {c : DomChg} {t : List DomChg} (hc : b.trust.dom.chg = c :: t) :
    effDomainReplicationAck b = commitChange c (updDom (fun d => { d with chg := t }) b) := by
  simp only [effDomainReplicationAck, hc]

theorem effDomainReplicationTimeout_of_head {c : DomChg} {t : List DomChg} (hc : b.trust.dom.chg = c :: t) :
    effDomainReplicationTimeout b =
      sendCopy ((c :: t).foldl (fun b c => commitChange c b) (updDom (fun d => { d with chg := [], stdLost := true }) b)) := by
  simp only [effDomainReplicationTimeout, hc, List.isEmpty_cons, Bool.false_eq_true, if_false]

end

/-- Settles O33: the authority of a domain. -/
theorem domainAuthority : Obligations.DomainAuthority :=
  ⟨fun _ _ _ hh hnew =>
    ⟨fun hfree => run_eq_settled ((effJoin_of_unknown hh hnew).trans (if_neg (by rw [hfree]; exact Bool.false_ne_true))),
     fun hbound => run_eq_settled ((effJoin_of_unknown hh hnew).trans (if_pos hbound))⟩,
   fun _ _ _ _ _ _ hh hc hp hagain hgood => run_eq_settled (effEvidence_of_good hh hc hp hagain hgood),
   fun _ _ _ _ hdka hone => run_eq_after (effQuarantineChallengeTimeout_of_one hdka hone),
   fun _ _ _ hh => ⟨run_eq_settled (domTake_eq hh), run_eq_settled (domTake_eq hh), fun _ => run_eq_settled (effBindQuery_of_query hh)⟩,
   fun _ _ _ _ _ _ _ hh halone => run_eq_settled ((domTake_eq hh).trans (mutate_of_alone _ _ halone)),
   fun _ _ hstate hcand => run_eq_after ((if_neg (fun hjoin => hstate hjoin.2)).trans (if_pos hcand)),
   fun _ _ _ hc => ⟨run_eq_after (effDomainReplicationAck_of_head hc), run_eq_after (effDomainReplicationTimeout_of_head hc)⟩,
   fun _ hrole hstandby => run_eq_after (if_pos ⟨hrole, hstandby⟩)⟩

/-! Pairs, heartbeats and epochs. -/

section
variable {b b' : Block} {h : DomHdr} {x : Hand}

/-- PAIR_CONNECT of a peer whose binding is there starts the handshake. -/
theorem connectNow_of_admitted {j : MbJob} {inst k : Nat} {peer : Pkg} {e : Bind} (he : bindOf b peer = some (k, e)) (hstate : e.state = .admitted) :
    connectNow j inst peer b = startHand peer (some inst) [] (mbHold { j with arg := peer.toNat } (askBind peer b)) := by
  simp only [connectNow, he, hstate, if_true]

theorem effPairConnectTimeout_of_undone {peer : Pkg} (halone : replicating b = false) (hx : handOf b peer = some x) (hdone : x.done = false) :
    effPairConnectTimeout peer b = connectWaiting peer (some .timeout) (mbFinish 0x0112 peer.toNat .timeout []
      (updDom (fun d => { d with hands := d.hands.filter (fun x => x.peer != peer) }) (dropHand x b))) := by
  rw [effPairConnectTimeout, mutate_of_alone _ _ halone]
  simp only [bodyHandTimeout, hx, hdone, Bool.false_eq_true, if_false]

/-- HELLO of a peer without a handshake is answered. -/
theorem effHello_of_new {ek : BitVec 12544} {lcs : List Nat} (hbound : (b.trust.dom.state == .admitted && !boundSender b h) = false)
    (hh : heard h (fun b => helloKnown b h && ekMatches b h ek) b = some b') (halone : replicating b' = false) (hnone : handOf b' h.sender = none) :
    effHello h ek lcs b = answerHello h.sender ek lcs none [] b' := by
  have hack : ackOf b' h.sender = none := by rw [ackOf, hnone]; rfl
  simp only [effHello, hbound, Bool.false_and, Bool.false_eq_true, if_false]
  rw [domTake_eq hh]
  simp only [hack, mutate_of_alone _ _ halone, bodyHello, hnone]

/-- HELLO_ACK of a handshake that awaits it: the seeds, where they unwrap, become links. -/
theorem effHelloAck_of_awaited {ct : BitVec 12544} {pairs : List (Nat × Nat × Bytes)}
    (hh : heard h (fun b => helloKnown b h && ackAwaited b h.sender) b = some b') (halone : replicating b' = false)
    (hx : handOf b' h.sender = some x) (hdone : x.done = false) (hpairs : x.pairs = []) :
    effHelloAck h ct pairs b =
      (unwrapAll (takeKek b' ct) pairs).elim (mbFinish 0x0112 h.sender.toNat .tagFail [] b') (fun seeds => linkSeeds h.sender x seeds b') := by
  have hkeep : (some x).filter (fun x => !x.done && x.pairs.isEmpty) = some x := by
    simp only [Option.filter_some, hdone, hpairs, List.isEmpty_nil, Bool.not_false, Bool.and_self, if_true]
  rw [effHelloAck, domTake_eq hh]
  cases hs : unwrapAll (takeKek b' ct) pairs with
  | none => rfl
  | some seeds => simp only [mutate_of_alone _ _ halone, bodyHelloAck, hx, hkeep, Option.elim_some]

theorem effHelloFin_of_awaited {epoch : BitVec 24} (hh : heard h (fun b => helloKnown b h && finAwaited b h.sender) b = some b')
    (halone : replicating b' = false) (hx : handOf b' h.sender = some x) (hdone : x.done = false) (hpairs : x.pairs ≠ []) :
    effHelloFin h epoch b = finishHand x epoch.toNat b' := by
  have hkeep : (some x).filter (fun x => !x.done && !x.pairs.isEmpty) = some x := by
    simp only [Option.filter_some, hdone, List.isEmpty_eq_false_iff.mpr hpairs, Bool.not_false, Bool.and_self, if_true]
  rw [effHelloFin, domTake_eq hh, mutate_of_alone _ _ halone]
  simp only [bodyHelloFin, hx, hkeep]

end

/-- Settles O34: pairs, heartbeats and epochs. -/
theorem domainPairsAndEpochs : Obligations.DomainPairsAndEpochs :=
  ⟨fun _ _ _ _ _ _ _ _ h hoos hstate hother hinst he hadm =>
    run_eq_settled ((mbCommand_eq h).trans ((if_neg (by rw [hoos]; exact Bool.false_ne_true)).trans
      ((if_pos ⟨hstate, hother, hinst⟩).trans (connectNow_of_admitted he hadm)))),
   fun _ _ _ halone hx hdone => run_eq_after (effPairConnectTimeout_of_undone halone hx hdone),
   fun _ _ _ _ _ hbound hh halone hnone => run_eq_settled (effHello_of_new hbound hh halone hnone),
   fun s h ct pairs b x hh halone hx hdone hpairs => run_eq_settled (by
    rw [effHelloAck_of_awaited hh halone hx hdone hpairs]
    cases unwrapAll (takeKek b ct) pairs with
    | none => rfl
    | some seeds =>
      simp only [Option.elim_some, linkSeeds]
      cases linkAll seeds b with
      | none => rfl
      | some l => rfl),
   fun _ _ _ _ _ hh halone hx hdone hpairs => run_eq_settled (effHelloFin_of_awaited hh halone hx hdone hpairs),
   fun _ _ _ hh =>
    ⟨fun hrole => run_eq_settled ((domTake_eq hh).trans (if_pos hrole)),
     fun hrole hauth => run_eq_settled ((domTake_eq hh).trans ((if_neg (by rw [hrole]; exact Bool.false_ne_true)).trans (if_pos hauth)))⟩,
   fun _ hdka => run_eq_after (if_pos hdka),
   fun _ hstate hrole hlost => run_eq_after (if_pos ⟨hstate, hrole, hlost⟩),
   fun _ _ _ hh hrole hlost => run_eq_settled ((domTake_eq hh).trans (if_pos ⟨hrole, hlost⟩)),
   fun _ _ _ hh => run_eq_settled (domTake_eq hh),
   fun _ hstate hlater => run_eq_after (if_pos ⟨hstate, hlater⟩),
   fun _ => rfl,
   fun _ _ _ _ hh => run_eq_settled (domTake_eq hh)⟩

end Sys2Proof.Proofs
end

section
/-! PROOFS. The SPDM responder with its vendor-defined requests and TDISP (R276 to R282, R300 to R303, R310), tenant instances, migration
(R305 to R309), and failover (R355 to R357). -/

namespace Sys2Proof.Proofs
open Sys2Proof Sys2Proof.Machine Sys2Proof.Laws

/-! The responder. -/

section
variable {r : SpdmReq} {x : Sess} {b : Block}

theorem effGetCertificate_of_slot {slot : Nat} (h : answering b) (hslot : slot < 2) :
    effGetCertificate r slot b = spdmSay r (.certificate slot b.trust.att.chain (slotCerts b slot)) b := by
  rw [effGetCertificate, spdm_eq h]
  simp only [hslot, if_true]

theorem effChallenge_of_slot {slot : Nat} {nonce : Key} (h : answering b) (hslot : slot < 2) :
    effChallenge r slot nonce b =
      (let said := Config.spdmBytes 3 [slot, nonce.toNat, (slotDigest (fresh b).2 slot).toNat]
       spdmSay r (.challengeAuth slot nonce (if slot = 0 then aliasEc (fresh b).2 said b.freeCtr
         else ecSign (getKey (fresh b).2 3).key (sha384 said) b.freeCtr)) (fresh b).2) :=
  (spdm_eq h).trans (if_pos hslot)

theorem effGetMeasurements_of_index {index : Nat} {signed : Bool} {nonce : Key} (h : answering b) (hindex : index ≤ 0x0A ∨ index = 0x20 ∨ index = 0xFF) :
    effGetMeasurements r index signed nonce b = spdmSay r (measResponse index signed nonce b).1 (measResponse index signed nonce b).2 :=
  (spdm_eq h).trans (if_pos hindex)

theorem effKeyExchange_of_good {mgmt : Bool} {exch : BitVec 768} (h : answering b) (hroom : b.trust.att.sess.length < 8)
    (hmgmt : mgmt = true → r.tr = .mctp) (hdrbg : b.keys.mint.drbgOk = true) (hon : ecOn (ecOfXY (leBytes 96 exch.toNat)) = true) :
    effKeyExchange r mgmt exch b =
      (let c := (fresh b).2
       let d := ecScalar (Config.ecNonce b.freeCtr 0).toNat
       let mine := BitVec.ofNat 768 (leNat (ecXY (ecTimesBase d)))
       let said := Config.spdmBytes 2 [exch.toNat, mine.toNat, freeSess (fresh c).2]
       let sig := if mgmt then ecSign (getKey (fresh c).2 3).key (sha384 said) c.freeCtr else aliasEc (fresh c).2 said c.freeCtr
       spdmSay r (.session (freeSess (fresh c).2) mine sig) (updAtt (fun a =>
         { a with sess := a.sess ++ [{ num := freeSess (fresh c).2, tr := r.tr, mgmt := mgmt, done := false, keys := 0,
                                       secret := (ecShared d (leBytes 96 exch.toNat)).getD [] }] }) (fresh c).2)) := by
  have htr : (mgmt && r.tr != .mctp) = false := by
    cases mgmt with
    | false => rfl
    | true => rw [hmgmt rfl]; rfl
  rw [effKeyExchange, spdm_eq h, if_neg (Nat.not_le.mpr hroom), if_neg (by rw [htr]; exact Bool.false_ne_true),
    if_neg (by rw [hdrbg, hon]; exact Bool.false_ne_true)]
  rfl

theorem effFinish_of_signed {root : Digest} (h : answering b)
    (hx : r.sess.bind (fun n => b.trust.att.sess.find? (fun s => s.num == n && s.tr == r.tr && !s.done)) = some x)
    (hroot : x.mgmt = true → (doneBank b fOpr).isSome = true ∧ root = otpDigest b fOpr) :
    effFinish r root true b = spdmSay r (.finished x.num)
      (updAtt (fun a => { a with sess := updateWhere (fun y => y.num == x.num) (fun y => { y with done := true }) a.sess }) b) := by
  have hok : (!x.mgmt || ((doneBank b fOpr).isSome && root == otpDigest b fOpr)) = true := by
    cases hm : x.mgmt with
    | false => rfl
    | true => obtain ⟨hbank, hr⟩ := hroot hm; rw [hbank, hr, beq_self_eq_true]; rfl
  rw [effFinish, spdm_eq h]
  simp only [hx, hok, Bool.and_self, if_true]

theorem effChunkSend_of_first {last : Bool} {data : Bytes} (h : answering b) :
    effChunkSend r 0 last data b = spdmSay r .ack (updAtt (fun a =>
      if last then { a with chunk := none, big := data } else { a with chunk := some (1, data) }) b) := by
  rw [effChunkSend, spdm_eq h]
  simp only [true_or, if_true, List.nil_append, Nat.zero_add]

theorem effChunkSend_of_next {seq : Nat} {last : Bool} {data got : Bytes} (h : answering b) (hchunk : b.trust.att.chunk = some (seq + 1, got)) :
    effChunkSend r (seq + 1) last data b = spdmSay r .ack (updAtt (fun a =>
      if last then { a with chunk := none, big := got ++ data } else { a with chunk := some (seq + 2, got ++ data) }) b) := by
  rw [effChunkSend, spdm_eq h]
  simp only [hchunk, Option.getD_some, or_true, if_true, Nat.succ_ne_zero, if_false, Nat.add_assoc]

end

/-- Settles O35: base requests, measurements, sessions and chunks. -/
theorem spdmResponder : Obligations.SpdmResponder :=
  ⟨fun _ _ h => ⟨run_eq_after (spdm_eq h), run_eq_after (spdm_eq h), run_eq_after (spdm_eq h), run_eq_after (spdm_eq h), run_eq_after (spdm_eq h),
      fun _ hslot => run_eq_after (effGetCertificate_of_slot h hslot),
      fun _ _ hslot => run_eq_after (effChallenge_of_slot h hslot),
      fun _ _ hindex => ⟨run_eq_after (effGetMeasurements_of_index h hindex), run_eq_after (effGetMeasurements_of_index h hindex)⟩⟩,
   fun _ _ _ _ h hroom hmgmt hdrbg hon => run_eq_after (effKeyExchange_of_good h hroom hmgmt hdrbg hon),
   fun _ _ _ _ h hx hroot => run_eq_after (effFinish_of_signed h hx hroot),
   fun _ _ _ h hx => ⟨run_eq_after (inSession_eq h hx), run_eq_after (inSession_eq h hx), run_eq_after (inSession_eq h hx)⟩,
   fun _ _ _ _ h => run_eq_after (effChunkSend_of_first h),
   fun _ _ _ _ _ _ h hchunk => run_eq_after (effChunkSend_of_next h hchunk),
   fun _ _ _ h hpart => run_eq_after ((spdm_eq h).trans (if_neg (by rw [hpart]; exact Bool.false_ne_true)))⟩

/-! Vendor-defined requests, TDISP, and tenant instances. -/

section
variable {r : SpdmReq} {x : Sess} {m : MbReq} {j : MbJob} {tag : Tag} {b b' : Block}

theorem effDomPolicy_of_alone {image : Bytes} (h : speaksIn r x b) (hrepl : replicating b = false) :
    effDomPolicy r image b = spdmSay r (.vendor (formDomain image b).1) (formDomain image b).2 :=
  (vendor_eq h).trans (mutate_of_alone _ _ hrepl)

theorem effDomResolve_of_quarantined {pkg : Pkg} {keep : Digest} (h : speaksIn r x b) (hdka : isDka b = true)
    (hq : b.trust.dom.binds.any (fun e => e.2.pkg == pkg && e.2.state == .quarantined && e.2.ident == keep) = true) :
    effDomResolve r pkg keep b = spdmSay r (.vendor .ok) (domChange (.keep pkg keep) b) :=
  (vendor_eq h).trans (if_pos (by rw [hdka, hq]; rfl))

theorem effDomAbort_of_running (h : speaksIn r x b) (hdom : inDomain b = true) (hctx : ctxsOf b tag ≠ []) (htd : (getTInst b tag.toNat).tdisp = true)
    (hrun : (getTInst b tag.toNat).state = .run) (hsess : (getTInst b tag.toNat).sess = some x.num) :
    effDomAbort r tag b = spdmSay r (.vendor .ok) { b with bay := { b.bay with due := b.bay.due.or (some (.aborted, b.trust.dom.pkg)) } } := by
  rw [effDomAbort, vendor_eq h]
  simp only [hdom, List.isEmpty_eq_false_iff.mpr hctx, htd, hrun, hsess, beq_self_eq_true, Bool.not_false, Bool.and_self, if_true, List.append_nil, List.isEmpty_nil]

theorem effGetBundle_of_dka {off len : Nat} (h : speaksIn r x b) (hdka : isDka b = true) (hlen : len ≤ 65536) :
    effGetBundle r off len b = spdmSay r (.bundle b.trust.dom.bundleSeq (((bundleBytes b).drop off).take len))
      (updAtt (fun a => { a with big := ((bundleBytes b).drop off).take len }) b) :=
  (vendor_eq h).trans (if_pos (by rw [hdka, decide_eq_true hlen]; rfl))

theorem effGetMemberEvidence_of_dka {pkg : Pkg} (h : speaksIn r x b) (hdka : isDka b = true) :
    effGetMemberEvidence r pkg b = spdmSay r (.memberEvidence ((bindOf b pkg).map (·.2))) b :=
  (vendor_eq h).trans (if_pos hdka)

theorem effLockInterfaceRequest_of_config {stream : BitVec 8} (h : speaksIn r x b) (hdoe : r.tr = .doe) (htd : (getTInst b tag.toNat).tdisp = true)
    (hstate : (getTInst b tag.toNat).state = .config) :
    effLockInterfaceRequest r tag stream b = spdmSay r .tdispOk
      (updTInst tag.toNat (fun t => { t with state := .locked, stream := stream, sess := some x.num }) b) :=
  (tdisp_eq h hdoe).trans (if_pos (by rw [htd, hstate]; rfl))

theorem effStartInterfaceRequest_of_locked (h : speaksIn r x b) (hdoe : r.tr = .doe) (htd : (getTInst b tag.toNat).tdisp = true)
    (hstate : (getTInst b tag.toNat).state = .locked) (hactive : streamActive b (getTInst b tag.toNat).stream = true) :
    effStartInterfaceRequest r tag b = spdmSay r .tdispOk (updTInst tag.toNat (fun t => { t with state := .run }) b) :=
  (tdisp_eq h hdoe).trans (if_pos (by rw [htd, hstate, hactive]; rfl))

theorem effStopInterfaceRequest_of_run (h : speaksIn r x b) (hdoe : r.tr = .doe) (htd : (getTInst b tag.toNat).tdisp = true)
    (hstate : (getTInst b tag.toNat).state = .run) :
    effStopInterfaceRequest r tag b = spdmSay r .tdispOk (tenantTo tag .config b) :=
  (tdisp_eq h hdoe).trans (if_pos (by rw [htd, hstate]; rfl))

theorem chainFits_iff {c : CertChain} : chainFits b c = true ↔
    leBytes 97 c.leafEc.toNat = seedPublic 2 (layerSeed b 0 2) ∧ leBytes 2592 c.leafDsa.toNat = seedPublic 1 (layerSeed b 0 1)
      ∧ digestOf c.root = Config.deviceRoot := by
  simp only [chainFits, Bool.and_eq_true, beq_iff_eq, and_assoc]

theorem effCertLoad_of_taken {c : CertChain} (h : mailTaken m 0x0103 [.k] b = some (j, b')) :
    effCertLoad m c b =
      (if leBytes 97 c.leafEc.toNat = seedPublic 2 (layerSeed b' 0 2) ∧ leBytes 2592 c.leafDsa.toNat = seedPublic 1 (layerSeed b' 0 1)
          ∧ digestOf c.root = Config.deviceRoot
       then mbEnd j .ok [] (updAtt (fun a => { a with chain := some c }) b') else mbEnd j .badConfig [] b') := by
  rw [effCertLoad, mbCommand_eq h]
  exact if_congr chainFits_iff rfl rfl

theorem effTinstCreate_of_free {pasid : BitVec 20} {tdisp : Bool} {ifid : BitVec 16} (h : mailTaken m 0x0120 [.k] b = some (j, b'))
    (hoos : packageOos b' = false) (hroom : (b'.trust.tinst.filter (fun t => t.2.state != .free)).length < 64)
    (hfree : (getTInst b' tag.toNat).state = .free) :
    effTinstCreate m tag pasid tdisp ifid b = mbEnd j .ok []
      (updTInst tag.toNat (fun _ => { state := if tdisp then .config else .run, tdisp := tdisp, pasid := pasid, ifid := ifid }) b') := by
  rw [effTinstCreate, mbCommand_eq h]
  simp only [hoos, Nat.not_le.mpr hroom, hfree, Bool.false_eq_true, if_false, if_true, List.append_nil, List.isEmpty_nil]

theorem effTinstDestroy_of_live (h : mailTaken m 0x0121 [.k, .m] b = some (j, b')) (hlive : (getTInst b' tag.toNat).state ≠ .free)
    (hdying : (getTInst b' tag.toNat).dying = false) :
    effTinstDestroy m tag b = mbEnd j .ok [] (destroyTenant tag b') :=
  (mbCommand_eq h).trans (if_neg (by rw [hdying]; exact fun hor => hor.elim hlive Bool.false_ne_true))

end

/-- Settles O36: vendor-defined requests, TDISP and tenant instances. -/
theorem tenantsAndTdisp : Obligations.TenantsAndTdisp :=
  ⟨fun _ _ _ h => ⟨fun _ hrepl => run_eq_after (effDomPolicy_of_alone h hrepl),
      fun _ _ hdka hq => run_eq_after (effDomResolve_of_quarantined h hdka hq),
      fun _ hdom hctx htd hrun hsess => run_eq_after (effDomAbort_of_running h hdom hctx htd hrun hsess),
      fun hdka => ⟨fun _ _ hlen => run_eq_after (effGetBundle_of_dka h hdka hlen), fun _ => run_eq_after (effGetMemberEvidence_of_dka h hdka)⟩⟩,
   fun _ _ _ _ h hdoe => ⟨run_eq_after (tdisp_eq h hdoe), run_eq_after (tdisp_eq h hdoe), run_eq_after (tdisp_eq h hdoe),
      fun hlive => run_eq_after ((tdisp_eq h hdoe).trans (if_neg hlive)),
      fun htd => ⟨fun _ hstate => run_eq_after (effLockInterfaceRequest_of_config h hdoe htd hstate),
        fun hstate hactive => run_eq_after (effStartInterfaceRequest_of_locked h hdoe htd hstate hactive),
        fun hstate => run_eq_after (effStopInterfaceRequest_of_run h hdoe htd hstate)⟩⟩,
   fun _ _ _ _ h _ => run_eq_settled (effCertLoad_of_taken h),
   fun _ _ _ _ _ _ _ _ h hoos hroom hfree => run_eq_settled (effTinstCreate_of_free h hoos hroom hfree),
   fun _ _ _ _ _ h hlive hdying => run_eq_settled (effTinstDestroy_of_live h hlive hdying)⟩

/-! Migration. -/

section
variable {m : MbReq} {j : MbJob} {tag : Tag} {peer : Pkg} {kem : BitVec 12544} {transcript : Bytes} {b b' : Block} {k : Nat} {g : Mig}

/-- What MIG_OPEN checks on either side (R305). -/
structure MigMayOpen (tag : Tag) (peer : Pkg) (k : Nat) (b : Block) : Prop where
  admitted : b.trust.dom.state = .admitted
  bound : boundPeer b peer = true
  none : migOf b tag = none
  place : freeKey b = some k

theorem bodyMigOpen_source (h : MigMayOpen tag peer k b) (hlive : (getTInst b tag.toNat).state ≠ .free) (hgood : (getTInst b tag.toNat).state ≠ .error)
    (hpod : podOf peer = podOf b.trust.dom.pkg) (hdrbg : b.keys.mint.drbgOk = true) :
    bodyMigOpen j tag peer true true kem transcript b =
      (let b := askBind peer b
       let r := kemEncaps (leBytes 1568 kem.toNat) (Config.draw b.freeCtr)
       let b := domSend peer (.migKey tag (BitVec.ofNat 12544 (leNat r.2))) (fresh b).2
       let b := writeKey k { type := 4, depth := 2, sys := true, usage := 0x82, parent := 0, budget := unlimited,
                             key := kdfKey r.1 "migrate" (sha384 transcript) } b
       mbEnd j .ok [] { b with trust := { b.trust with migs := b.trust.migs.filter (fun x => x.tag != tag) ++
         [{ tag := tag, peer := peer, source := true, kek := k, frozen := false, restored := false, committed := false, aborted := false }] } }) := by
  simp only [bodyMigOpen, h.admitted, h.bound, h.none, h.place, hlive, hgood, hpod, hdrbg, Option.all_none, beq_self_eq_true, bne_self_eq_false,
    Bool.and_self, Bool.and_false, Bool.not_true, Bool.false_eq_true, if_true, if_false, or_self, List.append_nil, Option.isNone_some, migSecret]
  rfl

theorem bodyMigOpen_target (h : MigMayOpen tag peer k b) (hfree : (getTInst b tag.toNat).state = .free) :
    bodyMigOpen j tag peer false true kem transcript b =
      (let b := askBind peer b
       let ss := kemDecaps (getKey b 4).key (leBytes 1568 kem.toNat)
       let b := updTInst tag.toNat (fun _ => { state := .frozen }) (writeKey k
         { type := 4, depth := 2, sys := true, usage := 0x82, parent := 0, budget := unlimited, key := kdfKey ss "migrate" (sha384 transcript) } b)
       mbEnd j .ok [] { b with trust := { b.trust with migs := b.trust.migs.filter (fun x => x.tag != tag) ++
         [{ tag := tag, peer := peer, source := false, kek := k, frozen := false, restored := false, committed := false, aborted := false }] } }) := by
  simp only [bodyMigOpen, h.admitted, h.bound, h.none, h.place, hfree, Option.all_none, beq_self_eq_true,
    Bool.and_self, Bool.false_and, Bool.false_eq_true, if_true, if_false, List.append_nil, Option.isNone_some, migSecret]

theorem effMigOpen_of_alone {source ok : Bool} (h : mailTaken m 0x0130 [.k] b = some (j, b')) (hrepl : replicating b' = false) :
    effMigOpen m tag peer source ok kem transcript b = bodyMigOpen j tag peer source ok kem transcript b' :=
  (mbCommand_eq h).trans (mutate_of_alone _ _ hrepl)

theorem effMigFreeze_of_run (h : mailTaken m 0x0131 [.k] b = some (j, b'))
    (hmig : (migOf b' tag).any (fun g => g.source && !g.aborted && !g.committed) = true) (hrun : (getTInst b' tag.toNat).state = .run) :
    effMigFreeze m tag b = mbHold { j with arg := tag.toNat } (updTInst tag.toNat (fun t => { t with state := .frozen, was := t.state }) b') :=
  (mbCommand_eq h).trans (if_pos (by rw [hmig, hrun]; rfl))

theorem effMigExport_of_frozen (h : mailTaken m 0x0132 [.k] b = some (j, b')) (hg : migOf b' tag = some g) (hsource : g.source = true)
    (hfrozen : g.frozen = true) (hlive : g.aborted = false) (hopen : g.committed = false) (hsize : blobBytes (blobOf b' tag g.kek) ≤ 262144) :
    effMigExport m tag b =
      (let data := sealBlob (getKey b' g.kek).key (leBytes 12 (Config.draw b'.freeCtr).toNat) (blobOf b' tag g.kek)
       mbEnd j .ok data (updMig tag (fun x => { x with blob := some data }) (fresh b').2)) := by
  rw [effMigExport, mbCommand_eq h]
  simp only [hg, hsource, hfrozen, hlive, hopen, Nat.not_lt.mpr hsize, Bool.not_false, Bool.and_self, if_true, if_false]
  rfl

theorem effMigRestore_of_rebuilt {blob : MigBlob} {data : Bytes} {c : Block} (h : mailTaken m 0x0133 [.k] b = some (j, b'))
    (hrepl : replicating b' = false) (hg : migOf b' tag = some g) (htarget : g.source = false) (honce : g.restored = false)
    (hblob : restoreBlob tag g.kek blob b' = .ok c) :
    effMigRestore m tag blob data b =
      (if opensTo (getKey b' g.kek).key blob data = true then
        mbEnd j .ok [] (domSend g.peer (.restored tag) (updMig tag (fun g => { g with restored := true })
          (updTInst tag.toNat (fun t => { t with tdisp := blob.tdisp, pasid := blob.pasid, stream := blob.stream, ifid := blob.ifid }) c)))
       else mbEnd j .tagFail [] b') := by
  rw [effMigRestore, mbCommand_eq h, mutate_of_alone _ _ hrepl]
  cases hopens : opensTo (getKey b' g.kek).key blob data <;>
    simp only [bodyMigRestore, hg, htarget, honce, hopens, hblob, Bool.or_self, Bool.not_true, Bool.not_false, Bool.false_eq_true, if_true, if_false]

theorem effMigAbort_of_open (h : mailTaken m 0x0134 [.k] b = some (j, b')) (hg : migOf b' tag = some g) (hopen : g.committed = false)
    (hlive : g.aborted = false) :
    effMigAbort m tag b = mbEnd j .ok [] (if g.source then
      unfreeze tag (mbFinish 0x0131 tag.toNat .aborted [] (updMig tag (fun g => { g with aborted := true }) b')) else dropMig tag (destroyTenant tag b')) := by
  rw [effMigAbort, mbCommand_eq h]
  cases hsource : g.source <;> simp only [hg, hopen, hlive, hsource, Bool.or_self, Bool.false_eq_true, if_false, if_true]

theorem effRestored_of_open {hd : DomHdr} (h : heard hd (fun b => fromMigPeer b hd tag true) b = some b') (hg : migOf b' tag = some g)
    (hlive : g.aborted = false) (hopen : g.committed = false) :
    effRestored hd tag b = destroyTenant tag (updMig tag (fun g => { g with committed := true }) (domSend hd.sender (.commit tag) b')) := by
  rw [effRestored, domTake_eq h]
  simp only [hg, hlive, hopen, Bool.false_eq_true, if_false]

theorem effCommit_of_restored {hd : DomHdr} {go : Bool} (h : heard hd (fun b => fromMigPeer b hd tag false) b = some b')
    (hrestored : (migOf b' tag).any (fun g => g.restored) = true) :
    effCommit hd tag go b = if go then commitTarget tag b' else dropMig tag (destroyTenant tag b') := by
  rw [effCommit, domTake_eq h, if_pos hrestored]

theorem effMigrationAnswerTimeout_of_restored {released : Bool} {p : Pkg} {i : Digest} (hg : migOf b tag = some g) (htarget : g.source = false)
    (hrestored : g.restored = true) (hauth : b.trust.dom.auth = some (p, i)) (hp : p ≠ b.trust.dom.pkg) :
    effMigrationAnswerTimeout tag released b =
      if released then commitTarget tag (domSend p (.migAsk tag) b) else domSend p (.migAsk tag) b := by
  simp only [effMigrationAnswerTimeout, hg, htarget, hrestored, hauth, hp, Bool.not_true, Bool.or_self, Bool.false_eq_true, if_false]

theorem effPkgLost_of_heard {hd : DomHdr} {pkg : Pkg} (h : heard hd (fun b => fromAuth b hd) b = some b') :
    effPkgLost hd pkg b = declareDead pkg b' := domTake_eq h

theorem effPkgLostWaitExpiry_of_alone {pkg : Pkg} (hdka : isDka b = true) (hbound : boundPeer b pkg = true)
    (hnone : b.fo.witness.find? (fun e => e.1 == pkg.toNat) = none) :
    effPkgLostWaitExpiry pkg b = declareDead pkg ((members b).foldl (fun b p => if p = pkg then b else domSend p (.pkgLost pkg) b) b) := by
  simp only [effPkgLostWaitExpiry, hdka, hbound, hnone, Bool.not_false, Bool.and_self, if_true]

end

/-- Settles O37: migration from its opening to commit, abort or loss. -/
theorem migrations : Obligations.Migrations :=
  ⟨fun _ _ _ _ _ _ _ _ _ h hrepl hadm hbound hnone hplace =>
      have hopen := MigMayOpen.mk hadm hbound hnone hplace
      ⟨fun hlive hgood hpod hdrbg => run_eq_settled ((effMigOpen_of_alone h hrepl).trans (bodyMigOpen_source hopen hlive hgood hpod hdrbg)),
       fun hfree => run_eq_settled ((effMigOpen_of_alone h hrepl).trans (bodyMigOpen_target hopen hfree))⟩,
   fun _ _ _ _ _ h hmig hrun => run_eq_settled (effMigFreeze_of_run h hmig hrun),
   fun _ _ hmig hfrozen => run_eq_after (if_pos (by rw [hmig, hfrozen]; rfl)),
   fun _ _ _ _ _ _ h hg hsource hfrozen hlive hopen hsize => run_eq_settled (effMigExport_of_frozen h hg hsource hfrozen hlive hopen hsize),
   fun _ _ _ _ _ _ _ _ _ h hrepl hg htarget honce hblob => run_eq_settled (effMigRestore_of_rebuilt h hrepl hg htarget honce hblob),
   fun _ _ _ _ _ _ h hg hopen hlive => run_eq_settled (effMigAbort_of_open h hg hopen hlive),
   fun _ _ _ _ _ h hg hlive hopen => run_eq_settled (effRestored_of_open h hg hlive hopen),
   fun _ _ _ _ _ h hrestored => run_eq_settled (effCommit_of_restored h hrestored),
   fun _ _ _ _ _ _ hg htarget hrestored hauth hp => run_eq_after (effMigrationAnswerTimeout_of_restored hg htarget hrestored hauth hp),
   fun _ _ _ _ h => run_eq_settled (effPkgLost_of_heard h),
   fun _ _ hdka hbound hnone => run_eq_after (effPkgLostWaitExpiry_of_alone hdka hbound hnone)⟩

/-! Failover. -/

section
variable {b : Block} {p : Nat} {w : Pkg}

theorem effReplicationAck_of_cons {m : Mut} {t : List Mut} (h : b.fo.repl = m :: t) :
    effReplicationAck b = mutEffect m (updFo (fun f => { f with repl := t }) b) := by
  simp only [effReplicationAck, h]

theorem effReplicationTimeout_of_cons {m : Mut} {t : List Mut} (h : b.fo.repl = m :: t) :
    effReplicationTimeout b = (m :: t).foldl (fun b m => mutEffect m b)
      (updFo (fun f => { f with repl := [], sp := .fenced, lost := true, copying := true }) b) := by
  simp only [effReplicationTimeout, h, List.isEmpty_cons, Bool.false_eq_true, if_false]

theorem effSpFullCopyEnd_of_copying (hcopy : b.fo.copying = true) (hsp : b.fo.sp ≠ .acting) (hthere : (spInst b).isSome = true) :
    effSpFullCopyEnd b = updFo (fun f => { f with sp := .standby, lost := false, copying := false }) b := by
  simp only [effSpFullCopyEnd, hcopy, hsp, hthere, Bool.not_true, Bool.false_eq_true, if_false, if_true]

theorem effLeaseRenewalTimer_of_majority {reached : Nat} (hpp : ppInst b = some p) (hw : witnessOf b = some w) (hprim : isPrimary b p = true)
    (hmost : (b.inst.filter (fun e => e.2.built)).length < 2 * reached) :
    effLeaseRenewalTimer reached b = domSend w .leaseRenew (updFo (fun f => { f with leaseEnd := some (b.time + 50000000) }) b) := by
  simp only [effLeaseRenewalTimer, hpp, hw, hprim, decide_eq_true hmost, Bool.and_self, if_true]

theorem effLeaseExpiry_of_due {t : BitVec 64} (ht : b.fo.leaseEnd = some t) (hpp : ppInst b = some p) (hdue : t.toNat ≤ b.time.toNat)
    (hw : (witnessOf b).isSome = true) (hfree : b.fo.ppFenced = false) (hsp : b.fo.sp ≠ .acting) :
    effLeaseExpiry b = raise p 15 (updFo (fun f => { f with ppFenced := true }) b) := by
  simp only [effLeaseExpiry, ht, hpp, decide_eq_true hdue, hw, hfree, bne_iff_ne.mpr hsp, Bool.not_false, Bool.and_self, if_true]

theorem effPpHeartbeatLoss_of_standby (hsp : b.fo.sp = .standby) (hw : witnessOf b = some w) :
    effPpHeartbeatLoss b = domSend w .leaseReq (updFo (fun f => { f with ppAlive := false, asking := true }) b) := by
  have hw' : witnessOf (updFo (fun f => { f with ppAlive := false, asking := true }) b) = some w := hw
  simp only [effPpHeartbeatLoss, hsp, hw', if_true]

theorem effLeaseReq_of_late {pkg : Pkg} {late : Nat} (hprim : (primaryInst b).isSome = true) (hbound : boundPeer b pkg = true)
    (hlate : 10000000 ≤ late) :
    effLeaseReq pkg late b =
      (let t := (domSend pkg (.leaseAnswer true) b).time
       updFo (fun f => { f with witness := Sparse.set 0 f.witness pkg.toNat (t + 50000000) }) (domSend pkg (.leaseAnswer true) b)) := by
  simp only [effLeaseReq, hprim, hbound, decide_eq_true hlate, Bool.and_self, if_true]

theorem effRelinquish_of_standby (hpp : ppInst b = some p) (hprim : isPrimary b p = true) (hw : witnessOf b = some w) (hsp : b.fo.sp = .standby) :
    effRelinquish b = takeover (domSend w .relinquish b) := by
  simp only [effRelinquish, relinquish, hpp, hprim, hw, hsp, Bool.not_true, Bool.false_eq_true, if_false, if_true]

end

/-- Settles O38: replication, the lease, and the takeover. -/
theorem failover : Obligations.Failover :=
  ⟨fun _ _ _ h => ⟨run_eq_after (effReplicationAck_of_cons h), run_eq_after (effReplicationTimeout_of_cons h)⟩,
   fun _ hcopy hsp hthere => run_eq_after (effSpFullCopyEnd_of_copying hcopy hsp hthere),
   fun _ _ _ _ hpp hw hprim hmost => run_eq_after (effLeaseRenewalTimer_of_majority hpp hw hprim hmost),
   fun _ _ _ ht hpp hdue hw hfree hsp => run_eq_after (effLeaseExpiry_of_due ht hpp hdue hw hfree hsp),
   fun _ hthere => run_eq_after (if_pos hthere),
   fun _ _ hsp hw => run_eq_after (effPpHeartbeatLoss_of_standby hsp hw),
   fun _ _ _ hprim hbound hlate => run_eq_after (effLeaseReq_of_late hprim hbound hlate),
   fun _ hsp hasking => run_eq_after (if_pos ⟨hsp, hasking⟩),
   fun _ _ _ hpp hprim hw hsp => run_eq_after (effRelinquish_of_standby hpp hprim hw hsp)⟩

end Sys2Proof.Proofs
end

section
/-! PROOFS. The Context Manager: its objects and references (R312 to R317, R320, R323 to R326), the registers that only the kernel
writes (R313, R325, R360), and Context Seal (R335 to R340). -/

namespace Sys2Proof.Proofs
open Sys2Proof Sys2Proof.Machine Sys2Proof.Laws

/-! Contexts, queues, fences and references. -/

section
variable {src : Src} {b : Block} {i c q k ty : Nat}

theorem bodyCtxDefine_of_free (hoos : packageOos b = false)
    (hwho : (isDriver b (reqOf b src) = true ∧ kClosed b (BitVec.ofNat 6 (fieldNat (srcOp b src 40) 5 0)) = false)
      ∨ (isDriver b (reqOf b src) = false ∧ (BitVec.ofNat 6 (fieldNat (srcOp b src 40) 5 0) : Tag) = (reqOf b src).tag))
    (hfree : lowestFrom (fun k => (getCtx b k).state == .free) 65536 0 = some i) :
    bodyCtxDefine src b =
      (let r := reqOf b src
       let tag : Tag := BitVec.ofNat 6 (fieldNat (srcOp b src 40) 5 0)
       let c := newRef tyCtx i (updCtx i (fun _ => { state := .defined, tag := tag, by' := if r.kernel then none else some r.ctx, label := srcOp b src 48, driver := r.kernel && tag == 0 && !(getTInst b 0).tdisp }) b)
       doneCmd src .ok (handleOf c tyCtx i) c) := by
  have hright : (if isDriver b (reqOf b src) then (if kClosed b (BitVec.ofNat 6 (fieldNat (srcOp b src 40) 5 0)) then [Status.notOwner] else [])
      else if (BitVec.ofNat 6 (fieldNat (srcOp b src 40) 5 0) : Tag) = (reqOf b src).tag then [] else [.notOwner]) = [] := by
    rcases hwho with ⟨hdriver, hopen⟩ | ⟨htenant, htag⟩
    · rw [if_pos hdriver, if_neg (by rw [hopen]; exact Bool.false_ne_true)]
    · rw [if_neg (by rw [htenant]; exact Bool.false_ne_true), if_pos htag]
  simp only [bodyCtxDefine, hoos, hright, hfree, Option.isNone_some, Bool.false_eq_true, if_false, List.append_nil]

theorem releaseCreator_of_held (hname : nameObj b (reqOf b src) [ty] (srcOp b src 40) = (.ok, ty, i)) (hcreator : (getRef b ty i).creator = true) :
    releaseCreator ty src b = doneCmd src .ok 0 (dropRef ty i (updRef ty i (fun r => { r with creator := false }) b)) := by
  simp only [releaseCreator, hname, hcreator, Bool.true_eq_false, and_false, if_false, if_true]

theorem bodyQCreate_of_free (hname : nameObj b (reqOf b src) [tyCtx] (srcOp b src 40) = (.ok, ty, c)) (hlo : 3 ≤ fieldNat (srcOp b src 56) 4 0)
    (hhi : fieldNat (srcOp b src 56) 4 0 ≤ 16) (hprio : fieldNat (srcOp b src 48) 1 0 = 0 → isDriver b (reqOf b src) = true)
    (hfree : lowestFrom (fun k => (getQueue b k).state == .free) 256 0 = some q) :
    bodyQCreate src b =
      (let d := newRef tyQueue q (updQueue q (fun _ => { state := .open, prio := fieldNat (srcOp b src 48) 1 0, log2 := fieldNat (srcOp b src 56) 4 0, tag := (getCtx b c).tag, ctx := BitVec.ofNat 16 c, ring := (srcOp b src 64).toNat, comp := (srcOp b src 72).toNat }) b)
       doneCmd src .ok (handleOf d tyQueue q) d) := by
  have hmay : (fieldNat (srcOp b src 48) 1 0 = 0 && !isDriver b (reqOf b src)) = false := by
    by_cases h0 : fieldNat (srcOp b src 48) 1 0 = 0
    · rw [hprio h0, Bool.not_true, Bool.and_false]
    · rw [decide_eq_false h0, Bool.false_and]
  simp only [bodyQCreate, hname, Nat.not_lt.mpr hlo, Nat.not_lt.mpr hhi, hmay, hfree, or_self, Option.isNone_some, Bool.false_eq_true, if_true, if_false,
    List.append_nil]

theorem bodyQRestart_of_named (hname : nameObj b (reqOf b src) [tyQueue] (srcOp b src 40) = (.ok, ty, q))
    (hpart : partitionReset b (getQueue b q).ctx = false) :
    bodyQRestart src b =
      (let d := if (getQueue b q).cmd.any (fun c => c.phase == .wait || c.phase == .slot) then endUnrun (.queue q) .aborted b else b
       doneCmd src .ok 0 (updQueue q (fun x => { x with head := x.tail, part := none, state := if x.state = .stopped then .open else x.state }) d)) := by
  simp only [bodyQRestart, hname, hpart, Bool.false_eq_true, and_false, if_false, ne_eq, not_true_eq_false]

theorem bodyFncCreate_of_free (hfree : lowestFrom (fun k => !(getFence b k).live) (2 ^ 20) 0 = some k) :
    bodyFncCreate src b =
      (let bytes := ((srcCmd b src).map (·.bytes)).getD []
       let all := (List.range 4).map (fun j => sharerOf (leNat ((bytes.drop (56 + 4 * j)).take 4)))
       let d := newRef tyFence k (updFence k (fun _ => { live := true, value := srcOp b src 40, notify := fieldBit (srcOp b src 48) 0, ctx := (reqOf b src).ctx, tag := (reqOf b src).tag, sharers := all.filter (fun s => s.wait || s.signal) }) b)
       doneCmd src .ok (handleOf d tyFence k) d) := by
  unfold bodyFncCreate
  rw [hfree]

theorem bodyHold_of_named (hname : nameHeld b src = (.ok, ty, i)) (hroom : (getRef b ty i).ref < 2 ^ 32 - 1) :
    bodyHold src b = doneCmd src .ok (BitVec.ofNat 64 ((getRef b ty i).ref + 1))
      (updRef ty i (fun r => { r with ref := (getRef b ty i).ref + 1, takers := takerOf (reqOf b src) :: r.takers }) b) := by
  unfold bodyHold
  rw [hname]
  exact (if_neg (fun hne => hne rfl)).trans (if_neg (Nat.not_le.mpr hroom))

theorem bodyRelease_of_named (hname : nameHeld b src = (.ok, ty, i)) :
    bodyRelease src b =
      (let who := takerOf (reqOf b src)
       doneCmd src .ok (BitVec.ofNat 64 ((getRef b ty i).ref - 1)) (dropRef ty i
         (updRef ty i (fun r => if r.takers.contains who then { r with takers := r.takers.erase who } else { r with creator := false }) b))) := by
  simp only [bodyRelease, hname, if_false, ne_eq, not_true_eq_false]

theorem effObjectFree_of_dying {type : BitVec 4} (halone : replicating b = false) (hdying : (getRef b type.toNat i).dying = true) :
    effObjectFree type i b = bodyObjectFree type.toNat i b :=
  (if_pos hdying).trans (mutate_of_alone _ _ halone)

theorem bodyObjectFree_of_emptyCtx (hdying : (getRef b tyCtx i).dying = true) (hempty : ctxEmpty b (BitVec.ofNat 16 i) = true) :
    bodyObjectFree tyCtx i b =
      (let x := getCtx b i
       let c := if x.state = .resident then updSlot x.slot (fun s => { s with ctx := none }) b else b
       freeRef 1 i (updCtx i (fun _ => {}) { c with cm := { c.cm with ended := c.cm.ended.filter (fun c => c.toNat != i) } })) := by
  unfold bodyObjectFree
  rw [if_neg (by rw [hdying]; exact Bool.false_ne_true)]
  exact if_pos hempty

theorem effObjectFree_of_emptyCtx (halone : replicating b = false) (hdying : (getRef b tyCtx i).dying = true)
    (hempty : ctxEmpty b (BitVec.ofNat 16 i) = true) :
    effObjectFree 1 i b =
      (let x := getCtx b i
       let c := if x.state = .resident then updSlot x.slot (fun s => { s with ctx := none }) b else b
       freeRef 1 i (updCtx i (fun _ => {}) { c with cm := { c.cm with ended := c.cm.ended.filter (fun c => c.toNat != i) } })) := by
  rw [effObjectFree_of_dying (type := 1) halone hdying]
  exact bodyObjectFree_of_emptyCtx hdying hempty

end

/-- Settles O39: contexts, queues, fences and references. -/
theorem contextObjects : Obligations.ContextObjects :=
  ⟨fun _ _ _ h => run_eq_settled (startLocal_eq h),
   fun _ _ _ _ h halone hoos hwho hfree => run_eq_settled ((runCmd_eq h halone).trans (bodyCtxDefine_of_free hoos hwho hfree)),
   fun _ _ _ _ h halone hname hcreator => run_eq_settled ((runCmd_eq h halone).trans (releaseCreator_of_held hname hcreator)),
   fun _ _ _ _ h halone hname hcreator => run_eq_settled ((runCmd_eq h halone).trans (releaseCreator_of_held hname hcreator)),
   fun _ _ _ _ _ _ h halone hname hlo hhi hprio hfree => run_eq_settled ((runCmd_eq h halone).trans (bodyQCreate_of_free hname hlo hhi hprio hfree)),
   fun _ _ _ _ _ h halone hname hpart => run_eq_settled ((runCmd_eq h halone).trans (bodyQRestart_of_named hname hpart)),
   fun _ _ _ _ h halone hfree => run_eq_settled ((runCmd_eq h halone).trans (bodyFncCreate_of_free hfree)),
   fun _ _ _ _ _ h halone hname hroom => run_eq_settled ((runCmd_eq h halone).trans (bodyHold_of_named hname hroom)),
   fun _ _ _ _ _ h halone hname => run_eq_settled ((runCmd_eq h halone).trans (bodyRelease_of_named hname)),
   fun _ _ _ halone hdying => run_eq_after (effObjectFree_of_dying halone hdying),
   fun _ _ halone hdying hempty => run_eq_after (effObjectFree_of_emptyCtx halone hdying hempty)⟩

/-! The registers of the context window that only the kernel writes. -/

section
variable {z : ZReq} {w : Word} {b d : Block}

/-- A kernel write that is served acts. -/
theorem zcpKernel_eq {win : Window} (f : Block → Block) (h : served b z win) (hk : z.attr = .k) : zcpKernel z win f b = f (zcpRsp z.inst .ok b) := by
  rw [zcpKernel, zcpDo_eq h, if_pos hk]

theorem effKernelCommandGo_of_good (h : served b z .ctx) (hk : z.attr = .k) (hgo : fieldBit w 0 = true) :
    let e := zcpRsp z.inst .ok b
    let c := cmdOfSlots ((List.range 16).flatMap (fun k => leBytes 8 (wordOf e.cm.kport.slot.toNat k).toNat)) 0
    let named : Option Ctx := if fieldBit w 1 then some (BitVec.ofNat 16 (fieldNat w 31 16)) else none
    e.cm.kport.busy = false → kportChecks e c named = [] → headerBad e { c with flags := c.flags &&& ~~~ 1 } = false →
    effKernelCommandGo z w b = makeReady .kport
      { e with cm := { e.cm with kport := { e.cm.kport with busy := true, cmd := some c, ctx := if actsForCtx c then named else none } } } := by
  intro e c named hidle hchk hhead
  rw [effKernelCommandGo, zcpKernel_eq _ h hk, if_neg (by rw [hgo]; exact Bool.false_ne_true), if_neg (by rw [hidle]; exact Bool.false_ne_true)]
  have hkeep : ¬ (headerBad e { c with flags := c.flags &&& ~~~ 1 } || (kportChecks e c named).contains .notOwner) = true := by
    rw [hhead, hchk]
    exact Bool.false_ne_true
  refine (if_pos (by rw [hchk]; rfl)).trans ?_
  rw [if_neg hkeep]

theorem effCtxStoreLock_of_open (h : served b z .ctx) (hk : z.attr = .k) (hopen : (zcpRsp z.inst .ok b).cm.storeLock = false) (hset : fieldBit w 0 = true)
    (hd : lockStore (fieldNat w 38 8) (zcpRsp z.inst .ok b) = .ok d) : effCtxStoreLock z w b = d := by
  rw [effCtxStoreLock, zcpKernel_eq _ h hk, if_neg (by rw [hopen]; exact Bool.false_ne_true), if_pos hset, hd]
  rfl

theorem effJnlBaseLock_of_open (h : served b z .jnl) (hk : z.attr = .k) (hopen : (zcpRsp z.inst .ok b).jnl.lock = false) (hset : fieldBit w 0 = true)
    (hd : lockJournal (fieldNat w 38 8) (zcpRsp z.inst .ok b) = .ok d) : effJnlBaseLock z w b = d := by
  rw [effJnlBaseLock, zcpKernel_eq _ h hk, if_neg (by rw [hopen]; exact Bool.false_ne_true), if_pos hset, hd]
  rfl

end

/-- Settles O40: CTX_KCMD, CTX_STORE and JNL_BASE. -/
theorem contextRegisters : Obligations.ContextRegisters :=
  ⟨fun _ _ _ h hk hgo hidle hchk hhead => run_eq_settled (effKernelCommandGo_of_good h hk hgo hidle hchk hhead),
   fun _ _ _ _ h hk hopen hset hd => run_eq_settled (effCtxStoreLock_of_open h hk hopen hset hd),
   fun _ _ _ _ h hk hopen hset hd => run_eq_settled (effJnlBaseLock_of_open h hk hopen hset hd),
   fun _ _ _ h hk hlock => run_eq_after ((zcpKernel_eq _ h hk).trans (if_pos hlock)),
   fun _ _ _ h hk hlock => run_eq_after ((zcpKernel_eq _ h hk).trans (if_pos hlock))⟩

/-! Context Seal. -/

section
variable {src : Src} {b : Block} {c : Ctx} {ci ty k n : Nat} {j : SealJob}

/-- CTX_SEAL to a place that the package serves opens the seal. -/
theorem bodyCtxSeal_of_good :
    let k := fieldNat (srcOp b src 40) 5 0
    let base := (srcOp b src 48).toNat
    let sram := (srcOp b src 56).toNat
    let states := min 512 (Config.stateLines b.freeCtr).toNat
    let total := states + sram
    let d := (fresh b).2
    (getSlot d k).ctx = some c → (getSlot d k).wr = none → sram ≤ 268435456 → base % 128 = 0 → base + 128 * total ≤ 2 ^ 52 →
    imageServed d (base / 128) total = true → (getRef d tyCtx c.toNat).dying = false → mayUse d (reqOf d src) tyCtx c.toNat = true →
    streamsBusy d false (base / 128) total = false →
    bodyCtxSeal src b =
      (let count := (getCtx d c.toNat).count + 1
       putBack c (setJob k false (some { restore := false, ctx := c, src := src, base := base, states := states, lines := total, started := false, count := count, next := [], got := 0, digest := 0, bad := none, key := sealKey d c count }) d)) := by
  intro k base sram states total d hctx hwr hsram hbase hend hserved hlive hmay hstreams
  have hplace : (decide (268435456 < sram) || base % 128 != 0 || decide (2 ^ 52 < base + 128 * total) || !imageServed d (base / 128) total) = false := by
    rw [decide_eq_false (Nat.not_lt.mpr hsram), hbase, decide_eq_false (Nat.not_lt.mpr hend), hserved]
    rfl
  unfold bodyCtxSeal
  change (match (getSlot d k).ctx with | none => _ | some c => _) = _
  rw [hctx]
  refine if_pos ?_
  · change ((if ((decide (268435456 < sram) || base % 128 != 0 || decide (2 ^ 52 < base + 128 * total) || !imageServed d (base / 128) total)
        || (getSlot d k).wr.isSome || (getRef d tyCtx c.toNat).dying) then [Status.badConfig] else [])
      ++ (if mayUse d (reqOf d src) tyCtx c.toNat then [] else [Status.notOwner])
      ++ (if !(decide (268435456 < sram) || base % 128 != 0 || decide (2 ^ 52 < base + 128 * total) || !imageServed d (base / 128) total)
        && streamsBusy d false (base / 128) total then [Status.quota] else [])).isEmpty = true
    rw [hplace, hwr, hlive, hmay, hstreams]
    rfl

/-- What CTX_RESTORE asks of its context and slot (R335, R338). -/
structure MayRestore (src : Src) (ty c : Nat) (b : Block) : Prop where
  named : nameObj b (reqOf b src) [tyCtx] (srcOp b src 40) = (.ok, ty, c)
  slot : (srcOp b src 48).toNat < 64
  noRead : (getSlot b (fieldNat (srcOp b src 48) 5 0)).rd = none
  empty : (getSlot b (fieldNat (srcOp b src 48) 5 0)).ctx = none
  still : ctxMoving b (BitVec.ofNat 16 c) = false
  inService : packageOos b = false

theorem bodyCtxRestore_of_defined (h : MayRestore src ty ci b) (hstate : (getCtx b ci).state = .defined) :
    bodyCtxRestore src b = doneCmd src .ok 0 (updSlot (fieldNat (srcOp b src 48) 5 0) (fun s => { s with ctx := some (BitVec.ofNat 16 ci) })
      (updCtx ci (fun x => { x with state := .resident, slot := fieldNat (srcOp b src 48) 5 0, mask := BitVec.ofNat 128 (leNat (((((srcCmd b src).map (·.bytes)).getD []).drop 56).take 16)) }) b)) := by
  have hresident : (CtxState.defined == CtxState.resident) = false := rfl
  simp only [bodyCtxRestore, h.named, h.noRead, h.empty, h.still, h.inService, hstate, hresident, decide_eq_false (Nat.not_le.mpr h.slot), reduceCtorEq,
    decide_false, Option.isSome_none, Bool.or_self, Bool.false_and, Bool.false_eq_true, if_true, if_false, List.append_nil, List.isEmpty_nil, Bool.not_true]

theorem bodyCtxRestore_of_sealed (h : MayRestore src ty ci b) (hstate : (getCtx b ci).state = .sealed)
    (hstreams : streamsBusy b true ((getCtx b ci).base / 128) (getCtx b ci).lines = false) :
    bodyCtxRestore src b =
      (let x := getCtx b ci
       setJob (fieldNat (srcOp b src 48) 5 0) true (some { restore := true, ctx := BitVec.ofNat 16 ci, src := src, base := x.base, states := x.states, lines := x.lines, started := true, count := x.count, next := [], got := 0, digest := 0, bad := none, key := sealKey b (BitVec.ofNat 16 ci) x.count })
         (updCtx ci (fun x => { x with slot := fieldNat (srcOp b src 48) 5 0, mask := BitVec.ofNat 128 (leNat (((((srcCmd b src).map (·.bytes)).getD []).drop 56).take 16)) }) b)) := by
  have hresident : (CtxState.sealed == CtxState.resident) = false := rfl
  simp only [bodyCtxRestore, h.named, h.noRead, h.empty, h.still, h.inService, hstate, hstreams, hresident, decide_eq_false (Nat.not_le.mpr h.slot),
    Option.isSome_none, Bool.or_self, Bool.false_and, Bool.and_false, Bool.false_eq_true, if_true, if_false, List.append_nil, List.isEmpty_nil, Bool.not_true]

theorem effSealStreamLine_of_expected {write : Bool} {rq : MnReq} {data : Line} {sb : Sideband} (hj : streamOf b (!write) rq.addr.toNat = some (k, j))
    (hn : (mapLine b rq.addr.toNat).map (·.1) = some n) (hctx : rq.ctx = j.ctx) (htag : rq.tag = (getCtx b j.ctx.toNat).tag)
    (htakes : streamTakes b j n rq.addr.toNat = true) :
    effSealStreamLine n write rq data sb b = (if write then sealWriteLine n k j rq data else sealReadLine n k j rq data sb) b := by
  unfold effSealStreamLine
  dsimp only
  rw [hj]
  refine (if_neg (not_not_intro hn)).trans ((if_neg (fun hne => hne.elim (· hctx) (· htag))).trans
    ((if_neg (by rw [htakes]; exact Bool.false_ne_true)).trans ?_))
  cases write
  · rfl
  · rfl

theorem sealReadLine_of_ok {rq : MnReq} {data : Line} {sb : Sideband}
    (hok : statusWorst ((imageCheck b j rq.addr.toNat data sb).early ++ (imageCheck b j rq.addr.toNat data sb).late) = .ok) :
    sealReadLine n k j rq data sb b = setJob k true (some (streamStep b j n rq.addr.toNat (imageMac b j rq.addr.toNat data)))
      (imageAnswer n j rq.addr.toNat (rdOut rq.id .ok (imageCheck b j rq.addr.toNat data sb).data (imageCheck b j rq.addr.toNat data sb).sorrel false) b) := by
  have hfine : statusFailing .ok = false := rfl
  simp only [sealReadLine, hok, hfine, Bool.false_eq_true, if_false, if_true]

theorem sealReadLine_of_failing {rq : MnReq} {data : Line} {sb : Sideband} {st : Status}
    (hst : statusWorst ((imageCheck b j rq.addr.toNat data sb).early ++ (imageCheck b j rq.addr.toNat data sb).late) = st) (hfail : statusFailing st = true) :
    sealReadLine n k j rq data sb b = spoilRestore k j st
      (memFailure n rq st (imageAnswer n j rq.addr.toNat (rdOut rq.id st 0 (imageCheck b j rq.addr.toNat data sb).sorrel false) b)) := by
  have hne : st ≠ .ok := by
    rintro rfl
    cases hfail
  simp only [sealReadLine, hst, hfail, hne, if_true, if_false]

theorem effSealEnd_of_whole (halone : replicating b = false) (hj : (getSlot b k).wr = some j) (hstarted : j.started = true) (hgot : j.lines ≤ j.got) :
    effSealEnd k b =
      (let d := updCtx j.ctx.toNat (fun x => { x with state := .sealed, count := j.count, base := j.base, lines := j.lines, states := j.states, digest := j.digest }) (dropCtxKeys j.ctx b)
       doneCmd j.src .ok 0 (updSlot k (fun s => { s with ctx := none, wr := none }) d)) := by
  simp only [effSealEnd, bodySealEnd, mutate_of_alone _ _ halone, hj, hstarted, decide_eq_true hgot, decide_eq_false (Nat.not_lt.mpr hgot), Bool.not_true,
    Bool.and_self, Bool.or_self, Bool.false_eq_true, if_true, if_false]

/-- RESTORE_END of a restore whose lines have all come checks the digest. -/
theorem effRestoreEnd_of_whole (halone : replicating b = false) (hj : (getSlot b k).rd = some j) (hwr : (getSlot b k).wr = none) (hgot : j.lines ≤ j.got) :
    effRestoreEnd k b = if j.digest = (getCtx b j.ctx.toNat).digest then
        doneCmd j.src .ok 0 (updSlot k (fun s => { s with ctx := some j.ctx, rd := none }) (updCtx j.ctx.toNat (fun x => { x with state := .resident }) b))
      else spoilRestore k j .tagFail b := by
  simp only [effRestoreEnd, bodyRestoreEnd, mutate_of_alone _ _ halone, hj, hwr, decide_eq_true hgot, decide_eq_false (Nat.not_lt.mpr hgot),
    Option.isNone_none, Option.isSome_none, Bool.and_self, Bool.or_self, Bool.false_eq_true, if_true, if_false]

theorem effSealTimeout_of_open {restore : Bool} (halone : replicating b = false)
    (hopen : (if restore then (getSlot b k).rd else (getSlot b k).wr) ≠ none) : effSealTimeout k restore b = stopSeal k restore .timeout b :=
  (if_pos (Option.isSome_iff_ne_none.mpr hopen)).trans (mutate_of_alone _ _ halone)

end

/-- Settles O41: seal and restore, line by line. -/
theorem contextSeal : Obligations.ContextSeal :=
  ⟨fun _ _ _ _ h halone hctx hwr hsram hbase hend hserved hlive hmay hstreams => run_eq_settled ((runCmd_eq h halone).trans
      (bodyCtxSeal_of_good hctx hwr hsram hbase hend hserved hlive hmay hstreams)),
   fun _ _ _ _ _ h halone hoos hname hslot hrd hempty hstill =>
      have hmay := MayRestore.mk hname hslot hrd hempty hstill hoos
      ⟨fun hstate => run_eq_settled ((runCmd_eq h halone).trans (bodyCtxRestore_of_defined hmay hstate)),
       fun hstate hstreams => run_eq_settled ((runCmd_eq h halone).trans (bodyCtxRestore_of_sealed hmay hstate hstreams))⟩,
   fun _ _ _ _ _ _ _ _ hj hn hctx htag htakes => run_eq_after (effSealStreamLine_of_expected hj hn hctx htag htakes),
   fun _ _ _ _ _ _ _ => ⟨sealReadLine_of_ok, sealReadLine_of_failing rfl⟩,
   fun _ _ _ halone hj hstarted hgot => run_eq_after (effSealEnd_of_whole halone hj hstarted hgot),
   fun _ _ _ halone hj hwr hgot =>
      ⟨fun hdigest => run_eq_after ((effRestoreEnd_of_whole halone hj hwr hgot).trans (if_pos hdigest)),
       fun hdigest => run_eq_after ((effRestoreEnd_of_whole halone hj hwr hgot).trans (if_neg hdigest))⟩,
   fun _ _ halone => ⟨fun hopen => run_eq_after (effSealTimeout_of_open halone hopen), fun hopen => run_eq_after (effSealTimeout_of_open halone hopen)⟩⟩

end Sys2Proof.Proofs
end

section
/-! PROOFS. Fences (R327 to R331). -/

namespace Sys2Proof.Proofs
open Sys2Proof Sys2Proof.Machine Sys2Proof.Laws

section
variable {b : Block} {q k : Nat} {src : Src} {st : Status} {c : Cmd} {f : FenceLine}

/-! Waits and signals of this package. -/

theorem effFenceWaitSatisfied_of_met (halone : replicating b = false) (hmet : waitMet b q = some st) : effFenceWaitSatisfied q b = waitOver q st b := by
  rw [effFenceWaitSatisfied, if_pos (by rw [hmet]; rfl), mutate_of_alone _ _ halone, bodyFenceWait, hmet]

theorem waitOver_of_failing (hc : (getQueue b q).cmd = some c) (hfail : statusFailing st = true) (hany : cmdAny c = false) :
    waitOver q st b = endUnrun (.queue q) st b := by
  simp only [waitOver, hc, hfail, hany, Bool.not_false, Bool.and_self, if_true]

theorem waitOver_of_going (hc : (getQueue b q).cmd = some c) (hgo : statusFailing st = false ∨ cmdAny c = true) :
    waitOver q st b = makeReady (.queue q) b := by
  have hstay : (statusFailing st && !cmdAny c) = false := by
    rcases hgo with h | h
    · rw [h, Bool.false_and]
    · rw [h, Bool.not_true, Bool.and_false]
  simp only [waitOver, hc, hstay, Bool.false_eq_true, if_false]

/-- A signal whose earlier writes are acknowledged takes the tally, then goes to its fence. -/
theorem effFenceSignalApply_of_drained (hc : srcCmd b src = some c) (hphase : c.phase = .signal)
    (hdrained : (openWrites b (reqOf b src).ctx).any c.before.contains = false) :
    effFenceSignalApply src b =
      (let r := takeSignal b (reqOf b src).ctx c.status
       let d := updCmd src (fun c => { c with phase := .remote }) r.2
       if !handleRemote d (sigHandle c) then mutate (.fenceSignalApply src r.1) (bodyFenceSignalApply src r.1) d
       else if d.fab.dead.contains (handlePkg (sigHandle c)) then toRecord src (updCmd src (fun c => { c with status := statusMin c.status .outOfService }) d)
       else sendSignal src r.1 (updCmd src (fun c => { c with kill := some r.1 }) d)) := by
  simp only [effFenceSignalApply, hc, hphase, hdrained, ne_eq, not_true_eq_false, Bool.false_eq_true, or_self, if_false]

theorem effFenceSignalApply_of_home (hc : srcCmd b src = some c) (hphase : c.phase = .signal)
    (hdrained : (openWrites b (reqOf b src).ctx).any c.before.contains = false) :
    let r := takeSignal b (reqOf b src).ctx c.status
    let d := updCmd src (fun c => { c with phase := .remote }) r.2
    handleRemote d (sigHandle c) = false → replicating d = false → effFenceSignalApply src b = bodyFenceSignalApply src r.1 d := by
  intro r d hhome halone
  rw [effFenceSignalApply_of_drained hc hphase hdrained]
  exact (if_pos (by rw [hhome]; rfl)).trans (mutate_of_alone _ _ halone)

theorem effFenceSignalApply_of_remote (hc : srcCmd b src = some c) (hphase : c.phase = .signal)
    (hdrained : (openWrites b (reqOf b src).ctx).any c.before.contains = false) :
    let r := takeSignal b (reqOf b src).ctx c.status
    let d := updCmd src (fun c => { c with phase := .remote }) r.2
    handleRemote d (sigHandle c) = true → d.fab.dead.contains (handlePkg (sigHandle c)) = false →
    effFenceSignalApply src b = sendSignal src r.1 (updCmd src (fun c => { c with kill := some r.1 }) d) := by
  intro r d hremote halive
  rw [effFenceSignalApply_of_drained hc hphase hdrained]
  exact (if_neg (by rw [hremote]; exact Bool.false_ne_true)).trans (if_neg (by rw [halive]; exact Bool.false_ne_true))

theorem bodyFenceSignalApply_of_live (hc : srcCmd b src = some c) (hlive : liveIndex b tyFence (sigHandle c) = some k) :
    bodyFenceSignalApply src st b = toRecord src (fenceUpdate k (sigValue c) st b) := by
  simp only [bodyFenceSignalApply, hc, hlive]

theorem effSignalResendTimer_of_again (hc : srcCmd b src = some c) (hphase : c.phase = .remote) (hsent : c.sends ≠ 0) (hfew : c.sends < 3) :
    effSignalResendTimer src b = sendSignal src (c.kill.getD c.status) b := by
  simp only [effSignalResendTimer, hc, hphase, hsent, hfew, ne_eq, not_true_eq_false, or_self, if_false, if_true]

theorem effSignalResendTimer_of_last (hc : srcCmd b src = some c) (hphase : c.phase = .remote) (hsent : c.sends ≠ 0) (hmany : 3 ≤ c.sends) :
    effSignalResendTimer src b = toRecord src (updCmd src (fun c => { c with status := statusMin c.status .timeout }) b) := by
  simp only [effSignalResendTimer, hc, hphase, hsent, Nat.not_lt.mpr hmany, ne_eq, not_true_eq_false, or_self, if_false]

/-! Fence lines at a home. -/

theorem effSignal_of_right (hk : homeFence b f = some k) (halone : replicating b = false) (hright : sharerRight (getFence b k) f.src f.tag true = true) :
    effSignal f b = ctlSend f.src k (fenceMsg 2 f.value f.handle f.status f.tag 0) f.tag (fenceUpdate k f.value f.status b) := by
  simp only [effSignal, bodySignal, mutate_of_alone _ _ halone, hk, hright, if_true]

theorem effSignal_of_noRight (hk : homeFence b f = some k) (hright : sharerRight (getFence b k) f.src f.tag true = false) : effSignal f b = fenceDrop b := by
  simp only [effSignal, hk, hright, Bool.false_eq_true, if_false]

theorem effSignalAck_of_awaited (hsrc : handlePkg f.handle = f.src)
    (hsome : (Src.kport :: (b.cm.queues.map (fun q => Src.queue q.1))).filter (awaitsAck b f) ≠ []) :
    effSignalAck f b = ((Src.kport :: (b.cm.queues.map (fun q => Src.queue q.1))).filter (awaitsAck b f)).foldl (fun b s => toRecord s b) b := by
  have hfull := List.isEmpty_eq_false_iff.mpr hsome
  exact if_neg (fun hor => hor.elim (fun hempty => Bool.false_ne_true (hfull.symm.trans hempty)) (fun hne => hne hsrc))

theorem effSubscribe_of_right (hk : homeFence b f = some k) (hright : sharerRight (getFence b k) f.src f.tag false = true) (hroom : slotsUsed b < 4096) :
    effSubscribe f b =
      (let x := getFence b k
       ctlSend f.src k (fenceMsg 5 x.value f.handle x.status f.tag x.fails) f.tag
         (updFence k (fun x => { x with subs := x.subs.filter (fun s => s != (f.src, f.tag)) ++ [(f.src, f.tag)] }) b)) := by
  simp only [effSubscribe, hk, hright, decide_eq_false (Nat.not_le.mpr hroom), Bool.and_false, Bool.not_true, Bool.false_eq_true, if_false]

theorem effSubscribe_of_noRight (hk : homeFence b f = some k) (hright : sharerRight (getFence b k) f.src f.tag false = false) :
    effSubscribe f b = ctlSend f.src (handleIdx f.handle) (fenceMsg 5 0 f.handle .notOwner f.tag 0) f.tag b := by
  simp only [effSubscribe, hk, hright, Bool.not_false, if_true]

theorem effQuery_of_home (hk : homeFence b f = some k) :
    effQuery f b = if sharerRight (getFence b k) f.src f.tag false
      then ctlSend f.src k (fenceMsg 5 (getFence b k).value f.handle (getFence b k).status f.tag (getFence b k).fails) f.tag b else fenceDrop b := by
  simp only [effQuery, hk]

theorem effUnsubscribe_of_subscribed (hk : homeFence b f = some k) (hsub : (getFence b k).subs.contains (f.src, f.tag) = true) :
    effUnsubscribe f b = updFence k (fun x => { x with subs := x.subs.filter (fun s => s != (f.src, f.tag)) }) b := by
  simp only [effUnsubscribe, hk, hsub, if_true]

/-! Mirrors of fences of other packages. -/

variable {m : Mirror}

theorem effUpdateFence_of_mirror (hm : findMirror b f.handle f.tag = some m) (hsrc : handlePkg f.handle = f.src) :
    effUpdateFence f b = if f.fails = 0 ∧ (f.status = .notOwner ∨ f.status = .aborted) then endMirrorWaits f.handle f.tag f.status b
      else { b with cm := { b.cm with mirrors := updateWhere (fun m => m.handle == f.handle && m.tag == f.tag) (fun m => { m with value := if m.value.toNat < f.value.toNat then f.value else m.value, status := f.status, fails := f.fails, heard := true }) b.cm.mirrors } } := by
  simp only [effUpdateFence, hm, hsrc, ne_eq, not_true_eq_false, if_false]

theorem effQueryTimer_of_wanted (hm : b.cm.mirrors[k]? = some m) (hwanted : mirrorWanted b m = true) :
    effQueryTimer k b = ctlSend (handlePkg m.handle) (handleIdx m.handle) (fenceMsg 6 m.value m.handle m.status m.tag 0) m.tag b := by
  simp only [effQueryTimer, hm, hwanted, if_true]

/-- A wait held for want of a slot proceeds. -/
def slotFreed (b : Block) : Block :=
  match slotWaiter b with
  | some q => takeSlot q b
  | none => b

theorem effFenceSlotFree_of_unwanted (hm : b.cm.mirrors[k]? = some m) (hunwanted : mirrorWanted b m = false) :
    effFenceSlotFree k b = slotFreed (ctlSend (handlePkg m.handle) (handleIdx m.handle) (fenceMsg 4 0 m.handle .ok m.tag 0) m.tag
      { b with cm := { b.cm with mirrors := b.cm.mirrors.filter (fun x => x != m) } }) := by
  simp only [effFenceSlotFree, hm, hunwanted, Bool.false_eq_true, if_false]
  rfl

end

/-- Settles O43: waits, signals, fence lines and mirrors. -/
theorem fences : Obligations.Fences :=
  ⟨fun _ _ _ halone hmet => run_eq_after (effFenceWaitSatisfied_of_met halone hmet),
   fun _ _ _ _ hc => ⟨waitOver_of_failing hc, waitOver_of_going hc⟩,
   fun _ _ _ hc hphase hdrained =>
      ⟨fun hhome halone => run_eq_settled (effFenceSignalApply_of_home hc hphase hdrained hhome halone),
       fun hremote halive => run_eq_settled (effFenceSignalApply_of_remote hc hphase hdrained hremote halive)⟩,
   fun _ _ _ _ _ hc hlive => bodyFenceSignalApply_of_live hc hlive,
   fun _ _ _ hc hphase hsent =>
      ⟨fun hfew => run_eq_after (effSignalResendTimer_of_again hc hphase hsent hfew),
       fun hmany => run_eq_after (effSignalResendTimer_of_last hc hphase hsent hmany)⟩,
   fun _ _ _ hk halone hright => run_eq_after (effSignal_of_right hk halone hright),
   fun _ _ _ hk hright => run_eq_after (effSignal_of_noRight hk hright),
   fun _ _ hsrc hsome => run_eq_after (effSignalAck_of_awaited hsrc hsome),
   fun _ _ _ hk hright =>
      ⟨fun hroom => run_eq_after (effSubscribe_of_right hk hright hroom),
       run_eq_after ((effQuery_of_home hk).trans (if_pos hright))⟩,
   fun _ _ _ hk hright =>
      ⟨run_eq_after (effSubscribe_of_noRight hk hright),
       run_eq_after ((effQuery_of_home hk).trans (if_neg (by rw [hright]; exact Bool.false_ne_true)))⟩,
   fun _ _ _ hk hsub => run_eq_after (effUnsubscribe_of_subscribed hk hsub),
   fun _ _ _ hm hsrc =>
      ⟨fun hend => run_eq_after ((effUpdateFence_of_mirror hm hsrc).trans (if_pos hend)),
       fun hkeep => run_eq_after ((effUpdateFence_of_mirror hm hsrc).trans (if_neg hkeep))⟩,
   fun _ _ _ hm =>
      ⟨fun hwanted => run_eq_after (effQueryTimer_of_wanted hm hwanted),
       fun hunwanted => run_eq_settled (effFenceSlotFree_of_unwanted hm hunwanted)⟩⟩

end Sys2Proof.Proofs
end

section
/-! PROOFS. Tensor dumps (R391 to R393), register accesses by offset (R6, R7, R20 to R22, R51, R63), and the state after reset. -/

namespace Sys2Proof.Proofs
open Sys2Proof Sys2Proof.Machine Sys2Proof.Laws

/-! Tensor dumps. -/

section
variable {b : Block} {z : ZReq} {d i : Nat} {w : Word}

/-- Who may write a dump's word 0 (R391): the kernel, or a tenant for its own dump or for one that is not live. -/
def MayDump (z : ZReq) (x : Dump) : Prop := z.attr = .k ∨ (z.attr = .t ∧ (x.tag = z.tag ∨ (x.state ≠ 1 ∧ x.state ≠ 2)))

theorem dumpDo_of_right (f : Block → Block) (h : served b z .tel) (hd : d < 4) (hprim : isPrimary (zcpRsp z.inst .ok b) z.inst = true)
    (hmay : MayDump z (getDump (zcpRsp z.inst .ok b) d)) : dumpDo z d true f b = f (zcpRsp z.inst .ok b) := by
  rw [dumpDo, zcpDo_eq h]
  refine (if_neg ?_).trans (if_neg ?_)
  · rw [hprim, decide_eq_false (Nat.not_le.mpr hd)]
    exact Bool.false_ne_true
  · rcases hmay with hk | ⟨ht, htag | ⟨harmed, hrunning⟩⟩
    · rw [hk]
      exact fun hno => hno.elim Attr.noConfusion (fun h => Attr.noConfusion h.1)
    · exact fun hno => hno.elim (fun hm => Attr.noConfusion (ht.symm.trans hm)) (fun h => h.2.1 htag)
    · rintro (hm | ⟨-, -, hlive | hfirst⟩)
      · exact Attr.noConfusion (ht.symm.trans hm)
      · rw [beq_eq_false_iff_ne.mpr harmed, beq_eq_false_iff_ne.mpr hrunning] at hlive
        cases hlive
      · cases hfirst

theorem effArmDump_of_good (h : served b z .tel) (hd : d < 4) :
    let b' := zcpRsp z.inst .ok b
    isPrimary b' z.inst = true → (z.attr = .k ∨ z.attr = .t) → (getDump b' d).state ≠ 1 → (getDump b' d).state ≠ 2 →
    let e := updDump d (fun x => { dumpWord0 z w x with state := 0, status := .ok, out := [], sub := false }) b'
    dumpChecks e (getDump e d) = [] →
    effArmDump z d w b = pin (getDump e d).key (updDump d (fun x => { x with state := 1 }) e) := by
  intro b' hprim hwho harmed hrunning e hchk
  rw [effArmDump, dumpDo_of_right _ h hd hprim (hwho.imp_right (fun ht => ⟨ht, .inr ⟨harmed, hrunning⟩⟩)),
    if_neg (fun hlive => hlive.elim harmed hrunning)]
  exact if_pos (by rw [hchk]; rfl)

theorem effCancel_of_live (h : served b z .tel) (hd : d < 4) :
    let b' := zcpRsp z.inst .ok b
    isPrimary b' z.inst = true → (z.attr = .k ∨ (z.attr = .t ∧ (getDump b' d).tag = z.tag)) → ((getDump b' d).state = 1 ∨ (getDump b' d).state = 2) →
    effCancel z d w b = dumpStop d .aborted b' := by
  intro b' hprim hwho hlive
  rw [effCancel, dumpDo_of_right _ h hd hprim (hwho.imp_right (fun ht => ⟨ht.1, .inl ht.2⟩)), if_pos hlive]

/-- An armed dump whose fence has reached VALUE starts, or ends where its key is no longer usable. -/
theorem effDumpStart_of_reached {v : Word} {st : Status} (hfence : fenceKnown b (getDump b d).fence (getDump b d).tag = some (v, st))
    (hprim : primaryInst b = some i) (harmed : (getDump b d).state = 1) (hreached : (getDump b d).value.toNat ≤ v.toNat) :
    effDumpStart d b =
      if keyUsable (getKey b (getDump b d).key) then
        let x := getDump b d
        let y := { x with state := 2, seen := v, start := thyme b i, mat := kdfKey (getKey b x.key).key "debug-export" (leBytes 8 x.id.toNat) }
        updDump d (fun _ => { y with out := [dumpHeader y] }) b
      else dumpStop d .keyOrphaned b := by
  simp only [effDumpStart, hfence, hprim, harmed, hreached, and_self, if_true]

end

/-- Settles O45: ARM, CANCEL, the start and the end of a dump. -/
theorem tensorDumps : Obligations.TensorDumps :=
  ⟨fun _ _ _ _ h hd hprim hwho harmed hrunning hchk => run_eq_settled (effArmDump_of_good h hd hprim hwho harmed hrunning hchk),
   fun _ _ _ _ h hd hprim hwho hlive => run_eq_settled (effCancel_of_live h hd hprim hwho hlive),
   fun _ _ _ _ _ hfence hprim harmed hreached =>
      ⟨fun hkey => run_eq_after ((effDumpStart_of_reached hfence hprim harmed hreached).trans (if_pos hkey)),
       fun hkey => run_eq_after ((effDumpStart_of_reached hfence hprim harmed hreached).trans (if_neg (by rw [hkey]; exact Bool.false_ne_true)))⟩,
   fun _ _ _ hrunning hlines => run_eq_after (if_pos ⟨hrunning, hlines⟩)⟩

/-! Register accesses. -/

section
variable {b : Block} {z : ZReq} {off : Nat} {w v : Word} {st : Status}

theorem zcpDo_of_refused {win : Window} (f : Block → Block) (hrel : (getInst b z.inst).released = true) (hst : zcpRefusal b z true win = some st) :
    zcpDo z true win f b = zcpRefuse z st b := by
  simp only [zcpDo, hrel, hst, if_true]

theorem zcpDo_of_unreleased {wr : Bool} {win : Window} (f : Block → Block) (hrel : (getInst b z.inst).released = false) : zcpDo z wr win f b = b := by
  simp only [zcpDo, hrel, Bool.false_eq_true, if_false]

theorem zcpRead_of_served (hrel : (getInst b z.inst).released = true) (hok : zcpRefusal b z false (windowOf (zcpOff off)) = none)
    (hv : readWindow b z (zcpOff off) = .ok v) : zcpRead b z off = (.ok, v) := by
  simp only [zcpRead, hrel, hok, hv, if_true]

theorem zcpRead_of_refused (hrel : (getInst b z.inst).released = true) (hst : zcpRefusal b z false (windowOf (zcpOff off)) = some st) :
    zcpRead b z off = (st, 0) := by
  simp only [zcpRead, hrel, hst, if_true]

theorem zcpRead_of_safe (hrel : (getInst b z.inst).released = false) (hsafe : safeReadable b z (windowOf (zcpOff off)) = true)
    (hv : readWindow b z (zcpOff off) = .ok v) : zcpRead b z off = (.ok, v) := by
  simp only [zcpRead, hrel, hsafe, hv, Bool.false_eq_true, if_false, if_true]

/-- A read is answered by what ZCP gives, at a released die or where Safe State leaves the window readable. -/
theorem zcpReadAccess_of_open (hopen : (getInst b z.inst).released = true ∨ safeReadable b z (windowOf (zcpOff off)) = true)
    (hread : zcpRead b z off = (st, v)) :
    zcpReadAccess z off b = if st = .ok then updInst z.inst (fun s => { s with rsp := .ok, rspData := v }) b else zcpRefuse z st b := by
  have hanswer : (!(getInst b z.inst).released && !safeReadable b z (windowOf (zcpOff off))) = false := by
    rcases hopen with h | h
    · rw [h]; rfl
    · rw [h, Bool.not_true, Bool.and_false]
  simp only [zcpReadAccess, hread, hanswer, Bool.false_eq_true, if_false]

theorem zcpReadAccess_of_closed (hrel : (getInst b z.inst).released = false) (hsafe : safeReadable b z (windowOf (zcpOff off)) = false) :
    zcpReadAccess z off b = b := by
  simp only [zcpReadAccess, hrel, hsafe, Bool.not_false, Bool.and_self, if_true]

theorem writeWindow_of_fixed (h : windowOf off ∈ [Window.ident, .ao, .thy, .bst, .hole]) : writeWindow z off w b = b := by
  simp only [List.mem_cons, List.not_mem_nil, or_false] at h
  rcases h with h | h | h | h | h
  all_goals simp only [writeWindow, h]

end

/-- Settles O46: writes and reads of a register, refused, before release, and of windows that no write changes. -/
theorem registerWrites : Obligations.RegisterWrites :=
  ⟨fun _ _ _ _ h => run_eq_after ((if_pos rfl).trans (zcpDo_eq h)),
   fun _ _ _ _ _ hrel hst => run_eq_after ((if_pos rfl).trans (zcpDo_of_refused _ hrel hst)),
   fun _ _ _ _ hrel => run_eq_after ((if_pos rfl).trans (zcpDo_of_unreleased _ hrel)),
   fun _ _ _ _ hrel =>
      ⟨fun _ hok hv => run_eq_after ((zcpReadAccess_of_open (.inl hrel) (zcpRead_of_served hrel hok hv)).trans (if_pos rfl)),
       fun _ hne hst => run_eq_after ((zcpReadAccess_of_open (.inl hrel) (zcpRead_of_refused hrel hst)).trans (if_neg hne))⟩,
   fun _ _ _ _ hrel =>
      ⟨fun hsafe => run_eq_after (zcpReadAccess_of_closed hrel hsafe),
       fun _ hsafe hv => run_eq_after ((zcpReadAccess_of_open (.inr hsafe) (zcpRead_of_safe hrel hsafe hv)).trans (if_pos rfl))⟩,
   fun _ _ _ _ h => writeWindow_of_fixed h⟩

/-! The state after reset. -/

/-- Settles O58: every clause is a fixed value of the reset state. -/
theorem resetState : Obligations.ResetState := by
  unfold Obligations.ResetState
  decide

end Sys2Proof.Proofs
end
